-- ==== Sys2Proof/Word.lean ====
section
/-!
DEFINITION. Word.lean: the bit-vector types of the machine (00_scope.md R6, R8) and their plainest operations.
-/
namespace Sys2Proof

/-- A 16-bit short word. -/
abbrev W16 := BitVec 16
/-- A 24-bit instruction address. -/
abbrev W24 := BitVec 24
/-- A 32-bit normal word, system register or address. -/
abbrev W32 := BitVec 32
/-- A 40-bit data register. -/
abbrev W40 := BitVec 40
/-- A 48-bit instruction or extended-precision memory word. -/
abbrev W48 := BitVec 48
/-- A 64-bit long word. -/
abbrev W64 := BitVec 64
/-- An 80-bit multiplier result. -/
abbrev W80 := BitVec 80

end Sys2Proof
end

