-- ==== Sys2Proof/Syntax.lean ====
section
/-!
DEFINITION. Syntax.lean: the instruction set of the ADSP-21160, one constructor of `Instr` per row of the opcode table
(30_encoding.md), with its register names, conditions and compute operations.
-/
namespace Sys2Proof

/-! ### Registers and conditions -/

/-- A register-file location, 0 to 15 (30_encoding.md R222). -/
abbrev Reg := BitVec 4

/-- The number, 0 to 7, of an index or modify register within its DAG (30_encoding.md R222). -/
abbrev DagNum := BitVec 3

/-- The sixteen system registers (30_encoding.md R221). -/
inductive SReg where
  | ustat1 | ustat2 | mode1 | mmask | mode2 | flags | astatx | astaty | stkyx | stkyy | irptl | imask | imaskp | lirptl
  | ustat3 | ustat4
deriving DecidableEq, Repr

/-- The universal registers (10_state.md R20, 30_encoding.md R220). -/
inductive UReg where
  | r (n : Reg) | i (n : Reg) | m (n : Reg) | l (n : Reg) | b (n : Reg) | s (n : Reg)
  | faddr | daddr | pc | pcstk | pcstkp | laddr | curlcntr | lcntr | emuclk | emuclk2 | px | px1 | px2 | tperiod | tcount
  | sys (k : SReg)
deriving DecidableEq, Repr

/-- What a condition code tests (30_encoding.md R231, codes 0 to 14). -/
inductive Test where
  | eq | lt | le | ac | av | mv | ms | sv | sz | flag (n : BitVec 2) | tf | bm
deriving DecidableEq, Repr

/-- A condition code (30_encoding.md R231). Code 15 is NOT LCE in an IF and LCE in a DO UNTIL; code 31 is TRUE in an IF
and FOREVER in a DO UNTIL. -/
inductive Cond where
  | is (t : Test)
  | lce
  | isNot (t : Test)
  | always
deriving DecidableEq, Repr

/-! ### Compute operations (the 23-bit compute field) -/

/-- ALU operations with two inputs and a result (44_alu_fixed.md, 45_alu_float.md). -/
inductive AluBin where
  | add | sub | addCi | subCi | avg | and | or | xor | min | max | clip
  | fadd | fsub | fabsAdd | fabsSub | favg | scalb | fixBy | truncBy | floatBy | copysign | fmin | fmax | fclip
deriving DecidableEq, Repr

/-- ALU operations with one input and a result. -/
inductive AluUn where
  | plusCi | plusCiM1 | inc | dec | neg | abs | pass | not
  | fneg | fabs | fpass | frnd | mant | logb | fix | trunc | float | recips | rsqrts
deriving DecidableEq, Repr

/-- ALU operations with flags only. -/
inductive AluCmp where
  | comp | compu | fcomp
deriving DecidableEq, Repr

/-- Which multiplier result register is meant: MRF or MRB (10_state.md R25). -/
inductive Mr where
  | f | b
deriving DecidableEq, Repr

/-- What a fixed-point product is combined with: nothing, added to MRF or MRB, subtracted from MRF or MRB. -/
inductive Accum where
  | none | plus (m : Mr) | minus (m : Mr)
deriving DecidableEq, Repr

/-- How MRF or MRB takes a product: set to it, increased by it, decreased by it. -/
inductive AccOp where
  | set | plus | minus
deriving DecidableEq, Repr

/-- The format bits of a fixed-point multiply: `ySigned`, `xSigned`, fractional, rounded (46_multiplier.md R492). -/
structure MulMod where
  ySigned : Bool
  xSigned : Bool
  frac : Bool
  round : Bool
deriving DecidableEq, Repr

/-- The format bits of SAT: fractional, signed; of RND: signed (46_multiplier.md R494). -/
structure SatMod where
  frac : Bool
  signed : Bool
deriving DecidableEq, Repr

/-- A part of a multiplier result register (46_multiplier.md R520). -/
inductive MrPart where
  | mr0f | mr1f | mr2f | mr0b | mr1b | mr2b
deriving DecidableEq, Repr

/-- Shifter operations with two inputs and a result (47_shifter.md). -/
inductive ShBin where
  | lshift | orLshift | ashift | orAshift | rot | bclr | bset | btgl | fdep | orFdep | fdepSe | orFdepSe | fext | fextSe
deriving DecidableEq, Repr

/-- Shifter operations with one input and a result. -/
inductive ShUn where
  | exp | expEx | leftz | lefto | fpack | funpack
deriving DecidableEq, Repr

/-- The multiplier part of a multifunction form (48_multifunction.md R572). -/
inductive MfMul where
  | rm | mrfPlus | rmPlus | mrfMinus | rmMinus
deriving DecidableEq, Repr

/-- The ALU part of a fixed-point multifunction form. -/
inductive MfAlu where
  | add | sub | avg
deriving DecidableEq, Repr

/-- The ALU part of a floating-point multifunction form. -/
inductive MfFlt where
  | add | sub | float | fix | avg | abs | max | min
deriving DecidableEq, Repr

/-- The operand fields of a multifunction form: RM, RA and the four two-bit offsets (48_multifunction.md R570). -/
structure MfRegs where
  rm : Reg
  ra : Reg
  rxm : BitVec 2
  rym : BitVec 2
  rxa : BitVec 2
  rya : BitVec 2
deriving DecidableEq, Repr

/-- A compute operation: the content of a 23-bit compute field (30_encoding.md R250 to R253). -/
inductive Compute where
  | none
  | aluBin (op : AluBin) (rn rx ry : Reg)
  | aluUn (op : AluUn) (rn rx : Reg)
  | aluCmp (op : AluCmp) (rx ry : Reg)
  | mulRn (a : Accum) (m : MulMod) (rn rx ry : Reg)
  | mulMr (d : Mr) (a : AccOp) (m : MulMod) (rx ry : Reg)
  | satRn (s : Mr) (m : SatMod) (rn : Reg)
  | satMr (d : Mr) (m : SatMod)
  | rndRn (s : Mr) (signed : Bool) (rn : Reg)
  | rndMr (d : Mr) (signed : Bool)
  | clrMr (d : Mr)
  | mulF (rn rx ry : Reg)
  | mrToReg (p : MrPart) (rk : Reg)
  | regToMr (p : MrPart) (rk : Reg)
  | shBin (op : ShBin) (rn rx ry : Reg)
  | shUn (op : ShUn) (rn rx : Reg)
  | btst (rx ry : Reg)
  | dualFix (rs ra rx ry : Reg)
  | dualFlt (rs ra rx ry : Reg)
  | mfFix (mul : MfMul) (alu : MfAlu) (q : MfRegs)
  | mfFlt (alu : MfFlt) (q : MfRegs)
  | mfDualFix (rs : Reg) (q : MfRegs)
  | mfDualFlt (rs : Reg) (q : MfRegs)
deriving DecidableEq, Repr

/-- The operations the immediate shift of Type 6 offers (47_shifter.md R560). -/
inductive ShImm where
  | bin (op : ShBin)
  | btst
deriving DecidableEq, Repr

/-! ### Instructions -/

/-- The instructions: first the rows of 48 bits in the table's order, then one for every row of the compute field. The
latter stand for the Type 2 instruction without IF, that is with COND = TRUE, that carries the operation
(30_encoding.md R203). Fields named `dag2` are the G bit: true is DAG2 and the PM bus. -/
inductive Instr where
  -- Types 1 to 7
  | dualMove (dmWrite : Bool) (dmI dmM : DagNum) (dmReg : Reg) (pmWrite : Bool) (pmI pmM : DagNum) (pmReg : Reg) (k : Compute)
  | condCompute (c : Cond) (k : Compute)
  | uregMem (post : Bool) (i m : DagNum) (c : Cond) (dag2 write lw : Bool) (u : UReg) (k : Compute)
  | dregMemImm (i : DagNum) (dag2 write post : Bool) (c : Cond) (data : BitVec 6) (d : Reg) (k : Compute)
  | uregMove (src : UReg) (c : Cond) (dst : UReg) (k : Compute)
  | swap (y : Reg) (c : Cond) (x : Reg) (k : Compute)
  | shiftImmMem (i m : DagNum) (c : Cond) (dag2 write : Bool) (dataEx : BitVec 4) (d : Reg) (op : ShImm) (data : BitVec 8) (rn rx : Reg)
  | shiftImm (c : Cond) (dataEx : BitVec 4) (op : ShImm) (data : BitVec 8) (rn rx : Reg)
  | modify (dag2 : Bool) (c : Cond) (i m : DagNum) (k : Compute)
  -- Types 8 to 13
  | jumpAbs (la : Bool) (c : Cond) (db ci : Bool) (addr : W24)
  | jumpRel (la : Bool) (c : Cond) (db ci : Bool) (rel : W24)
  /-- CALL ignores its A and CI bits (30_encoding.md R209) -/
  | callAbs (c : Cond) (db : Bool) (addr : W24)
  | callRel (c : Cond) (db : Bool) (rel : W24)
  | jumpInd (la : Bool) (c : Cond) (i m : DagNum) (db els ci : Bool) (k : Compute)
  | jumpRel6 (la : Bool) (c : Cond) (rel : BitVec 6) (db els ci : Bool) (k : Compute)
  | callInd (c : Cond) (i m : DagNum) (db els : Bool) (k : Compute)
  | callRel6 (c : Cond) (rel : BitVec 6) (db els : Bool) (k : Compute)
  | jumpIndElse (write : Bool) (dmI dmM : DagNum) (c : Cond) (i m : DagNum) (d : Reg) (k : Compute)
  | jumpRelElse (write : Bool) (dmI dmM : DagNum) (c : Cond) (rel : BitVec 6) (d : Reg) (k : Compute)
  | rts (c : Cond) (db els lr : Bool) (k : Compute)
  | rti (c : Cond) (db els : Bool) (k : Compute)
  | doImm (count : W16) (rel : W24)
  | doUreg (u : UReg) (rel : W24)
  | doUntil (term : Cond) (rel : W24)
  -- Types 14 to 17
  | uregAbs (dag2 write lw : Bool) (u : UReg) (addr : W32)
  | uregPre (dag2 : Bool) (i : DagNum) (write lw : Bool) (u : UReg) (data : W32)
  | storeImm (i m : DagNum) (dag2 : Bool) (data : W32)
  | loadImm (u : UReg) (data : W32)
  -- Types 18 to 25
  | bitSet (s : SReg) (data : W32)
  | bitClr (s : SReg) (data : W32)
  | bitTgl (s : SReg) (data : W32)
  | bitTst (s : SReg) (data : W32)
  | bitXor (s : SReg) (data : W32)
  | modifyImm (dag2 : Bool) (i : DagNum) (data : W32)
  | bitrev (dag2 : Bool) (i : DagNum) (data : W32)
  /-- a Type 20 word with LPU set; the flags are the other requests of the word: SPU, PPU, FC (43_misc.md R375) -/
  | pushLoop (sts pc flush : Bool)
  | popLoop (sts pc flush : Bool)
  | pushSts (pc flush : Bool)
  | popSts (pc flush : Bool)
  | pushPc (flush : Bool)
  | popPc (flush : Bool)
  | flushCache
  | nop
  | idle
  | cjumpAbs (addr : W24)
  | cjumpRel (rel : W24)
  | rframe
  -- fixed-point ALU
  | add (rn rx ry : Reg) | sub (rn rx ry : Reg) | addCi (rn rx ry : Reg) | subCi (rn rx ry : Reg) | avg (rn rx ry : Reg)
  | comp (rx ry : Reg) | compu (rx ry : Reg)
  | plusCi (rn rx : Reg) | plusCiM1 (rn rx : Reg) | inc (rn rx : Reg) | dec (rn rx : Reg) | neg (rn rx : Reg)
  | abs (rn rx : Reg) | pass (rn rx : Reg)
  | and (rn rx ry : Reg) | or (rn rx ry : Reg) | xor (rn rx ry : Reg) | not (rn rx : Reg)
  | min (rn rx ry : Reg) | max (rn rx ry : Reg) | clip (rn rx ry : Reg)
  -- floating-point ALU
  | fadd (rn rx ry : Reg) | fsub (rn rx ry : Reg) | fabsAdd (rn rx ry : Reg) | fabsSub (rn rx ry : Reg)
  | favg (rn rx ry : Reg) | fcomp (rx ry : Reg) | fneg (rn rx : Reg) | fabs (rn rx : Reg) | fpass (rn rx : Reg)
  | frnd (rn rx : Reg) | scalb (rn rx ry : Reg) | mant (rn rx : Reg) | logb (rn rx : Reg) | fix (rn rx : Reg)
  | fixBy (rn rx ry : Reg) | trunc (rn rx : Reg) | truncBy (rn rx ry : Reg) | float (rn rx : Reg)
  | floatBy (rn rx ry : Reg) | recips (rn rx : Reg) | rsqrts (rn rx : Reg) | copysign (rn rx ry : Reg)
  | fmin (rn rx ry : Reg) | fmax (rn rx ry : Reg) | fclip (rn rx ry : Reg)
  -- multiplier
  | mulRn (m : MulMod) (rn rx ry : Reg) | mulMrf (m : MulMod) (rx ry : Reg) | mulMrb (m : MulMod) (rx ry : Reg)
  | rnMrfPlus (m : MulMod) (rn rx ry : Reg) | rnMrbPlus (m : MulMod) (rn rx ry : Reg)
  | mrfPlus (m : MulMod) (rx ry : Reg) | mrbPlus (m : MulMod) (rx ry : Reg)
  | rnMrfMinus (m : MulMod) (rn rx ry : Reg) | rnMrbMinus (m : MulMod) (rn rx ry : Reg)
  | mrfMinus (m : MulMod) (rx ry : Reg) | mrbMinus (m : MulMod) (rx ry : Reg)
  | rnSatMrf (m : SatMod) (rn : Reg) | rnSatMrb (m : SatMod) (rn : Reg) | satMrf (m : SatMod) | satMrb (m : SatMod)
  | rnRndMrf (signed : Bool) (rn : Reg) | rnRndMrb (signed : Bool) (rn : Reg) | rndMrf (signed : Bool) | rndMrb (signed : Bool)
  | clrMrf | clrMrb | mulF (rn rx ry : Reg) | mrToReg (p : MrPart) (rk : Reg) | regToMr (p : MrPart) (rk : Reg)
  -- shifter
  | lshift (rn rx ry : Reg) | orLshift (rn rx ry : Reg) | ashift (rn rx ry : Reg) | orAshift (rn rx ry : Reg)
  | rot (rn rx ry : Reg) | bclr (rn rx ry : Reg) | bset (rn rx ry : Reg) | btgl (rn rx ry : Reg) | btst (rx ry : Reg)
  | fdep (rn rx ry : Reg) | orFdep (rn rx ry : Reg) | fdepSe (rn rx ry : Reg) | orFdepSe (rn rx ry : Reg)
  | fext (rn rx ry : Reg) | fextSe (rn rx ry : Reg) | exp (rn rx : Reg) | expEx (rn rx : Reg) | leftz (rn rx : Reg)
  | lefto (rn rx : Reg) | fpack (rn rx : Reg) | funpack (rn rx : Reg)
  -- multifunction
  | dualFix (rs ra rx ry : Reg) | dualFlt (rs ra rx ry : Reg)
  | mfMulAdd (q : MfRegs) | mfMulSub (q : MfRegs) | mfMulAvg (q : MfRegs)
  | mfMrfPlusAdd (q : MfRegs) | mfMrfPlusSub (q : MfRegs) | mfMrfPlusAvg (q : MfRegs)
  | mfRmPlusAdd (q : MfRegs) | mfRmPlusSub (q : MfRegs) | mfRmPlusAvg (q : MfRegs)
  | mfMrfMinusAdd (q : MfRegs) | mfMrfMinusSub (q : MfRegs) | mfMrfMinusAvg (q : MfRegs)
  | mfRmMinusAdd (q : MfRegs) | mfRmMinusSub (q : MfRegs) | mfRmMinusAvg (q : MfRegs)
  | mfFmulAdd (q : MfRegs) | mfFmulSub (q : MfRegs) | mfFmulFloat (q : MfRegs) | mfFmulFix (q : MfRegs)
  | mfFmulAvg (q : MfRegs) | mfFmulAbs (q : MfRegs) | mfFmulMax (q : MfRegs) | mfFmulMin (q : MfRegs)
  | mfDualFix (rs : Reg) (q : MfRegs) | mfDualFlt (rs : Reg) (q : MfRegs)
  | noCompute
deriving DecidableEq, Repr

end Sys2Proof
end

