-- ==== Sys2Proof/WellFormed.lean ====
section
/-!
DEFINITION. WellFormed.lean: which terms of `Instr` are instructions of the machine. A term is well formed when its words
exist: every operand a field can hold is allowed, and only the combinations that no encoding expresses are refused.
-/
namespace Sys2Proof

/-- A rounded product is fractional: "the combination f = 0 with r = 1 has no modifier" (46_multiplier.md R491). -/
def MulMod.wf (m : MulMod) : Bool := m.frac || !m.round

/-- Only the multiply formats carry a constraint (46_multiplier.md R491). -/
def Compute.wf : Compute → Bool
  | .mulRn _ m _ _ _ => m.wf
  | .mulMr _ _ m _ _ => m.wf
  | _ => true

/-- `i` is the term for its own word. A Type 2 word with COND = TRUE is written with its compute row, so
`condCompute` has a condition that tests something (30_encoding.md R203, R231). -/
def Instr.WellFormed : Instr → Bool
  | .dualMove _ _ _ _ _ _ _ _ k => k.wf
  | .condCompute c k => k.wf && decide (c ≠ .always)
  | .uregMem _ _ _ _ _ _ _ _ k => k.wf
  | .dregMemImm _ _ _ _ _ _ _ k => k.wf
  | .uregMove _ _ _ k => k.wf
  | .swap _ _ _ k => k.wf
  | .modify _ _ _ _ k => k.wf
  | .jumpInd _ _ _ _ _ _ _ k => k.wf
  | .jumpRel6 _ _ _ _ _ _ k => k.wf
  | .callInd _ _ _ _ _ k => k.wf
  | .callRel6 _ _ _ _ k => k.wf
  | .jumpIndElse _ _ _ _ _ _ _ k => k.wf
  | .jumpRelElse _ _ _ _ _ _ k => k.wf
  | .rts _ _ _ _ k => k.wf
  | .rti _ _ _ k => k.wf
  | .mulRn m _ _ _ => m.wf
  | .mulMrf m _ _ => m.wf
  | .mulMrb m _ _ => m.wf
  | .rnMrfPlus m _ _ _ => m.wf
  | .rnMrbPlus m _ _ _ => m.wf
  | .mrfPlus m _ _ => m.wf
  | .mrbPlus m _ _ => m.wf
  | .rnMrfMinus m _ _ _ => m.wf
  | .rnMrbMinus m _ _ _ => m.wf
  | .mrfMinus m _ _ => m.wf
  | .mrbMinus m _ _ => m.wf
  | _ => true

end Sys2Proof
end

