-- ==== Sys2Proof/Decode.lean ====
section
/-!
DEFINITION. Decode.lean: from 48-bit instruction words to `Instr` and back (30_encoding.md). Decoding is total and rejects
by name; a bit that a layout does not name is ignored (R200), and the encoder writes it as 0.
-/
namespace Sys2Proof

/-- Why a word is no instruction: every one is the model fault `IllegalInstruction` (92_eei_decisions.md D7). -/
inductive Reject where
  /-- the word matches no layout (30_encoding.md R201) -/
  | noLayout
  /-- a universal register code that names no register (30_encoding.md R220) -/
  | uregCode
  /-- a compute field that matches no operation (30_encoding.md R253) -/
  | computeCode
  /-- a SHIFTOP that is not one of the immediate shifts (47_shifter.md R560) -/
  | shiftCode
  /-- a BOP that is not assigned (30_encoding.md R219) -/
  | bitOp
  /-- a push and a pop of one stack in one Type 20 word (43_misc.md R375) -/
  | stackMix
deriving DecidableEq, Repr

/-! ### Conditions and registers -/

/-- The test of a condition code 0 to 14 (30_encoding.md R231). -/
def Test.ofCode? (c : BitVec 4) : Option Test :=
  match c with
  | 0 => some .eq | 1 => some .lt | 2 => some .le | 3 => some .ac | 4 => some .av | 5 => some .mv | 6 => some .ms
  | 7 => some .sv | 8 => some .sz | 9 => some (.flag 0) | 10 => some (.flag 1) | 11 => some (.flag 2)
  | 12 => some (.flag 3) | 13 => some .tf | 14 => some .bm | _ => none

/-- The code of a test (30_encoding.md R231). -/
def Test.code : Test → BitVec 4
  | .eq => 0 | .lt => 1 | .le => 2 | .ac => 3 | .av => 4 | .mv => 5 | .ms => 6 | .sv => 7 | .sz => 8
  | .flag n => 9 + n.setWidth 4 | .tf => 13 | .bm => 14

/-- The condition of a five-bit code (30_encoding.md R231): codes 16 to 30 are the complements of 0 to 14. -/
def Cond.ofCode (c : BitVec 5) : Cond :=
  match Test.ofCode? (c.extractLsb' 0 4), c.getLsbD 4 with
  | some t, false => .is t
  | some t, true => .isNot t
  | none, false => .lce
  | none, true => .always

/-- The five-bit code of a condition (30_encoding.md R231). -/
def Cond.code : Cond → BitVec 5
  | .is t => 0#1 ++ t.code
  | .lce => 15
  | .isNot t => 1#1 ++ t.code
  | .always => 31

/-- The system register of a four-bit code (30_encoding.md R221). -/
def SReg.ofCode (c : BitVec 4) : SReg :=
  match c with
  | 0 => .ustat1 | 1 => .ustat2 | 2 => .mode1 | 3 => .mmask | 4 => .mode2 | 5 => .flags | 6 => .astatx | 7 => .astaty
  | 8 => .stkyx | 9 => .stkyy | 10 => .irptl | 11 => .imask | 12 => .imaskp | 13 => .lirptl | 14 => .ustat3
  | _ => .ustat4

/-- The four-bit code of a system register (30_encoding.md R221). -/
def SReg.code : SReg → BitVec 4
  | .ustat1 => 0 | .ustat2 => 1 | .mode1 => 2 | .mmask => 3 | .mode2 => 4 | .flags => 5 | .astatx => 6 | .astaty => 7
  | .stkyx => 8 | .stkyy => 9 | .irptl => 10 | .imask => 11 | .imaskp => 12 | .lirptl => 13 | .ustat3 => 14
  | .ustat4 => 15

/-- The group-110 registers (30_encoding.md R220); 2 is unassigned. -/
def UReg.ofGroup6? (n : BitVec 4) : Option UReg :=
  match n with
  | 0 => some .faddr | 1 => some .daddr | 3 => some .pc | 4 => some .pcstk | 5 => some .pcstkp | 6 => some .laddr
  | 7 => some .curlcntr | 8 => some .lcntr | 9 => some .emuclk | 10 => some .emuclk2 | 11 => some .px
  | 12 => some .px1 | 13 => some .px2 | 14 => some .tperiod | 15 => some .tcount | _ => none

/-- The register of a seven-bit code `group(6-4) ++ n(3-0)` (30_encoding.md R220). -/
def UReg.ofCode? (c : BitVec 7) : Option UReg :=
  match c.extractLsb' 4 3 with
  | 0 => some (.r (c.extractLsb' 0 4))
  | 1 => some (.i (c.extractLsb' 0 4))
  | 2 => some (.m (c.extractLsb' 0 4))
  | 3 => some (.l (c.extractLsb' 0 4))
  | 4 => some (.b (c.extractLsb' 0 4))
  | 5 => some (.s (c.extractLsb' 0 4))
  | 6 => UReg.ofGroup6? (c.extractLsb' 0 4)
  | _ => some (.sys (SReg.ofCode (c.extractLsb' 0 4)))

/-- The seven-bit code of a universal register (30_encoding.md R220). -/
def UReg.code : UReg → BitVec 7
  | .r n => 0#3 ++ n | .i n => 1#3 ++ n | .m n => 2#3 ++ n | .l n => 3#3 ++ n | .b n => 4#3 ++ n | .s n => 5#3 ++ n
  | .faddr => 0x60 | .daddr => 0x61 | .pc => 0x63 | .pcstk => 0x64 | .pcstkp => 0x65 | .laddr => 0x66
  | .curlcntr => 0x67 | .lcntr => 0x68 | .emuclk => 0x69 | .emuclk2 => 0x6A | .px => 0x6B | .px1 => 0x6C
  | .px2 => 0x6D | .tperiod => 0x6E | .tcount => 0x6F
  | .sys k => 7#3 ++ k.code

/-! ### The compute field -/

/-- OPCODE of a two-input ALU operation (44_alu_fixed.md, 45_alu_float.md). -/
def AluBin.code : AluBin → BitVec 8
  | .add => 0x01 | .sub => 0x02 | .addCi => 0x05 | .subCi => 0x06 | .avg => 0x09 | .and => 0x40 | .or => 0x41
  | .xor => 0x42 | .min => 0x61 | .max => 0x62 | .clip => 0x63 | .fadd => 0x81 | .fsub => 0x82 | .favg => 0x89
  | .fabsAdd => 0x91 | .fabsSub => 0x92 | .scalb => 0xBD | .fixBy => 0xD9 | .truncBy => 0xDD | .floatBy => 0xDA
  | .copysign => 0xE0 | .fmin => 0xE1 | .fmax => 0xE2 | .fclip => 0xE3

/-- The two-input ALU operation of an OPCODE. -/
def AluBin.ofCode? (c : BitVec 8) : Option AluBin :=
  match c with
  | 0x01 => some .add | 0x02 => some .sub | 0x05 => some .addCi | 0x06 => some .subCi | 0x09 => some .avg
  | 0x40 => some .and | 0x41 => some .or | 0x42 => some .xor | 0x61 => some .min | 0x62 => some .max
  | 0x63 => some .clip | 0x81 => some .fadd | 0x82 => some .fsub | 0x89 => some .favg | 0x91 => some .fabsAdd
  | 0x92 => some .fabsSub | 0xBD => some .scalb | 0xD9 => some .fixBy | 0xDD => some .truncBy | 0xDA => some .floatBy
  | 0xE0 => some .copysign | 0xE1 => some .fmin | 0xE2 => some .fmax | 0xE3 => some .fclip
  | _ => none

/-- OPCODE of a one-input ALU operation (44_alu_fixed.md, 45_alu_float.md). -/
def AluUn.code : AluUn → BitVec 8
  | .plusCi => 0x25 | .plusCiM1 => 0x26 | .inc => 0x29 | .dec => 0x2A | .neg => 0x22 | .abs => 0x30 | .pass => 0x21
  | .not => 0x43 | .fneg => 0xA2 | .fabs => 0xB0 | .fpass => 0xA1 | .frnd => 0xA5 | .mant => 0xAD | .logb => 0xC1
  | .fix => 0xC9 | .trunc => 0xCD | .float => 0xCA | .recips => 0xC4 | .rsqrts => 0xC5

/-- The one-input ALU operation of an OPCODE. -/
def AluUn.ofCode? (c : BitVec 8) : Option AluUn :=
  match c with
  | 0x25 => some .plusCi | 0x26 => some .plusCiM1 | 0x29 => some .inc | 0x2A => some .dec | 0x22 => some .neg
  | 0x30 => some .abs | 0x21 => some .pass | 0x43 => some .not | 0xA2 => some .fneg | 0xB0 => some .fabs
  | 0xA1 => some .fpass | 0xA5 => some .frnd | 0xAD => some .mant | 0xC1 => some .logb | 0xC9 => some .fix
  | 0xCD => some .trunc | 0xCA => some .float | 0xC4 => some .recips | 0xC5 => some .rsqrts
  | _ => none

/-- OPCODE of a comparison. -/
def AluCmp.code : AluCmp → BitVec 8
  | .comp => 0x0A | .compu => 0x0B | .fcomp => 0x8A

/-- The comparison of an OPCODE. -/
def AluCmp.ofCode? (c : BitVec 8) : Option AluCmp :=
  match c with
  | 0x0A => some .comp | 0x0B => some .compu | 0x8A => some .fcomp | _ => none

/-- OPCODE of a two-input shifter operation, without its two low zero bits (47_shifter.md R560). -/
def ShBin.code : ShBin → BitVec 6
  | .lshift => 0x00 | .orLshift => 0x08 | .ashift => 0x01 | .orAshift => 0x09 | .rot => 0x02 | .bclr => 0x31
  | .bset => 0x30 | .btgl => 0x32 | .fdep => 0x11 | .orFdep => 0x19 | .fdepSe => 0x13 | .orFdepSe => 0x1B
  | .fext => 0x10 | .fextSe => 0x12

/-- The two-input shifter operation of the upper six OPCODE bits. -/
def ShBin.ofCode? (c : BitVec 6) : Option ShBin :=
  match c with
  | 0x00 => some .lshift | 0x08 => some .orLshift | 0x01 => some .ashift | 0x09 => some .orAshift | 0x02 => some .rot
  | 0x31 => some .bclr | 0x30 => some .bset | 0x32 => some .btgl | 0x11 => some .fdep | 0x19 => some .orFdep
  | 0x13 => some .fdepSe | 0x1B => some .orFdepSe | 0x10 => some .fext | 0x12 => some .fextSe
  | _ => none

/-- The upper six OPCODE bits of a one-input shifter operation (47_shifter.md R560). -/
def ShUn.code : ShUn → BitVec 6
  | .exp => 0x20 | .expEx => 0x21 | .leftz => 0x22 | .lefto => 0x23 | .fpack => 0x24 | .funpack => 0x25

/-- The one-input shifter operation of the upper six OPCODE bits. -/
def ShUn.ofCode? (c : BitVec 6) : Option ShUn :=
  match c with
  | 0x20 => some .exp | 0x21 => some .expEx | 0x22 => some .leftz | 0x23 => some .lefto | 0x24 => some .fpack
  | 0x25 => some .funpack
  | _ => none

/-- The upper six OPCODE bits of BTST (47_shifter.md R560). -/
def btstCode : BitVec 6 := 0x33

/-- SHIFTOP of an immediate shift (47_shifter.md R560). -/
def ShImm.code : ShImm → BitVec 6
  | .bin op => op.code
  | .btst => btstCode

/-- The immediate shift of a SHIFTOP. -/
def ShImm.ofCode? (c : BitVec 6) : Option ShImm :=
  if c = btstCode then some .btst else (ShBin.ofCode? c).map .bin

/-- MRF is 0, MRB is 1 in the last bit of the selection (46_multiplier.md R491). -/
def Mr.code : Mr → BitVec 1
  | .f => 0 | .b => 1

/-- The result register of a selection bit. -/
def Mr.ofCode (c : BitVec 1) : Mr := if c = 0 then .f else .b

/-- AI of a part of MRF or MRB (46_multiplier.md R520). -/
def MrPart.code : MrPart → BitVec 4
  | .mr0f => 0 | .mr1f => 1 | .mr2f => 2 | .mr0b => 4 | .mr1b => 5 | .mr2b => 6

/-- The part an AI code names. -/
def MrPart.ofCode? (c : BitVec 4) : Option MrPart :=
  match c with
  | 0 => some .mr0f | 1 => some .mr1f | 2 => some .mr2f | 4 => some .mr0b | 5 => some .mr1b | 6 => some .mr2b
  | _ => none

/-- Bits 21-18 of a multifunction opcode (48_multifunction.md R572). -/
def MfMul.code : MfMul → BitVec 4
  | .rm => 1 | .mrfPlus => 2 | .rmPlus => 3 | .mrfMinus => 4 | .rmMinus => 5

/-- The multiplier part of bits 21-18. -/
def MfMul.ofCode? (c : BitVec 4) : Option MfMul :=
  match c with
  | 1 => some .rm | 2 => some .mrfPlus | 3 => some .rmPlus | 4 => some .mrfMinus | 5 => some .rmMinus | _ => none

/-- Bits 17-16 of a fixed-point multifunction opcode (48_multifunction.md R572). -/
def MfAlu.code : MfAlu → BitVec 2
  | .add => 0 | .sub => 1 | .avg => 2

/-- The ALU part of bits 17-16. -/
def MfAlu.ofCode? (c : BitVec 2) : Option MfAlu :=
  match c with
  | 0 => some .add | 1 => some .sub | 2 => some .avg | _ => none

/-- Bits 18-16 of a floating-point multifunction opcode (48_multifunction.md R572). -/
def MfFlt.code : MfFlt → BitVec 3
  | .add => 0 | .sub => 1 | .float => 2 | .fix => 3 | .avg => 4 | .abs => 5 | .max => 6 | .min => 7

/-- The ALU part of bits 18-16. -/
def MfFlt.ofCode (c : BitVec 3) : MfFlt :=
  match c with
  | 0 => .add | 1 => .sub | 2 => .float | 3 => .fix | 4 => .avg | 5 => .abs | 6 => .max | _ => .min

/-- The format bits `ys xs f` and `r` of a multiply OPCODE (46_multiplier.md R491). -/
def MulMod.ofOpcode (op : BitVec 8) : MulMod := ⟨op.getLsbD 5, op.getLsbD 4, op.getLsbD 3, op.getLsbD 0⟩

/-- A multiply OPCODE: `op ys xs f sel r` (46_multiplier.md R491). -/
def MulMod.opcode (m : MulMod) (op sel : BitVec 2) : BitVec 8 :=
  op ++ BitVec.ofBool m.ySigned ++ BitVec.ofBool m.xSigned ++ BitVec.ofBool m.frac ++ sel ++ BitVec.ofBool m.round

/-- RN of a compute field (30_encoding.md R250). -/
def fieldRN (f : BitVec 23) : Reg := f.extractLsb' 8 4
/-- RX of a compute field. -/
def fieldRX (f : BitVec 23) : Reg := f.extractLsb' 4 4
/-- RY of a compute field. -/
def fieldRY (f : BitVec 23) : Reg := f.extractLsb' 0 4
/-- OPCODE of a compute field. -/
def fieldOp (f : BitVec 23) : BitVec 8 := f.extractLsb' 12 8

/-- The ALU operation of a compute field with CU = 00 (30_encoding.md R250, R251 (a), R253). -/
def decodeAlu (f : BitVec 23) : Option Compute :=
  if fieldOp f = 0 then (if f = 0 then some .none else none)
  else if f.extractLsb' 16 4 = 7 then some (.dualFix (f.extractLsb' 12 4) (fieldRN f) (fieldRX f) (fieldRY f))
  else if f.extractLsb' 16 4 = 15 then some (.dualFlt (f.extractLsb' 12 4) (fieldRN f) (fieldRX f) (fieldRY f))
  else match AluBin.ofCode? (fieldOp f) with
    | some op => some (.aluBin op (fieldRN f) (fieldRX f) (fieldRY f))
    | none => match AluUn.ofCode? (fieldOp f) with
      | some op => some (.aluUn op (fieldRN f) (fieldRX f))
      | none => match AluCmp.ofCode? (fieldOp f) with
        | some op => some (.aluCmp op (fieldRX f) (fieldRY f))
        | none => none

/-- The multiply of OPCODE[7:6] in 01, 10, 11 (46_multiplier.md R491). -/
def decodeMultiply (f : BitVec 23) : Option Compute :=
  let op := fieldOp f
  let m := MulMod.ofOpcode op
  let d := Mr.ofCode (op.extractLsb' 1 1)
  if m.wf then
    match op.extractLsb' 6 2, op.getLsbD 2 with
    | 1, false => if op.getLsbD 1 then none else some (.mulRn .none m (fieldRN f) (fieldRX f) (fieldRY f))
    | 1, true => some (.mulMr d .set m (fieldRX f) (fieldRY f))
    | 2, false => some (.mulRn (.plus d) m (fieldRN f) (fieldRX f) (fieldRY f))
    | 2, true => some (.mulMr d .plus m (fieldRX f) (fieldRY f))
    | 3, false => some (.mulRn (.minus d) m (fieldRN f) (fieldRX f) (fieldRY f))
    | 3, true => some (.mulMr d .minus m (fieldRX f) (fieldRY f))
    | _, _ => none
  else none

/-- The multiplier operation of a compute field with CU = 01 (46_multiplier.md R496). -/
def decodeMul (f : BitVec 23) : Option Compute :=
  let op := fieldOp f
  let d := Mr.ofCode (op.extractLsb' 1 1)
  if op.extractLsb' 6 2 ≠ 0 then decodeMultiply f
  else if op = 0x30 then some (.mulF (fieldRN f) (fieldRX f) (fieldRY f))
  else if op.extractLsb' 4 4 = 0 then
    (if op.getLsbD 2 then some (.satMr d ⟨op.getLsbD 3, op.getLsbD 0⟩)
      else some (.satRn d ⟨op.getLsbD 3, op.getLsbD 0⟩ (fieldRN f)))
  else if op.extractLsb' 3 5 = 3 then
    (if op.getLsbD 2 then some (.rndMr d (op.getLsbD 0)) else some (.rndRn d (op.getLsbD 0) (fieldRN f)))
  else if op = 0x14 then some (.clrMr .f)
  else if op = 0x16 then some (.clrMr .b)
  else none

/-- The shifter operation of a compute field with CU = 10 (47_shifter.md R560). -/
def decodeShift (f : BitVec 23) : Option Compute :=
  let c := f.extractLsb' 14 6
  if f.extractLsb' 12 2 ≠ 0 then none
  else if c = btstCode then some (.btst (fieldRX f) (fieldRY f))
  else match ShBin.ofCode? c with
    | some op => some (.shBin op (fieldRN f) (fieldRX f) (fieldRY f))
    | none => match ShUn.ofCode? c with
      | some op => some (.shUn op (fieldRN f) (fieldRX f))
      | none => none

/-- The operand fields of a multifunction form (48_multifunction.md R570). -/
def MfRegs.ofField (f : BitVec 23) : MfRegs :=
  ⟨f.extractLsb' 12 4, f.extractLsb' 8 4, f.extractLsb' 6 2, f.extractLsb' 4 2, f.extractLsb' 2 2, f.extractLsb' 0 2⟩

/-- The sixteen bits of the operand fields. -/
def MfRegs.field (q : MfRegs) : BitVec 16 := q.rm ++ q.ra ++ q.rxm ++ q.rym ++ q.rxa ++ q.rya

/-- The operation of a compute field with bit 22 set (48_multifunction.md R565, 46_multiplier.md R520). -/
def decodeMulti (f : BitVec 23) : Option Compute :=
  if f.extractLsb' 20 3 = 6 then some (.mfDualFix (f.extractLsb' 16 4) (MfRegs.ofField f))
  else if f.extractLsb' 20 3 = 7 then some (.mfDualFlt (f.extractLsb' 16 4) (MfRegs.ofField f))
  else if f.extractLsb' 17 6 = 0x20 then
    (if f.extractLsb' 0 8 ≠ 0 then none
     else match MrPart.ofCode? (f.extractLsb' 12 4) with
      | some p => if f.getLsbD 16 then some (.regToMr p (fieldRN f)) else some (.mrToReg p (fieldRN f))
      | none => none)
  else if f.extractLsb' 19 4 = 0xB then some (.mfFlt (MfFlt.ofCode (f.extractLsb' 16 3)) (MfRegs.ofField f))
  else if f.extractLsb' 22 1 = 1 then
    match MfMul.ofCode? (f.extractLsb' 18 4), MfAlu.ofCode? (f.extractLsb' 16 2) with
    | some m, some a => some (.mfFix m a (MfRegs.ofField f))
    | _, _ => none
  else none

/-- The compute operation of a 23-bit field, or none where no operation is assigned (30_encoding.md R250 to R253). -/
def decodeCompute (f : BitVec 23) : Option Compute :=
  if f.getLsbD 22 then decodeMulti f
  else match f.extractLsb' 20 2 with
    | 0 => decodeAlu f
    | 1 => decodeMul f
    | 2 => decodeShift f
    | _ => none

/-- A single-function compute field `0 CU OPCODE RN RX RY` (30_encoding.md R250). -/
def single (cu : BitVec 2) (op : BitVec 8) (rn rx ry : Reg) : BitVec 23 := 0#1 ++ cu ++ op ++ rn ++ rx ++ ry

/-- The compute field of an operation (30_encoding.md R250 to R253). -/
def encodeCompute : Compute → BitVec 23
  | .none => 0
  | .aluBin op rn rx ry => single 0 op.code rn rx ry
  | .aluUn op rn rx => single 0 op.code rn rx 0
  | .aluCmp op rx ry => single 0 op.code 0 rx ry
  | .mulRn .none m rn rx ry => single 1 (m.opcode 1 0) rn rx ry
  | .mulRn (.plus s) m rn rx ry => single 1 (m.opcode 2 (0#1 ++ s.code)) rn rx ry
  | .mulRn (.minus s) m rn rx ry => single 1 (m.opcode 3 (0#1 ++ s.code)) rn rx ry
  | .mulMr d .set m rx ry => single 1 (m.opcode 1 (1#1 ++ d.code)) 0 rx ry
  | .mulMr d .plus m rx ry => single 1 (m.opcode 2 (1#1 ++ d.code)) 0 rx ry
  | .mulMr d .minus m rx ry => single 1 (m.opcode 3 (1#1 ++ d.code)) 0 rx ry
  | .satRn d m rn => single 1 (0#4 ++ BitVec.ofBool m.frac ++ 0#1 ++ d.code ++ BitVec.ofBool m.signed) rn 0 0
  | .satMr d m => single 1 (0#4 ++ BitVec.ofBool m.frac ++ 1#1 ++ d.code ++ BitVec.ofBool m.signed) 0 0 0
  | .rndRn d g rn => single 1 (3#5 ++ 0#1 ++ d.code ++ BitVec.ofBool g) rn 0 0
  | .rndMr d g => single 1 (3#5 ++ 1#1 ++ d.code ++ BitVec.ofBool g) 0 0 0
  | .clrMr .f => single 1 0x14 0 0 0
  | .clrMr .b => single 1 0x16 0 0 0
  | .mulF rn rx ry => single 1 0x30 rn rx ry
  | .mrToReg p rk => 0x20#6 ++ 0#1 ++ p.code ++ rk ++ 0#8
  | .regToMr p rk => 0x20#6 ++ 1#1 ++ p.code ++ rk ++ 0#8
  | .shBin op rn rx ry => single 2 (op.code ++ 0#2) rn rx ry
  | .shUn op rn rx => single 2 (op.code ++ 0#2) rn rx 0
  | .btst rx ry => single 2 (btstCode ++ 0#2) 0 rx ry
  | .dualFix rs ra rx ry => single 0 (7#4 ++ rs) ra rx ry
  | .dualFlt rs ra rx ry => single 0 (15#4 ++ rs) ra rx ry
  | .mfFix m a q => 1#1 ++ m.code ++ a.code ++ q.field
  | .mfFlt a q => 0xB#4 ++ a.code ++ q.field
  | .mfDualFix rs q => 6#3 ++ rs ++ q.field
  | .mfDualFlt rs q => 7#3 ++ rs ++ q.field

/-- The compute row an operation belongs to, as the instruction without IF (30_encoding.md R203). -/
def Instr.ofCompute : Compute → Instr
  | .none => .noCompute
  | .aluBin .add n x y => .add n x y
  | .aluBin .sub n x y => .sub n x y
  | .aluBin .addCi n x y => .addCi n x y
  | .aluBin .subCi n x y => .subCi n x y
  | .aluBin .avg n x y => .avg n x y
  | .aluBin .and n x y => .and n x y
  | .aluBin .or n x y => .or n x y
  | .aluBin .xor n x y => .xor n x y
  | .aluBin .min n x y => .min n x y
  | .aluBin .max n x y => .max n x y
  | .aluBin .clip n x y => .clip n x y
  | .aluBin .fadd n x y => .fadd n x y
  | .aluBin .fsub n x y => .fsub n x y
  | .aluBin .fabsAdd n x y => .fabsAdd n x y
  | .aluBin .fabsSub n x y => .fabsSub n x y
  | .aluBin .favg n x y => .favg n x y
  | .aluBin .scalb n x y => .scalb n x y
  | .aluBin .fixBy n x y => .fixBy n x y
  | .aluBin .truncBy n x y => .truncBy n x y
  | .aluBin .floatBy n x y => .floatBy n x y
  | .aluBin .copysign n x y => .copysign n x y
  | .aluBin .fmin n x y => .fmin n x y
  | .aluBin .fmax n x y => .fmax n x y
  | .aluBin .fclip n x y => .fclip n x y
  | .aluUn .plusCi n x => .plusCi n x
  | .aluUn .plusCiM1 n x => .plusCiM1 n x
  | .aluUn .inc n x => .inc n x
  | .aluUn .dec n x => .dec n x
  | .aluUn .neg n x => .neg n x
  | .aluUn .abs n x => .abs n x
  | .aluUn .pass n x => .pass n x
  | .aluUn .not n x => .not n x
  | .aluUn .fneg n x => .fneg n x
  | .aluUn .fabs n x => .fabs n x
  | .aluUn .fpass n x => .fpass n x
  | .aluUn .frnd n x => .frnd n x
  | .aluUn .mant n x => .mant n x
  | .aluUn .logb n x => .logb n x
  | .aluUn .fix n x => .fix n x
  | .aluUn .trunc n x => .trunc n x
  | .aluUn .float n x => .float n x
  | .aluUn .recips n x => .recips n x
  | .aluUn .rsqrts n x => .rsqrts n x
  | .aluCmp .comp x y => .comp x y
  | .aluCmp .compu x y => .compu x y
  | .aluCmp .fcomp x y => .fcomp x y
  | .mulRn .none m n x y => .mulRn m n x y
  | .mulRn (.plus .f) m n x y => .rnMrfPlus m n x y
  | .mulRn (.plus .b) m n x y => .rnMrbPlus m n x y
  | .mulRn (.minus .f) m n x y => .rnMrfMinus m n x y
  | .mulRn (.minus .b) m n x y => .rnMrbMinus m n x y
  | .mulMr .f .set m x y => .mulMrf m x y
  | .mulMr .b .set m x y => .mulMrb m x y
  | .mulMr .f .plus m x y => .mrfPlus m x y
  | .mulMr .b .plus m x y => .mrbPlus m x y
  | .mulMr .f .minus m x y => .mrfMinus m x y
  | .mulMr .b .minus m x y => .mrbMinus m x y
  | .satRn .f m n => .rnSatMrf m n
  | .satRn .b m n => .rnSatMrb m n
  | .satMr .f m => .satMrf m
  | .satMr .b m => .satMrb m
  | .rndRn .f g n => .rnRndMrf g n
  | .rndRn .b g n => .rnRndMrb g n
  | .rndMr .f g => .rndMrf g
  | .rndMr .b g => .rndMrb g
  | .clrMr .f => .clrMrf
  | .clrMr .b => .clrMrb
  | .mulF n x y => .mulF n x y
  | .mrToReg p k => .mrToReg p k
  | .regToMr p k => .regToMr p k
  | .shBin .lshift n x y => .lshift n x y
  | .shBin .orLshift n x y => .orLshift n x y
  | .shBin .ashift n x y => .ashift n x y
  | .shBin .orAshift n x y => .orAshift n x y
  | .shBin .rot n x y => .rot n x y
  | .shBin .bclr n x y => .bclr n x y
  | .shBin .bset n x y => .bset n x y
  | .shBin .btgl n x y => .btgl n x y
  | .shBin .fdep n x y => .fdep n x y
  | .shBin .orFdep n x y => .orFdep n x y
  | .shBin .fdepSe n x y => .fdepSe n x y
  | .shBin .orFdepSe n x y => .orFdepSe n x y
  | .shBin .fext n x y => .fext n x y
  | .shBin .fextSe n x y => .fextSe n x y
  | .shUn .exp n x => .exp n x
  | .shUn .expEx n x => .expEx n x
  | .shUn .leftz n x => .leftz n x
  | .shUn .lefto n x => .lefto n x
  | .shUn .fpack n x => .fpack n x
  | .shUn .funpack n x => .funpack n x
  | .btst x y => .btst x y
  | .dualFix s a x y => .dualFix s a x y
  | .dualFlt s a x y => .dualFlt s a x y
  | .mfFix .rm .add q => .mfMulAdd q
  | .mfFix .rm .sub q => .mfMulSub q
  | .mfFix .rm .avg q => .mfMulAvg q
  | .mfFix .mrfPlus .add q => .mfMrfPlusAdd q
  | .mfFix .mrfPlus .sub q => .mfMrfPlusSub q
  | .mfFix .mrfPlus .avg q => .mfMrfPlusAvg q
  | .mfFix .rmPlus .add q => .mfRmPlusAdd q
  | .mfFix .rmPlus .sub q => .mfRmPlusSub q
  | .mfFix .rmPlus .avg q => .mfRmPlusAvg q
  | .mfFix .mrfMinus .add q => .mfMrfMinusAdd q
  | .mfFix .mrfMinus .sub q => .mfMrfMinusSub q
  | .mfFix .mrfMinus .avg q => .mfMrfMinusAvg q
  | .mfFix .rmMinus .add q => .mfRmMinusAdd q
  | .mfFix .rmMinus .sub q => .mfRmMinusSub q
  | .mfFix .rmMinus .avg q => .mfRmMinusAvg q
  | .mfFlt .add q => .mfFmulAdd q
  | .mfFlt .sub q => .mfFmulSub q
  | .mfFlt .float q => .mfFmulFloat q
  | .mfFlt .fix q => .mfFmulFix q
  | .mfFlt .avg q => .mfFmulAvg q
  | .mfFlt .abs q => .mfFmulAbs q
  | .mfFlt .max q => .mfFmulMax q
  | .mfFlt .min q => .mfFmulMin q
  | .mfDualFix s q => .mfDualFix s q
  | .mfDualFlt s q => .mfDualFlt s q

/-! ### The instruction word -/

/-- COND of a word (30_encoding.md R230). -/
def fieldCond (w : W48) : Cond := Cond.ofCode (w.extractLsb' 33 5)
/-- Three bits of a word. -/
def fieldDag (w : W48) (lo : Nat) : DagNum := w.extractLsb' lo 3
/-- A register number of a word. -/
def fieldReg (w : W48) (lo : Nat) : Reg := w.extractLsb' lo 4

/-- The instruction `f` makes of the compute field. -/
def withCompute (w : W48) (f : Compute → Instr) : Except Reject Instr :=
  match decodeCompute (w.extractLsb' 0 23) with
  | some k => .ok (f k)
  | none => .error .computeCode

/-- The instruction `f` makes of a register code. -/
def withUReg (c : BitVec 7) (f : UReg → Except Reject Instr) : Except Reject Instr :=
  match UReg.ofCode? c with
  | some u => f u
  | none => .error .uregCode

/-- The instruction `f` makes of a SHIFTOP (30_encoding.md R207). -/
def withShift (w : W48) (f : ShImm → Instr) : Except Reject Instr :=
  if w.getLsbD 22 then .error .noLayout
  else match ShImm.ofCode? (w.extractLsb' 16 6) with
    | some op => .ok (f op)
    | none => .error .shiftCode

/-- Type 2 (30_encoding.md R203): with COND = TRUE it is the compute row itself. -/
def decodeType2 (w : W48) : Except Reject Instr :=
  withCompute w fun k => if fieldCond w = .always then Instr.ofCompute k else .condCompute (fieldCond w) k

/-- Type 18 (30_encoding.md R219). -/
def decodeType18 (w : W48) : Except Reject Instr :=
  let s := SReg.ofCode (w.extractLsb' 32 4)
  let d := w.extractLsb' 0 32
  match w.extractLsb' 37 3 with
  | 0 => .ok (.bitSet s d)
  | 1 => .ok (.bitClr s d)
  | 2 => .ok (.bitTgl s d)
  | 4 => .ok (.bitTst s d)
  | 5 => .ok (.bitXor s d)
  | _ => .error .bitOp

/-- Type 20 (30_encoding.md R241, 43_misc.md R375): the word is named by its first request in the order of the fields;
a push and a pop together are not an instruction (DEDUCED, log 9), and no request at all does nothing. -/
def decodeType20 (w : W48) : Except Reject Instr :=
  let push := w.getLsbD 39 || w.getLsbD 37 || w.getLsbD 35
  let pop := w.getLsbD 38 || w.getLsbD 36 || w.getLsbD 34
  if push && pop then .error .stackMix
  else if w.getLsbD 39 then .ok (.pushLoop (w.getLsbD 37) (w.getLsbD 35) (w.getLsbD 33))
  else if w.getLsbD 38 then .ok (.popLoop (w.getLsbD 36) (w.getLsbD 34) (w.getLsbD 33))
  else if w.getLsbD 37 then .ok (.pushSts (w.getLsbD 35) (w.getLsbD 33))
  else if w.getLsbD 36 then .ok (.popSts (w.getLsbD 34) (w.getLsbD 33))
  else if w.getLsbD 35 then .ok (.pushPc (w.getLsbD 33))
  else if w.getLsbD 34 then .ok (.popPc (w.getLsbD 33))
  else if w.getLsbD 33 then .ok .flushCache
  else .ok .nop

/-- CJUMP (30_encoding.md R243): every upper bit is literal. -/
def decodeCjump (w : W48) : Except Reject Instr :=
  if w.extractLsb' 24 24 = 0x180400 then .ok (.cjumpAbs (w.extractLsb' 0 24))
  else if w.extractLsb' 24 24 = 0x184400 then .ok (.cjumpRel (w.extractLsb' 0 24))
  else .error .noLayout

/-- The types whose bits 47-45 are 000, by bits 44-40 (30_encoding.md R201). -/
def decodeGroup0 (w : W48) : Except Reject Instr :=
  let c := fieldCond w
  let db := w.getLsbD 26
  let addr := w.extractLsb' 0 24
  match w.extractLsb' 40 5 with
  | 0 => .ok (if w.getLsbD 39 then .idle else .nop)
  | 1 => decodeType2 w
  | 2 => withShift w fun op => .shiftImm c (w.extractLsb' 27 4) op (w.extractLsb' 8 8) (fieldReg w 4) (fieldReg w 0)
  | 4 => withCompute w fun k => .modify (w.getLsbD 38) c (fieldDag w 30) (fieldDag w 27) k
  | 6 => .ok (if w.getLsbD 39 then .callAbs c db addr else .jumpAbs (w.getLsbD 38) c db (w.getLsbD 24) addr)
  | 7 => .ok (if w.getLsbD 39 then .callRel c db addr else .jumpRel (w.getLsbD 38) c db (w.getLsbD 24) addr)
  | 8 => withCompute w fun k =>
      if w.getLsbD 39 then .callInd c (fieldDag w 30) (fieldDag w 27) db (w.getLsbD 25) k
      else .jumpInd (w.getLsbD 38) c (fieldDag w 30) (fieldDag w 27) db (w.getLsbD 25) (w.getLsbD 24) k
  | 9 => withCompute w fun k =>
      if w.getLsbD 39 then .callRel6 c (w.extractLsb' 27 6) db (w.getLsbD 25) k
      else .jumpRel6 (w.getLsbD 38) c (w.extractLsb' 27 6) db (w.getLsbD 25) (w.getLsbD 24) k
  | 10 => withCompute w fun k => .rts c db (w.getLsbD 25) (w.getLsbD 24) k
  | 11 => withCompute w fun k => .rti c db (w.getLsbD 25) k
  | 12 => .ok (.doImm (w.extractLsb' 24 16) addr)
  | 13 => if w.getLsbD 39 then .error .noLayout else withUReg (w.extractLsb' 32 7) fun u => .ok (.doUreg u addr)
  | 14 => .ok (.doUntil c addr)
  | 15 => if w.getLsbD 39 then .error .noLayout
      else withUReg (w.extractLsb' 32 7) fun u => .ok (.loadImm u (w.extractLsb' 0 32))
  | 16 | 17 | 18 | 19 => withUReg (w.extractLsb' 32 7) fun u =>
      .ok (.uregAbs (w.getLsbD 41) (w.getLsbD 40) (w.getLsbD 39) u (w.extractLsb' 0 32))
  | 20 => decodeType18 w
  | 22 => .ok (if w.getLsbD 39 then .bitrev (w.getLsbD 38) (fieldDag w 32) (w.extractLsb' 0 32)
      else .modifyImm (w.getLsbD 38) (fieldDag w 32) (w.extractLsb' 0 32))
  | 23 => decodeType20 w
  | 24 => decodeCjump w
  | 25 => if w = 0x190000000000 then .ok .rframe else .error .noLayout
  | _ => .error .noLayout

/-- Type 5 (30_encoding.md R206). -/
def decodeType5 (w : W48) : Except Reject Instr :=
  let c := fieldCond w
  if w.getLsbD 43 then withCompute w fun k => .swap (fieldReg w 38) c (fieldReg w 23) k
  else withUReg (w.extractLsb' 38 5 ++ w.extractLsb' 31 2) fun src =>
    withUReg (w.extractLsb' 23 7) fun dst => withCompute w fun k => .uregMove src c dst k

/-- Type 4 (30_encoding.md R205). -/
def decodeType4 (w : W48) : Except Reject Instr :=
  withCompute w fun k => .dregMemImm (fieldDag w 41) (w.getLsbD 40) (w.getLsbD 39) (w.getLsbD 38) (fieldCond w)
    (w.extractLsb' 27 6) (fieldReg w 23) k

/-- Type 6 with data access (30_encoding.md R207). -/
def decodeType6 (w : W48) : Except Reject Instr :=
  withShift w fun op => .shiftImmMem (fieldDag w 41) (fieldDag w 38) (fieldCond w) (w.getLsbD 32) (w.getLsbD 31)
    (w.extractLsb' 27 4) (fieldReg w 23) op (w.extractLsb' 8 8) (fieldReg w 4) (fieldReg w 0)

/-- The instruction a word stands for, or why it is none (30_encoding.md R201). -/
def decode (w : W48) : Except Reject Instr :=
  match w.extractLsb' 45 3 with
  | 0 => decodeGroup0 w
  | 1 => withCompute w fun k => .dualMove (w.getLsbD 44) (fieldDag w 41) (fieldDag w 38) (fieldReg w 33) (w.getLsbD 37)
      (fieldDag w 30) (fieldDag w 27) (fieldReg w 23) k
  | 2 => withUReg (w.extractLsb' 23 7) fun u => withCompute w fun k =>
      .uregMem (w.getLsbD 44) (fieldDag w 41) (fieldDag w 38) (fieldCond w) (w.getLsbD 32) (w.getLsbD 31) (w.getLsbD 30) u k
  | 3 => if w.getLsbD 44 then decodeType5 w else decodeType4 w
  | 4 => if w.getLsbD 44 then .ok (.storeImm (fieldDag w 41) (fieldDag w 38) (w.getLsbD 37) (w.extractLsb' 0 32))
      else decodeType6 w
  | 5 => withUReg (w.extractLsb' 32 7) fun u =>
      .ok (.uregPre (w.getLsbD 44) (fieldDag w 41) (w.getLsbD 40) (w.getLsbD 39) u (w.extractLsb' 0 32))
  | 6 => withCompute w fun k => .jumpIndElse (w.getLsbD 44) (fieldDag w 41) (fieldDag w 38) (fieldCond w) (fieldDag w 30)
      (fieldDag w 27) (fieldReg w 23) k
  | _ => withCompute w fun k => .jumpRelElse (w.getLsbD 44) (fieldDag w 41) (fieldDag w 38) (fieldCond w)
      (w.extractLsb' 27 6) (fieldReg w 23) k

/-! ### The encoder -/

/-- A Type 2 word (30_encoding.md R203). -/
def type2 (c : Cond) (k : Compute) : W48 := 0x01#8 ++ 0#2 ++ c.code ++ 0#10 ++ encodeCompute k

/-- A Type 20 word: the seven requests in the order of the fields (30_encoding.md R241). -/
def type20 (lpu lpo spu spo ppu ppo fc : Bool) : W48 :=
  0x17#8 ++ BitVec.ofBool lpu ++ BitVec.ofBool lpo ++ BitVec.ofBool spu ++ BitVec.ofBool spo ++ BitVec.ofBool ppu ++
    BitVec.ofBool ppo ++ BitVec.ofBool fc ++ 0#33

/-- A Type 18 word (30_encoding.md R219). -/
def type18 (bop : BitVec 3) (s : SReg) (data : W32) : W48 := 0x14#8 ++ bop ++ 0#1 ++ s.code ++ data

/-- The compute operation a compute row carries, and none for the other constructors. -/
def Instr.compute? : Instr → Option Compute
  | .add n x y => some (.aluBin .add n x y)
  | .sub n x y => some (.aluBin .sub n x y)
  | .addCi n x y => some (.aluBin .addCi n x y)
  | .subCi n x y => some (.aluBin .subCi n x y)
  | .avg n x y => some (.aluBin .avg n x y)
  | .comp x y => some (.aluCmp .comp x y)
  | .compu x y => some (.aluCmp .compu x y)
  | .plusCi n x => some (.aluUn .plusCi n x)
  | .plusCiM1 n x => some (.aluUn .plusCiM1 n x)
  | .inc n x => some (.aluUn .inc n x)
  | .dec n x => some (.aluUn .dec n x)
  | .neg n x => some (.aluUn .neg n x)
  | .abs n x => some (.aluUn .abs n x)
  | .pass n x => some (.aluUn .pass n x)
  | .and n x y => some (.aluBin .and n x y)
  | .or n x y => some (.aluBin .or n x y)
  | .xor n x y => some (.aluBin .xor n x y)
  | .not n x => some (.aluUn .not n x)
  | .min n x y => some (.aluBin .min n x y)
  | .max n x y => some (.aluBin .max n x y)
  | .clip n x y => some (.aluBin .clip n x y)
  | .fadd n x y => some (.aluBin .fadd n x y)
  | .fsub n x y => some (.aluBin .fsub n x y)
  | .fabsAdd n x y => some (.aluBin .fabsAdd n x y)
  | .fabsSub n x y => some (.aluBin .fabsSub n x y)
  | .favg n x y => some (.aluBin .favg n x y)
  | .fcomp x y => some (.aluCmp .fcomp x y)
  | .fneg n x => some (.aluUn .fneg n x)
  | .fabs n x => some (.aluUn .fabs n x)
  | .fpass n x => some (.aluUn .fpass n x)
  | .frnd n x => some (.aluUn .frnd n x)
  | .scalb n x y => some (.aluBin .scalb n x y)
  | .mant n x => some (.aluUn .mant n x)
  | .logb n x => some (.aluUn .logb n x)
  | .fix n x => some (.aluUn .fix n x)
  | .fixBy n x y => some (.aluBin .fixBy n x y)
  | .trunc n x => some (.aluUn .trunc n x)
  | .truncBy n x y => some (.aluBin .truncBy n x y)
  | .float n x => some (.aluUn .float n x)
  | .floatBy n x y => some (.aluBin .floatBy n x y)
  | .recips n x => some (.aluUn .recips n x)
  | .rsqrts n x => some (.aluUn .rsqrts n x)
  | .copysign n x y => some (.aluBin .copysign n x y)
  | .fmin n x y => some (.aluBin .fmin n x y)
  | .fmax n x y => some (.aluBin .fmax n x y)
  | .fclip n x y => some (.aluBin .fclip n x y)
  | .mulRn m n x y => some (.mulRn .none m n x y)
  | .mulMrf m x y => some (.mulMr .f .set m x y)
  | .mulMrb m x y => some (.mulMr .b .set m x y)
  | .rnMrfPlus m n x y => some (.mulRn (.plus .f) m n x y)
  | .rnMrbPlus m n x y => some (.mulRn (.plus .b) m n x y)
  | .mrfPlus m x y => some (.mulMr .f .plus m x y)
  | .mrbPlus m x y => some (.mulMr .b .plus m x y)
  | .rnMrfMinus m n x y => some (.mulRn (.minus .f) m n x y)
  | .rnMrbMinus m n x y => some (.mulRn (.minus .b) m n x y)
  | .mrfMinus m x y => some (.mulMr .f .minus m x y)
  | .mrbMinus m x y => some (.mulMr .b .minus m x y)
  | .rnSatMrf m n => some (.satRn .f m n)
  | .rnSatMrb m n => some (.satRn .b m n)
  | .satMrf m => some (.satMr .f m)
  | .satMrb m => some (.satMr .b m)
  | .rnRndMrf g n => some (.rndRn .f g n)
  | .rnRndMrb g n => some (.rndRn .b g n)
  | .rndMrf g => some (.rndMr .f g)
  | .rndMrb g => some (.rndMr .b g)
  | .clrMrf => some (.clrMr .f)
  | .clrMrb => some (.clrMr .b)
  | .mulF n x y => some (.mulF n x y)
  | .mrToReg p k => some (.mrToReg p k)
  | .regToMr p k => some (.regToMr p k)
  | .lshift n x y => some (.shBin .lshift n x y)
  | .orLshift n x y => some (.shBin .orLshift n x y)
  | .ashift n x y => some (.shBin .ashift n x y)
  | .orAshift n x y => some (.shBin .orAshift n x y)
  | .rot n x y => some (.shBin .rot n x y)
  | .bclr n x y => some (.shBin .bclr n x y)
  | .bset n x y => some (.shBin .bset n x y)
  | .btgl n x y => some (.shBin .btgl n x y)
  | .btst x y => some (.btst x y)
  | .fdep n x y => some (.shBin .fdep n x y)
  | .orFdep n x y => some (.shBin .orFdep n x y)
  | .fdepSe n x y => some (.shBin .fdepSe n x y)
  | .orFdepSe n x y => some (.shBin .orFdepSe n x y)
  | .fext n x y => some (.shBin .fext n x y)
  | .fextSe n x y => some (.shBin .fextSe n x y)
  | .exp n x => some (.shUn .exp n x)
  | .expEx n x => some (.shUn .expEx n x)
  | .leftz n x => some (.shUn .leftz n x)
  | .lefto n x => some (.shUn .lefto n x)
  | .fpack n x => some (.shUn .fpack n x)
  | .funpack n x => some (.shUn .funpack n x)
  | .dualFix s a x y => some (.dualFix s a x y)
  | .dualFlt s a x y => some (.dualFlt s a x y)
  | .mfMulAdd q => some (.mfFix .rm .add q)
  | .mfMulSub q => some (.mfFix .rm .sub q)
  | .mfMulAvg q => some (.mfFix .rm .avg q)
  | .mfMrfPlusAdd q => some (.mfFix .mrfPlus .add q)
  | .mfMrfPlusSub q => some (.mfFix .mrfPlus .sub q)
  | .mfMrfPlusAvg q => some (.mfFix .mrfPlus .avg q)
  | .mfRmPlusAdd q => some (.mfFix .rmPlus .add q)
  | .mfRmPlusSub q => some (.mfFix .rmPlus .sub q)
  | .mfRmPlusAvg q => some (.mfFix .rmPlus .avg q)
  | .mfMrfMinusAdd q => some (.mfFix .mrfMinus .add q)
  | .mfMrfMinusSub q => some (.mfFix .mrfMinus .sub q)
  | .mfMrfMinusAvg q => some (.mfFix .mrfMinus .avg q)
  | .mfRmMinusAdd q => some (.mfFix .rmMinus .add q)
  | .mfRmMinusSub q => some (.mfFix .rmMinus .sub q)
  | .mfRmMinusAvg q => some (.mfFix .rmMinus .avg q)
  | .mfFmulAdd q => some (.mfFlt .add q)
  | .mfFmulSub q => some (.mfFlt .sub q)
  | .mfFmulFloat q => some (.mfFlt .float q)
  | .mfFmulFix q => some (.mfFlt .fix q)
  | .mfFmulAvg q => some (.mfFlt .avg q)
  | .mfFmulAbs q => some (.mfFlt .abs q)
  | .mfFmulMax q => some (.mfFlt .max q)
  | .mfFmulMin q => some (.mfFlt .min q)
  | .mfDualFix s q => some (.mfDualFix s q)
  | .mfDualFlt s q => some (.mfDualFlt s q)
  | .noCompute => some .none
  | _ => none

/-- The bits of a Bool field. -/
abbrev fb (b : Bool) : BitVec 1 := BitVec.ofBool b

/-- The word of an instruction: the fields of its layout from bit 47 down, unnamed bits 0 (30_encoding.md R202 to R219,
R240 to R243). A compute row is the Type 2 word with COND = TRUE. -/
def encode (i : Instr) : W48 :=
  match i with
  | .dualMove dw di dm dr pw pi pm pr k =>
      1#3 ++ fb dw ++ di ++ dm ++ fb pw ++ dr ++ pi ++ pm ++ pr ++ encodeCompute k
  | .condCompute c k => type2 c k
  | .uregMem post i m c g d l u k =>
      2#3 ++ fb post ++ i ++ m ++ c.code ++ fb g ++ fb d ++ fb l ++ u.code ++ encodeCompute k
  | .dregMemImm i g d u c data r k =>
      3#3 ++ 0#1 ++ i ++ fb g ++ fb d ++ fb u ++ c.code ++ data ++ r ++ encodeCompute k
  | .uregMove s c d k =>
      3#3 ++ 2#2 ++ s.code.extractLsb' 2 5 ++ c.code ++ s.code.extractLsb' 0 2 ++ 0#1 ++ d.code ++ encodeCompute k
  | .swap y c x k => 3#3 ++ 3#2 ++ 0#1 ++ y ++ c.code ++ 0#6 ++ x ++ encodeCompute k
  | .shiftImmMem i m c g d ex r op data rn rx =>
      4#3 ++ 0#1 ++ i ++ m ++ c.code ++ fb g ++ fb d ++ ex ++ r ++ 0#1 ++ op.code ++ data ++ rn ++ rx
  | .shiftImm c ex op data rn rx =>
      0x02#8 ++ 0#2 ++ c.code ++ 0#2 ++ ex ++ 0#4 ++ 0#1 ++ op.code ++ data ++ rn ++ rx
  | .modify g c i m k => 0x04#8 ++ 0#1 ++ fb g ++ c.code ++ i ++ m ++ 0#4 ++ encodeCompute k
  | .jumpAbs la c db ci a => 0x06#8 ++ 0#1 ++ fb la ++ c.code ++ 0#6 ++ fb db ++ 0#1 ++ fb ci ++ a
  | .jumpRel la c db ci a => 0x07#8 ++ 0#1 ++ fb la ++ c.code ++ 0#6 ++ fb db ++ 0#1 ++ fb ci ++ a
  | .callAbs c db a => 0x06#8 ++ 1#1 ++ 0#1 ++ c.code ++ 0#6 ++ fb db ++ 0#2 ++ a
  | .callRel c db a => 0x07#8 ++ 1#1 ++ 0#1 ++ c.code ++ 0#6 ++ fb db ++ 0#2 ++ a
  | .jumpInd la c i m db e ci k =>
      0x08#8 ++ 0#1 ++ fb la ++ c.code ++ i ++ m ++ fb db ++ fb e ++ fb ci ++ 0#1 ++ encodeCompute k
  | .jumpRel6 la c r db e ci k =>
      0x09#8 ++ 0#1 ++ fb la ++ c.code ++ r ++ fb db ++ fb e ++ fb ci ++ 0#1 ++ encodeCompute k
  | .callInd c i m db e k => 0x08#8 ++ 1#1 ++ 0#1 ++ c.code ++ i ++ m ++ fb db ++ fb e ++ 0#2 ++ encodeCompute k
  | .callRel6 c r db e k => 0x09#8 ++ 1#1 ++ 0#1 ++ c.code ++ r ++ fb db ++ fb e ++ 0#2 ++ encodeCompute k
  | .jumpIndElse d di dm c i m r k => 6#3 ++ fb d ++ di ++ dm ++ c.code ++ i ++ m ++ r ++ encodeCompute k
  | .jumpRelElse d di dm c rel r k => 7#3 ++ fb d ++ di ++ dm ++ c.code ++ rel ++ r ++ encodeCompute k
  | .rts c db e lr k => 0x0A#8 ++ 0#2 ++ c.code ++ 0#6 ++ fb db ++ fb e ++ fb lr ++ 0#1 ++ encodeCompute k
  | .rti c db e k => 0x0B#8 ++ 0#2 ++ c.code ++ 0#6 ++ fb db ++ fb e ++ 0#2 ++ encodeCompute k
  | .doImm n a => 0x0C#8 ++ n ++ a
  | .doUreg u a => 0x0D#8 ++ 0#1 ++ u.code ++ 0#8 ++ a
  | .doUntil c a => 0x0E#8 ++ 0#2 ++ c.code ++ 0#9 ++ a
  | .uregAbs g d l u a => 4#6 ++ fb g ++ fb d ++ fb l ++ u.code ++ a
  | .uregPre g i d l u data => 5#3 ++ fb g ++ i ++ fb d ++ fb l ++ u.code ++ data
  | .storeImm i m g data => 4#3 ++ 1#1 ++ i ++ m ++ fb g ++ 0#5 ++ data
  | .loadImm u data => 0x0F#8 ++ 0#1 ++ u.code ++ data
  | .bitSet s data => type18 0 s data
  | .bitClr s data => type18 1 s data
  | .bitTgl s data => type18 2 s data
  | .bitTst s data => type18 4 s data
  | .bitXor s data => type18 5 s data
  | .modifyImm g i data => 0x16#8 ++ 0#1 ++ fb g ++ 0#3 ++ i ++ data
  | .bitrev g i data => 0x16#8 ++ 1#1 ++ fb g ++ 0#3 ++ i ++ data
  | .pushLoop sts pc fl => type20 true false sts false pc false fl
  | .popLoop sts pc fl => type20 false true false sts false pc fl
  | .pushSts pc fl => type20 false false true false pc false fl
  | .popSts pc fl => type20 false false false true false pc fl
  | .pushPc fl => type20 false false false false true false fl
  | .popPc fl => type20 false false false false false true fl
  | .flushCache => type20 false false false false false false true
  | .nop => 0
  | .idle => 0x008000000000
  | .cjumpAbs a => 0x180400#24 ++ a
  | .cjumpRel a => 0x184400#24 ++ a
  | .rframe => 0x190000000000
  | j => type2 .always ((Instr.compute? j).getD .none)

/-- The word a row of the opcode table stands for: a row of 23 bits is a compute field, placed in the Type 2 instruction
without IF (30_encoding.md R203); any other is the 48-bit word itself. -/
def tableWord (nbits w : Nat) : W48 :=
  if nbits ≤ 24 then 0x013E0000#32 ++ 0#16 ||| (BitVec.ofNat 23 w).setWidth 48 else BitVec.ofNat 48 w

/-- The decoder's answer for a row of the opcode table. -/
def decodeTableWord (nbits w : Nat) : Option Instr :=
  match decode (tableWord nbits w) with
  | .ok i => some i
  | .error _ => none

end Sys2Proof
end

