-- ==== Sys2Proof/Machine/State.lean ====
section
/-!
DEFINITION. Machine/State.lean: the whole state of the ADSP-21160 as plain data, the reasons a step can stop, and
the state after reset. Every field cites the rule of spec/ that gives it.
-/
namespace Sys2Proof.Machine

/-! ### The processing elements and address generators -/

/-- One processing element: its two register files and its two physical multiplier result registers
(10_state.md R21, R23, R25). -/
structure ProcElem where
  /-- the primary register file -/
  r : Vector W40 16
  /-- the alternate register file -/
  rAlt : Vector W40 16
  /-- the physical result register MRa (MRF while MODE1.SRCU = 0) -/
  mra : W80
  /-- the physical result register MRb (MRB while MODE1.SRCU = 0) -/
  mrb : W80
deriving DecidableEq, Repr

/-- One set of address registers of both DAGs, numbered 0 to 15 (10_state.md R27). -/
structure DagSet where
  i : Vector W32 16
  m : Vector W32 16
  l : Vector W32 16
  b : Vector W32 16
deriving DecidableEq, Repr

/-! ### The sequencer -/

/-- The interrupts that can be entered, in the priority order of 60_exceptions.md R601 (positions 2 to 35; the reserved
positions 9 and 36 have no source, EMUI and RSTI are outside the selection). -/
inductive Irq where
  | iicdi | sovfi | tmzhi | virpti | irq2 | irq1 | irq0
  | spr0 | spr1 | spt0 | spt1
  | lp0 | lp1 | lp2 | lp3 | lp4 | lp5
  | ep0 | ep1 | ep2 | ep3 | lsrq | cb7 | cb15 | tmzli
  | fixi | fltoi | fltui | fltii | sft0 | sft1 | sft2 | sft3
deriving DecidableEq, Repr

/-- What the previous core step did (60_exceptions.md R620, `prevKind`). -/
inductive PrevKind where
  | entry | branch | idle | other
deriving DecidableEq, Repr

/-- One entry of the status stack (10_state.md R32). -/
structure StatusEntry where
  astatx : W32
  astaty : W32
  mode1 : W32
deriving DecidableEq, Repr

/-- One valid entry of the instruction cache (10_state.md R45). -/
structure CacheEntry where
  tag : W24
  word : W48
deriving DecidableEq, Repr

/-- The bits of the system registers that the previous instruction changed by a program write
(70_reset_and_hazards.md R800, `changed`). -/
structure Changed where
  mode1 : W32
  mode2 : W32
  mmask : W32
  flags : W32
  astatx : W32
  astaty : W32
  stkyx : W32
  stkyy : W32
  irptl : W32
  imask : W32
  lirptl : W32
deriving DecidableEq, Repr

/-- No bit changed. -/
def Changed.none : Changed := ⟨0, 0, 0, 0, 0, 0, 0, 0, 0, 0, 0⟩

/-- What one instruction leaves for the next one's hazard checks, apart from `changed`. -/
structure Recent where
  /-- PCSTKP was written (70 R800) -/
  pcstkp : Bool
  /-- BIT TST or BIT XOR wrote BTF (43_misc.md R370, D20) -/
  btf : Bool
  /-- CURLCNTR was loaded from memory (30_encoding.md R234, U14) -/
  curlcntr : Bool
  /-- sticky bits of STKYx that a compute newly set (60 R614, D39) -/
  stkyx : W32
  /-- sticky bits of STKYy that a compute newly set -/
  stkyy : W32
  /-- SYSCON bits changed by a core write, and HPFLSH if it was written with 1 (70 R802) -/
  syscon : W32
  /-- WAIT bits changed by a core write (70 R802) -/
  wait : W32
  /-- ELAST was written (62 R767, U48) -/
  elast : Bool
  /-- external port buffers flushed by this instruction's write, bit n for EPBn (70 R802) -/
  flushed : BitVec 4
  /-- external port buffers flushed by the instruction before -/
  flushedBefore : BitVec 4
  /-- TCOUNT was written (60 R640) -/
  tcount : Bool
  /-- bits of ASTATx that this instruction's compute flipped: a later write of the register in the same instruction drops
  them (44 R403, 45 R444) -/
  astatx : W32
  /-- the same of ASTATy -/
  astaty : W32
  /-- DMA channels that this instruction's write started: the I/O processor sees them from its step after the next core
  step on, bit c for channel c (70 R802) -/
  started : BitVec 14
  /-- this core step set TIMEN and left TCOUNT at 0; cleared by the first tick that follows (60 R640, U33) -/
  timerZero : Bool
  /-- the instruction at PC waits for the external bus (62 R760) -/
  busWait : Bool
deriving DecidableEq, Repr

/-- Nothing recent. -/
def Recent.none : Recent := ⟨false, false, false, 0, 0, 0, 0, false, 0, 0, false, 0, 0, 0, false, false⟩

/-- The cells one internal write covered, for the shadow write FIFO (20_memory.md R184): `columns` 16-bit columns from
the linear column `first` of the two blocks, written as part of a 48-bit word or not. -/
structure WriteMark where
  first : Nat
  columns : Nat
  is48 : Bool
deriving DecidableEq, Repr

/-- The remaining passes of a loop of one or two instructions whose exit test has been true and whose stacks are popped
(41_program_flow.md R333): its instructions, and the PC stack pointer the exit left. -/
structure LastPass where
  first : W24
  last : W24
  depth : BitVec 5
deriving DecidableEq, Repr

/-- The program sequencer (10_state.md R29 to R32, 41_program_flow.md R300, 60_exceptions.md R620). -/
structure Sequencer where
  pc : W24
  daddr : W24
  faddr : W24
  /-- delay-slot instructions still to execute, 0 to 2 (41 R300) -/
  dbSlots : Nat
  /-- they are the delay slots of a return, whose target is not tested again (41 R306) -/
  dbReturn : Bool
  /-- the last passes of condition-based loops of one or two instructions under way, innermost first (41 R333) -/
  lastPasses : List LastPass
  /-- the instruction at PC has begun and waits (60 R620, 92 D48) -/
  waiting : Bool
  pcStack : Vector W24 30
  pcstkp : BitVec 5
  loopAddr : Vector W32 6
  loopCount : Vector W32 6
  /-- loops active, 0 to 6 (10 R31) -/
  loopDepth : Nat
  /-- the status stack, newest first, at most 15 entries (10 R32) -/
  statusStack : List StatusEntry
  /-- a push has overflowed a stack (41 R307, U18) -/
  stackOverflow : Bool
  prevKind : PrevKind
  prevSel : Option Irq
  idle : Bool
  booting : Bool
  /-- IRQ2-0 were low at the last sample, bit n for IRQn (60 R604) -/
  irqPrev : BitVec 3
  /-- the instruction cache: sixteen sets, each with its most recently used entry first (10 R45) -/
  cache : Vector (List CacheEntry) 16
  /-- the word of the execute stage, where it came from the cache (20 R186) -/
  cachedPc : Option W48
  /-- the same for the decode stage -/
  cachedDaddr : Option W48
  /-- the same for the fetch stage -/
  cachedFaddr : Option W48
deriving DecidableEq, Repr

/-! ### System registers -/

/-- The system registers and the other 32-bit universal registers (10_state.md R28, R33 to R44). IRPTL[14] is
computed (60 R610) and MODE2[31:25] are the identification; neither is stored. -/
structure SysRegs where
  mode1 : W32
  mode2 : W32
  mmask : W32
  astatx : W32
  astaty : W32
  stkyx : W32
  stkyy : W32
  irptl : W32
  imask : W32
  imaskp : W32
  lirptl : W32
  flags : W32
  ustat1 : W32
  ustat2 : W32
  ustat3 : W32
  ustat4 : W32
  tperiod : W32
  tcount : W32
  emuclk : W32
  emuclk2 : W32
  px : W64
deriving DecidableEq, Repr

/-! ### The I/O processor -/

/-- One DMA channel with its buffer (61_io_devices.md R681, R682, R720). -/
structure Channel where
  ii : BitVec 18
  im : BitVec 16
  c : BitVec 16
  cp : BitVec 19
  gp : BitVec 18
  da : BitVec 16
  db : BitVec 16
  ei : W32
  em : W32
  ec : W32
  /-- DMASTAT bit c (61 R686) -/
  active : Bool
  /-- a control-block load is requested (61 R687) -/
  chainPending : Bool
  /-- DMASTAT bit 16+c (61 R686) -/
  chainStatus : Bool
  /-- the words queued in the channel's buffer, oldest first (61 R720, 62 R728, R745, R746) -/
  queue : List W64
  /-- the value a read of the empty buffer repeats with BHD = 1 (61 R720) -/
  last : W64
  /-- the pieces of a partly packed or unpacked word, oldest first (61 R696) -/
  parts : List W32
  /-- DMARx requests not yet granted (61 R694) -/
  requests : Nat
  /-- an internal transfer of the present sequence has been made (61 R682, R688: the first is made before the count is
  tested) -/
  begun : Bool
deriving DecidableEq, Repr

/-- One serial port (62_link_serial_multiproc.md R741 to R757). The buffers are those of channels x and 2 + x. -/
structure Sport where
  /-- STCTLx without its status fields -/
  stctl : W32
  /-- SRCTLx without its status fields -/
  srctl : W32
  chnl : BitVec 5
  tuvf : Bool
  rovf : Bool
  tdiv : W32
  rdiv : W32
  tcnt : W32
  rcnt : W32
  mtcs : W32
  mrcs : W32
  mtccs : W32
  mrccs : W32
  keywd : W32
  keymask : W32
  spath : W32
  spcnt : W32
  /-- the first half of the front packed word has been sent (62 R745) -/
  halfSent : Bool
  /-- the first half of a packed word has been received (62 R746) -/
  halfReceived : Option W16
  /-- at least one word has been sent since the port was enabled (62 R745) -/
  sentOnce : Bool
deriving DecidableEq, Repr

/-- A direct write of an external master on its way to memory (61_io_devices.md R710):
the internal address, the width in bits (16, 32, 48 or 64) and the value. -/
structure DirectWrite where
  addr : W32
  width : Nat
  value : W64
deriving DecidableEq, Repr

/-- A write of an external master to an IOP register waiting in the slave write FIFO (61_io_devices.md R708). -/
structure SlaveWrite where
  addr : BitVec 8
  value : W64
deriving DecidableEq, Repr

/-- The I/O processor's registers (10_state.md R100 to R111, files 61 and 62). -/
structure Iop where
  syscon : W32
  virpt : W32
  wait : W32
  hstm : Bool
  bsyn : Bool
  crbm : BitVec 3
  vipd : Bool
  msgr : Vector W32 8
  pcShdw : W24
  elast : W32
  bmax : W16
  bcnt : W16
  /-- the breakpoint and emulation registers 0xA0 to 0xB3 (10 R111) -/
  emu : Vector W32 20
  /-- a software reset is the next step (70 R781) -/
  resetPending : Bool
  chan : Vector Channel 14
  dmac : Vector W32 4
  epTop : Fin 4
  lkTop : Fin 6
  /-- the link group has the next turn (61 R689) -/
  linkTurn : Bool
  /-- the direct write FIFO, oldest first (61 R710) -/
  directFifo : List DirectWrite
  /-- the register writes in the slave write FIFO, oldest first (61 R708) -/
  slaveFifo : List SlaveWrite
  /-- the direct writes in the slave write FIFO, oldest first (61 R708, 70 R834): a list of their own, because no order holds
  between the two streams (61 R710, D46) -/
  slaveDirect : List DirectWrite
  /-- the pieces of a partly packed host word (61 R707) -/
  hostParts : List W32
  /-- they belong to a word the host reads -/
  hostReading : Bool
  /-- the bus time-out has run out: the bus is given up before the next access (62 R762) -/
  yielding : Bool
  lctl0 : W32
  lctl1 : W32
  /-- LCOM without its status fields -/
  lcom : W32
  lrerr : BitVec 6
  lar : W32
  /-- LSRQ without its status fields -/
  lsrq : W32
  /-- LPATH1-3, LPCNT, CNST1, CNST2 (62 R757) -/
  mesh : Vector W32 6
  sport : Vector Sport 2
deriving DecidableEq, Repr

/-! ### The environment -/

/-- The boot-mode pins (70_reset_and_hazards.md R782). -/
inductive BootMode where
  | eprom | host | link | noboot
deriving DecidableEq, Repr

/-- CLK_CFG3-0: the core-to-CLKIN ratio (00_scope.md R7). -/
inductive ClkCfg where
  | two | three | four
deriving DecidableEq, Repr

/-- The pins and parameters (00_scope.md R7). -/
structure Pins where
  /-- ID2-0 -/
  id : BitVec 3
  boot : BootMode
  /-- CLK_CFG3-0 -/
  clkCfg : ClkCfg
  rpba : Bool
  /-- the ADSP-21160N (true) or M (false) -/
  variantN : Bool
  siliconRev : BitVec 2
  /-- the levels the environment drives on FLAG3-0 -/
  flagIn : BitVec 4
  /-- FLAG3-0 as sampled one core step ago (10 R43) -/
  flagSync : BitVec 4
  /-- IRQ2-0 are low now, bit n for IRQn -/
  irqLow : BitVec 3
  /-- LxACK driven high on a disabled port (62 R740) -/
  ackIn : BitVec 6
  /-- LxCLK driven high on a disabled port -/
  clkIn : BitVec 6
  /-- BR6-1 of the other DSPs are asserted, bit n for BR(n + 1); the bit of this DSP's own ID is not looked at (62 R760) -/
  brIn : BitVec 6
  /-- another DSP that is not master asserts PA (62 R763) -/
  paIn : Bool
deriving DecidableEq, Repr

/-- What the environment, the timer or the I/O processor does between two core steps
(00_scope.md R16, 61_io_devices.md R722, 62_link_serial_multiproc.md R768). -/
inductive Event where
  /-- one core step -/
  | core
  /-- one more tick of the timer (60 R640) -/
  | tick
  | setIrq (low : BitVec 3)
  | samplePins
  | setFlags (levels : BitVec 4)
  | setLinkPins (ack clk : BitVec 6)
  | resetPin
  /-- one step of the I/O processor: the pending request of highest priority (61 R689); `slaveFirst` orders a pending
  register write against a pending direct write (61 R710, D46) -/
  | iopStep (slaveFirst : Bool)
  /-- one external transfer of channel 10 + n in a master mode (61 R691, R692) -/
  | extTransfer (n : Fin 4)
  /-- a DMARx request for channel 11 (false) or 12 (true) (61 R694) -/
  | dmaRequest (ch12 : Bool)
  /-- a DMAGx grant; `data` is what the device drives (61 R694, R695) -/
  | dmaGrant (ch12 : Bool) (data : W64)
  /-- a write of a register; `sync` for a synchronous write (61 R708) -/
  | extWriteIop (sync : Bool) (addr : BitVec 8) (value : W32)
  | extReadIop (addr : BitVec 8)
  /-- a direct write; `sync` for a synchronous write (61 R710, 70 R834) -/
  | extWriteMem (sync : Bool) (addr : W32) (width : Nat) (value : W64)
  /-- the oldest direct write in the slave write FIFO is latched into the direct write FIFO (61 R710, 70 R834) -/
  | latchDirect
  | extReadMem (addr : W32) (width : Nat)
  /-- a host write of one packed piece (61 R707) -/
  | hostPiece (addr : W32) (piece : W32)
  /-- a host read of one packed piece (61 R707) -/
  | hostRead (addr : W32)
  /-- a slave-mode write of one piece to EPBn; without packing `wide` says that it has 64 bits (61 R693) -/
  | epbWrite (n : Fin 4) (wide : Bool) (piece : W64)
  /-- a slave-mode read of one piece of EPBn -/
  | epbRead (n : Fin 4) (wide : Bool)
  | linkTaken (b : Fin 6)
  | linkArrived (b : Fin 6) (word : W48)
  | linkPartial (b : Fin 6)
  /-- a word moves through a port in loopback from buffer `t` to buffer `r` (62 R732) -/
  | linkLoop (t r : Fin 6)
  | sportSent (x : Fin 2)
  | sportReceived (x : Fin 2) (word : W32)
  | sportUnderflow (x : Fin 2)
  /-- one slot of a multichannel frame; `word` is on the line (62 R752) -/
  | sportSlot (x : Fin 2) (word : W32)
  | synchronised (master : BitVec 3)
  /-- the bus requests and PA of the other DSPs change (62 R760, R763) -/
  | setBusPins (br : BitVec 6) (pa : Bool)
  | busTo (master : BitVec 3)
  | bcntTick
  /-- this DSP, master without a need of the bus, deasserts its BRx (62 R762) -/
  | dropRequest
  | hostAcquire
  | hostRelease
  /-- the environment sets a word of external data memory, so that the next read of it gives `value` (00 R7, 61 R722 (a)) -/
  | setExtData (addr : W32) (value : W32)
  /-- the same of an instruction of external memory -/
  | setExtCode (addr : W24) (value : W48)
  /-- the same of a byte of boot memory -/
  | setBoot (addr : W32) (value : BitVec 8)
deriving DecidableEq, Repr

/-- What the chip has given to the environment. -/
inductive Output where
  /-- the TIMEXP pulse (60 R641) -/
  | timexp
  | linkWord (port : Nat) (word : W48)
  | serialWord (x : Fin 2) (word : W32)
  | iopValue (addr : BitVec 8) (value : W64)
  /-- one piece of a packed host read (61 R707) -/
  | hostValue (addr : W32) (piece : W32)
  | memValue (addr : W32) (value : W64)
  | epbValue (n : Fin 4) (value : W64)
  | grantValue (ch12 : Bool) (value : W64)
  /-- a store to another processor's internal space (20 R126) -/
  | remoteStore (addr : W32) (width : Nat) (value : W64)
deriving DecidableEq, Repr

/-- Memory: (key, byte) pairs with keys strictly rising and no byte that an unlisted key reads as (zero). The keys are
laid out in Machine/Ops.lean. -/
abbrev Mem := List Host.Cell

/-- The whole state of the machine. -/
structure State where
  /-- PEx -/
  x : ProcElem
  /-- PEy -/
  y : ProcElem
  /-- the primary address registers -/
  dag : DagSet
  /-- the secondary address registers -/
  dagAlt : DagSet
  seq : Sequencer
  reg : SysRegs
  changed : Changed
  recent : Recent
  /-- internal writes of the previous instruction (20 R184) -/
  shadow1 : List WriteMark
  /-- internal writes of the instruction before it -/
  shadow2 : List WriteMark
  /-- the non-sticky STKYx bits whose value a program write left undefined (10 R38, U6) -/
  stackBits : W32
  mem : Mem
  iop : Iop
  pins : Pins
  /-- the MODEL's own: the environment's events still to come (log 4) -/
  inputs : List Event
  /-- the MODEL's own: what the chip has given out, newest first (log 4) -/
  outputs : List Output
  /-- the MODEL's own: how many free values have been drawn (log 5) -/
  freeIdx : Nat
deriving DecidableEq, Repr

/-! ### Why a step can stop -/

/-- The model faults of 60_exceptions.md R602: the spec stops where the sources give no result. Every one is safe: the
machine stops where the hardware goes on in a way the spec does not define. -/
inductive Fault where
  /-- raised by the fetch: a word, register code or compute opcode that no table assigns (D7, U27); safe -/
  | illegalInstruction
  /-- raised by any instruction that uses a system-register bit the instruction before it changed (D6, D20); safe -/
  | latencyHazard
  /-- raised by a write of 1 to a reserved register bit (U1); safe -/
  | reservedBitWrite
  /-- raised by a data access to a reserved or unpopulated address (U2); safe -/
  | unmappedAccess
  /-- raised by a long- or short-word access where the width is not allowed (U3, U4); safe -/
  | illegalAccessWidth
  /-- raised by the fetch from an address that cannot hold code (U7); safe -/
  | illegalFetch
  /-- raised by Type 1: two stores to one location or an unsupported mix (U8); safe -/
  | dualAccessConflict
  /-- raised by a pre-modify access that changes the memory space (U9); safe -/
  | premodifySpaceChange
  /-- raised by a circular buffer outside its conditions (U10); safe -/
  | circularBufferRange
  /-- raised by a DAG register transfer through the same DAG (U11); safe -/
  | dagSelfTransfer
  /-- raised by the sequencer on incrementing past 0xFFFFFF (U12); safe -/
  | pcWrap
  /-- raised by a mixed-width read within two instructions of the write (U13); safe -/
  | shadowFifoHazard
  /-- raised by a store to one of the next two instructions (D8); safe -/
  | storeToFetchedCode
  /-- raised by IF NOT LCE right after a load of CURLCNTR from memory (U14); safe -/
  | loopCounterHazard
  /-- raised by a conditional SIMD move to external, multiprocessor or IOP space (U15); safe -/
  | undefinedSimdConditionalAccess
  /-- raised by a conditional SIMD compute and move to one destination (U16); safe -/
  | simdSameDestination
  /-- raised by an instruction that may not stand in a delay slot (D13); safe -/
  | delaySlotViolation
  /-- raised by a branch among the last three instructions of a loop (D18); safe -/
  | loopEndBranch
  /-- raised by a JUMP or CALL into the last two instructions of the active loop (D15); safe -/
  | loopEndEntry
  /-- raised by RTS without (LR) into them (D15); safe -/
  | loopReentryWithoutLR
  /-- raised by a pop of an empty stack (U19); safe -/
  | stackUnderflow
  /-- raised by a stack operation after an overflow (U18); safe -/
  | stackOverflowState
  /-- raised by a stack register access inside a one- or two-instruction loop (U17); safe -/
  | shortLoopStackAccess
  /-- raised by DO UNTIL whose end lies before its start (U20); safe -/
  | illegalLoopEnd
  /-- raised by a write of CURLCNTR in the step of the loop test (U22); safe -/
  | loopCounterWriteAtTest
  /-- raised by nested loops that end too close together (U23); safe -/
  | nestedLoopEnd
  /-- raised by an interrupt entry in a decided exit of a one-instruction loop (U24); safe -/
  | shortLoopInterrupt
  /-- raised by an LCNTR access or DO UNTIL LCE with the loop counter stack full (U5); safe -/
  | loopCounterStackFull
  /-- raised by BITREV on an active circular buffer (U26); safe -/
  | bitrevCircular
  /-- raised by RFRAME in SIMD mode (U29); safe -/
  | rframeSimd
  /-- raised by a dual add and subtract with one destination (U31); safe -/
  | dualAluSameDestination
  /-- raised by a program write that changes a mask pointer (U32); safe -/
  | maskPointerWrite
  /-- raised by a program write of 1 to IRPTL bit 1 (U34); safe -/
  | resetLatchWrite
  /-- raised by an eighth ungranted DMARx request (U35); safe -/
  | dmaRequestOverflow
  /-- raised by a change of an active channel or enabled buffer (U36); safe -/
  | activeChannelModified
  /-- raised by FLSH in an enabling write or while the channel is active (U37); safe -/
  | flushWhileActive
  /-- raised by a reserved mode code in use (U38 to U41, U52, U53); safe -/
  | reservedModeCode
  /-- raised by a write of RXx or read of TXx that does not compand in place (U51, log 74); safe -/
  | sportBufferMisuse
  /-- raised by DMA to external memory while boot memory is selected (U45); safe -/
  | bootSelectConflict
  /-- raised by master-mode parameters that fit no row (U50); safe -/
  | dmaParameterMismatch
  /-- raised by multichannel mode with a mode it excludes (U49); safe -/
  | sportModeConflict
deriving DecidableEq, Repr

/-- What the model does not start or is not offered. -/
inductive Refusal where
  /-- raised by `exec` for an instruction that has no meaning yet; safe: nothing runs -/
  | notModelled (mnemonic : String)
  /-- raised by `step` when the head of the input queue is not offered in this state (93 section 1, "refuse"); safe -/
  | eventNotOffered
  /-- raised by `step` for ID = 111 (00_scope.md R7); safe -/
  | reservedPins
deriving DecidableEq, Repr

/-! ### Reset -/

/-- A processing element with nothing written: zero (log 1). -/
def ProcElem.zero : ProcElem := ⟨.replicate 16 0, .replicate 16 0, 0, 0⟩

/-- Address registers with nothing written: zero (log 1). -/
def DagSet.zero : DagSet := ⟨.replicate 16 0, .replicate 16 0, .replicate 16 0, .replicate 16 0⟩

/-- A DMA channel after reset (70_reset_and_hazards.md R780 (f), (g)); undefined registers zero (log 1). -/
def Channel.zero : Channel :=
  { ii := 0, im := 0, c := 0, cp := 0, gp := 0, da := 0, db := 0, ei := 0, em := 0, ec := 0,
    active := false, chainPending := false, chainStatus := false, queue := [], last := 0, parts := [], requests := 0,
    begun := false }

/-- A serial port after reset (62 R742 to R757). -/
def Sport.zero : Sport :=
  { stctl := 0, srctl := 0, chnl := 0, tuvf := false, rovf := false, tdiv := 0, rdiv := 0, tcnt := 0, rcnt := 0,
    mtcs := 0, mrcs := 0, mtccs := 0, mrccs := 0, keywd := 0, keymask := 0, spath := 1, spcnt := 1,
    halfSent := false, halfReceived := none, sentOnce := false }

/-- The sequencer after reset with the window at `pc` (70 R780 (b), (c), (d), R782). -/
def Sequencer.atReset (pc daddr faddr : W24) (idle booting : Bool) : Sequencer :=
  { pc := pc, daddr := daddr, faddr := faddr, dbSlots := 0, dbReturn := false, lastPasses := [], waiting := false,
    pcStack := .replicate 30 0, pcstkp := 0,
    loopAddr := .replicate 6 0, loopCount := .replicate 6 0, loopDepth := 0, statusStack := [], stackOverflow := false,
    prevKind := .entry, prevSel := none, idle := idle, booting := booting, irqPrev := 0, cache := .replicate 16 [],
    cachedPc := none, cachedDaddr := none, cachedFaddr := none }

/-- The system registers after reset with FLAG pins at `flags` (10_state.md R49). -/
def SysRegs.atReset (flags : BitVec 4) : SysRegs :=
  { mode1 := 0, mode2 := 0, mmask := 0x00200000#32, astatx := 0, astaty := 0, stkyx := 0x05400000#32, stkyy := 0,
    irptl := 0, imask := 0x00000003#32, imaskp := 0, lirptl := 0, flags := flags.setWidth 32,
    ustat1 := 0, ustat2 := 0, ustat3 := 0, ustat4 := 0, tperiod := 0, tcount := 0, emuclk := 0, emuclk2 := 0, px := 0 }

/-- The I/O processor after reset, before the boot mode's changes; `bsyn` and `crbm` are bus state (70 R780 (f) to (i)). -/
def Iop.atReset (bsyn : Bool) (crbm : BitVec 3) (bcnt : W16) : Iop :=
  { syscon := 0x00010010#32, virpt := 0x00040014#32, wait := 0x01CE739C#32, hstm := false, bsyn := bsyn, crbm := crbm,
    vipd := false, msgr := .replicate 8 0, pcShdw := 0, elast := 0, bmax := 0, bcnt := bcnt, emu := .replicate 20 0,
    resetPending := false, chan := .replicate 14 Channel.zero, dmac := .replicate 4 0, epTop := 0, lkTop := 0,
    linkTurn := true, directFifo := [], slaveFifo := [], slaveDirect := [], hostParts := [], hostReading := false,
    yielding := false, lctl0 := 0, lctl1 := 0, lcom := 0, lrerr := 0,
    lar := 0x0002C688#32, lsrq := 0, mesh := .replicate 6 0, sport := .replicate 2 Sport.zero }

/-- The pins of `State.reset`: one processor, no boot (log 3). -/
def Pins.default : Pins :=
  { id := 0, boot := .noboot, clkCfg := .two, rpba := false, variantN := false, siliconRev := 0, flagIn := 0, flagSync := 0,
    irqLow := 0, ackIn := 0, clkIn := 0, brIn := 0, paIn := false }

/-- The machine right after reset with the pins of `Pins.default` (70_reset_and_hazards.md R780, R782): no-boot mode,
memory with nothing listed. -/
def State.reset : State :=
  { x := ProcElem.zero, y := ProcElem.zero, dag := DagSet.zero, dagAlt := DagSet.zero,
    seq := Sequencer.atReset 0x800004#24 0x800005#24 0x800006#24 false false,
    reg := SysRegs.atReset 0, changed := Changed.none, recent := Recent.none, shadow1 := [], shadow2 := [],
    stackBits := 0, mem := [], iop := Iop.atReset true 1 0, pins := Pins.default, inputs := [], outputs := [], freeIdx := 0 }

end Sys2Proof.Machine
end

