-- ==== Sys2Proof/Machine/Memory.lean ====
section
/-!
DEFINITION. Machine/Memory.lean: memory as bytes by key, and what an address names (20_memory.md R120 to R128).

Keys: the two internal blocks are 262144 16-bit columns, numbered through; column c is the bytes 2c and 2c + 1, the low one
first. External data word a is four bytes at 2^40 + 4a, external instruction a is six bytes at 2^41 + 6a, and byte a of
the boot EPROM is at 2^42 + a. An unlisted byte reads as zero (log 2).
-/
namespace Sys2Proof.Machine

/-! ### Bytes by key -/

/-- The byte at a key. -/
def Mem.byte : Mem → Nat → BitVec 8
  | [], _ => 0
  | (a, b) :: m, k => if a = k then b else Mem.byte m k

/-- Memory with one byte written, in canonical form. -/
def Mem.put : Mem → Nat → BitVec 8 → Mem
  | [], k, v => if v = 0 then [] else [(k, v)]
  | (a, b) :: m, k, v =>
    if k < a then (if v = 0 then (a, b) :: m else (k, v) :: (a, b) :: m)
    else if k = a then (if v = 0 then m else (k, v) :: m)
    else (a, b) :: Mem.put m k v

/-- `n` bytes from a key up, the first the least significant. -/
def Mem.load (m : Mem) : Nat → Nat → Nat
  | _, 0 => 0
  | k, n + 1 => (m.byte k).toNat + 256 * Mem.load m (k + 1) n

/-- Memory with the low `n` bytes of `v` written from a key up. -/
def Mem.store (m : Mem) : Nat → Nat → Nat → Mem
  | _, 0, _ => m
  | k, n + 1, v => (Mem.store m (k + 1) n (v / 256)).put k (BitVec.ofNat 8 v)

/-- Every key of `m` is above `k`. -/
def Mem.above (k : Nat) : Mem → Bool
  | [] => true
  | (a, _) :: _ => k < a

/-- The canonical form: keys strictly rising, no byte zero. -/
def Mem.wf : Mem → Bool
  | [] => true
  | (a, b) :: m => b ≠ 0 && Mem.above a m && Mem.wf m

/-! ### Addresses -/

/-- What the internal bits of an address name (20_memory.md R122, R123). -/
inductive Form where
  | iop | hole | long | normal | short
deriving DecidableEq, Repr

/-- The form of an internal address, from its S field. -/
def form (a : W32) : Form :=
  if a.getLsbD 19 then .short
  else if a.getLsbD 18 then .normal
  else if a.getLsbD 17 then .long
  else if a.extractLsb' 8 9 == 0 then .iop
  else .hole

/-- Whose memory an address names (20_memory.md R122, R126, R127). -/
inductive Target where
  /-- this processor's internal space, directly or through its own range of the multiprocessor space -/
  | own (mms : Bool)
  /-- another processor's internal space -/
  | other
  /-- the broadcast region -/
  | all
  /-- external memory -/
  | ext
deriving DecidableEq, Repr

/-- The target of an address on the processor with `id`. -/
def target (id : BitVec 3) (a : W32) : Target :=
  if a.extractLsb' 23 9 != 0 then .ext
  else
    let m := a.extractLsb' 20 3
    if m == 0 then .own false else if m == 7 then .all else if m == id then .own true else .other

/-- The first column of block 0 or 1. -/
def blockCol (b : Bool) : Nat := if b then 131072 else 0

/-- The first of the four columns a long-word address names (20_memory.md R124). -/
def longCol (a : W32) : Nat := blockCol (a.getLsbD 15) + 4 * (a.extractLsb' 0 15).toNat
/-- The first of the two columns a normal-word address names as 32 bits (20_memory.md R124). -/
def normalCol (a : W32) : Nat := blockCol (a.getLsbD 16) + 2 * (a.extractLsb' 0 16).toNat
/-- The column a short-word address names (20_memory.md R124). -/
def shortCol (a : W32) : Nat := blockCol (a.getLsbD 17) + (a.extractLsb' 0 17).toNat
/-- The first of the three columns a normal-word address names as 48 bits (20_memory.md R125). -/
def wordCol (a : W32) : Option Nat :=
  let k := (a.extractLsb' 0 16).toNat
  if k < 43690 then some (blockCol (a.getLsbD 16) + 3 * k) else none

/-- The key of a column. -/
def colKey (c : Nat) : Nat := 2 * c
/-- The key of an external data word (20_memory.md R127). -/
def extKey (a : W32) : Nat := 1099511627776 + 4 * a.toNat
/-- The key of an external instruction (20_memory.md R150). -/
def codeKey (a : W24) : Nat := 2199023255552 + 6 * a.toNat
/-- The key of a byte of the boot EPROM (20_memory.md R128). -/
def bootKey (a : W32) : Nat := 4398046511104 + a.toNat

/-- Where an instruction is fetched: the key of its six bytes, or nothing where no code can stand (20_memory.md R150,
U7). -/
def fetchKey (a : W24) : Option Nat :=
  let b := a.setWidth 32
  if a.getLsbD 23 then some (codeKey a)
  else if a.extractLsb' 20 3 == 0 && form b == .normal then (wordCol b).map colKey
  else none

/-- The first column of the internal code word at an address. -/
def codeCol (a : W24) : Option Nat :=
  let b := a.setWidth 32
  if !a.getLsbD 23 && a.extractLsb' 20 3 == 0 && form b == .normal then wordCol b else none

/-- The ranges of `n` columns from `a` and `k` columns from `b` meet. -/
def meets (a n b k : Nat) : Bool := a < b + k && b < a + n

end Sys2Proof.Machine
end

