-- ==== Sys2Proof/Config.lean ====
section
/-!
DEFINITION. Config.lean: what an implementation fixes and the spec leaves open (00_scope.md R7), and the free values.
Every constant here is opaque: it has no body, so no proof can see what it is.
-/
namespace Sys2Proof.Config

/-- The n-th free 32-bit value: a value the spec says may be any (U6, U28, U48, partial words, remote reads).
DESIGN CHOICE (log 5), safe: nothing constrains it. -/
opaque freeWord : Nat → BitVec 32

/-- The n-th free 64-bit value, for a 64-bit read the environment supplies. DESIGN CHOICE (log 5), safe. -/
opaque freeLong : Nat → BitVec 64

/-- The n-th free choice between two readings the spec allows (D36, D39, U21, U25, U33). DESIGN CHOICE (log 5), safe. -/
opaque freeBit : Nat → Bool

/-- What the reciprocal seed table `RECIPS_ROM` holds for the seven most significant fraction bits
(45_alu_float.md R460, N16): the seed's 31 fraction bits. DESIGN CHOICE (log 6), safe: read through
`Machine.recipsSeed`, which keeps the stated accuracy. -/
opaque recipsRom : BitVec 7 → BitVec 31

/-- What the reciprocal-square-root seed table `RSQRTS_ROM` holds, by exponent LSB and the six most significant fraction
bits (45_alu_float.md R461). DESIGN CHOICE (log 6), safe. -/
opaque rsqrtsRom : BitVec 7 → BitVec 31

/-- `AVG_TRUNC_TOWARD_ZERO` (OPEN-1, U30): how `(Rx + Ry)/2` truncates a negative odd sum. DESIGN CHOICE (log 7), safe. -/
opaque avgTruncTowardZero : Bool

/-- `MUL_RND_LOW_BITS` (OPEN-2): whether bits 31:0 of a rounded multiplier result are kept (true) or zero.
DESIGN CHOICE (log 7), safe. -/
opaque mulRndKeepsLow : Bool

/-- `HOST_BOOT_DMAC10` (OPEN-4): the PMODE field of DMAC10 after reset in host boot mode. DESIGN CHOICE (log 7), safe. -/
opaque hostBootPmode : BitVec 3

/-- `STX_2D_BIT21` (OPEN-3): whether STCTLx bit 21 enables two-dimensional DMA on a transmit channel.
DESIGN CHOICE (log 7), safe. -/
opaque stx2dBit21 : Bool

/-- `COMPAND` (62_link_serial_multiproc.md R748, D52): mu-law compression to eight bits. DESIGN CHOICE (log 8), safe. -/
opaque compressMu : BitVec 32 → BitVec 8
/-- A-law compression to eight bits. DESIGN CHOICE (log 8), safe. -/
opaque compressA : BitVec 32 → BitVec 8
/-- mu-law expansion of eight bits, to fourteen. DESIGN CHOICE (log 8), safe. -/
opaque expandMu : BitVec 8 → BitVec 14
/-- A-law expansion of eight bits, to thirteen. DESIGN CHOICE (log 8), safe. -/
opaque expandA : BitVec 8 → BitVec 13

end Sys2Proof.Config
end

