-- ==== Sys2Proof/Machine/Flags.lean ====
section
/-!
DEFINITION. Machine/Flags.lean: the bits of the mode and status registers, how an operation leaves its flags, and when a
condition holds (10_state.md R34 to R43, 30_encoding.md R230 to R232).
-/
namespace Sys2Proof.Machine

/-! ### Bits of a word -/

/-- A word with bit `n` at `b` and every other bit 0. -/
def bitAt (n : Nat) (b : Bool) : W32 := if b then 1#32 <<< n else 0#32

/-- `a` with the bits of `mask` taken from `v`. -/
def putBits (a mask v : W32) : W32 := (a &&& ~~~mask) ||| (v &&& mask)

/-! ### MODE1 and MODE2 (10_state.md R34, R36) -/

/-- MODE1.SRCU: MRF and MRB are exchanged. -/
def srcu (mode1 : W32) : Bool := mode1.getLsbD 2
/-- MODE1.NESTM: interrupt nesting. -/
def nestm (mode1 : W32) : Bool := mode1.getLsbD 11
/-- MODE1.IRPTEN: interrupts enabled. -/
def irpten (mode1 : W32) : Bool := mode1.getLsbD 12
/-- MODE1.ALUSAT: fixed-point ALU saturation. -/
def alusat (mode1 : W32) : Bool := mode1.getLsbD 13
/-- MODE1.SSE: short words are sign-extended. -/
def sse (mode1 : W32) : Bool := mode1.getLsbD 14
/-- MODE1.TRUNC: round toward zero. -/
def trunc (mode1 : W32) : Bool := mode1.getLsbD 15
/-- MODE1.RND32: round to 32 bits. -/
def rnd32 (mode1 : W32) : Bool := mode1.getLsbD 16
/-- MODE1.PEYEN: SIMD mode. -/
def peyen (mode1 : W32) : Bool := mode1.getLsbD 21
/-- MODE1.CBUFEN: circular buffer addressing. -/
def cbufen (mode1 : W32) : Bool := mode1.getLsbD 24

/-- The select bit of MODE1 for data register `n` (10_state.md R23). -/
def regSelect (mode1 : W32) (n : Reg) : Bool := if n < 8 then mode1.getLsbD 10 else mode1.getLsbD 7

/-- The select bit of MODE1 for the address registers numbered `n` (10_state.md R23). -/
def dagSelect (mode1 : W32) (n : Reg) : Bool :=
  if n < 4 then mode1.getLsbD 4 else if n < 8 then mode1.getLsbD 3 else if n < 12 then mode1.getLsbD 6
  else mode1.getLsbD 5

/-- The bits of MODE1 that are not reserved (10_state.md R34). -/
def mode1Bits : W32 := 0x01E7FCFF
/-- The bits of MODE2 a program can write (10_state.md R36). -/
def mode2Bits : W32 := 0x003F8077
/-- The bits of ASTATx and ASTATy that are not reserved (10_state.md R37). -/
def astatBits : W32 := 0xFF043FFF
/-- The bits of STKYx that are not reserved (10_state.md R38). -/
def stkyxBits : W32 := 0x07FE03E7
/-- The bits of STKYy that are not reserved (10_state.md R38). -/
def stkyyBits : W32 := 0x000003E7
/-- The stack-state bits of STKYx that are not sticky: PCFL, PCEM, SSEM, LSEM (10_state.md R38). -/
def stackStateBits : W32 := 0x05600000
/-- The bits of IRPTL, IMASK and IMASKP that are not reserved (10_state.md R39). -/
def irptlBits : W32 := 0x7FFFFDFF
/-- The bits of LIRPTL that are not reserved (10_state.md R42). -/
def lirptlBits : W32 := 0x3F3F003F
/-- The bits of FLAGS that are not reserved (10_state.md R43). -/
def flagsBits : W32 := 0x0000000F

/-! ### What the units leave in ASTAT and STKY -/

/-- The flags of an ALU operation (10_state.md R37). -/
structure AluFlags where
  az : Bool
  av : Bool
  an : Bool
  ac : Bool
  as : Bool
  ai : Bool
  af : Bool
deriving DecidableEq, Repr

/-- The ASTAT bits AZ, AV, AN, AC, AS, AI and AF. -/
def aluMask : W32 := 0x43F

/-- The flags at their places. -/
def AluFlags.bits (f : AluFlags) : W32 :=
  bitAt 0 f.az ||| bitAt 1 f.av ||| bitAt 2 f.an ||| bitAt 3 f.ac ||| bitAt 4 f.as ||| bitAt 5 f.ai ||| bitAt 10 f.af

/-- The flags of two additions at once are ORed (48_multifunction.md R571, R575). -/
def AluFlags.or (f g : AluFlags) : AluFlags :=
  ⟨f.az || g.az, f.av || g.av, f.an || g.an, f.ac || g.ac, f.as || g.as, f.ai || g.ai, f.af || g.af⟩

/-- ASTAT after an ALU operation (44_alu_fixed.md R403, 45_alu_float.md R444). -/
def putAlu (astat : W32) (f : AluFlags) : W32 := putBits astat aluMask f.bits

/-- ASTAT with a comparison shifted into CACC (44_alu_fixed.md R406). -/
def shiftCacc (astat : W32) (gt : Bool) : W32 :=
  BitVec.ofBool gt ++ astat.extractLsb' 25 7 ++ astat.extractLsb' 0 24

/-- The flags of a multiplier operation (10_state.md R37). -/
structure MulFlags where
  mn : Bool
  mv : Bool
  mu : Bool
  mi : Bool
deriving DecidableEq, Repr

/-- The ASTAT bits MN, MV, MU and MI. -/
def mulMask : W32 := 0x3C0

/-- The flags at their places. -/
def MulFlags.bits (f : MulFlags) : W32 := bitAt 6 f.mn ||| bitAt 7 f.mv ||| bitAt 8 f.mu ||| bitAt 9 f.mi

/-- ASTAT after a multiplier operation (46_multiplier.md R495). -/
def putMul (astat : W32) (f : MulFlags) : W32 := putBits astat mulMask f.bits

/-- The flags of a shifter operation (47_shifter.md R532). -/
structure ShfFlags where
  sz : Bool
  sv : Bool
  ss : Bool
deriving DecidableEq, Repr

/-- The ASTAT bits SV, SZ and SS. -/
def shfMask : W32 := 0x3800

/-- The flags at their places. -/
def ShfFlags.bits (f : ShfFlags) : W32 := bitAt 11 f.sv ||| bitAt 12 f.sz ||| bitAt 13 f.ss

/-- ASTAT after a shifter operation (47_shifter.md R532). -/
def putShf (astat : W32) (f : ShfFlags) : W32 := putBits astat shfMask f.bits

/-- STKY.AUS, AVS, AIS as a floating-point ALU operation sets them (45_alu_float.md R444). -/
def fltSticky (u v i : Bool) : W32 := bitAt 0 u ||| bitAt 1 v ||| bitAt 5 i

/-- STKY.AOS as a fixed-point ALU operation sets it (44_alu_fixed.md R403). -/
def fixSticky (v : Bool) : W32 := bitAt 2 v

/-! ### Conditions -/

/-- ASTAT.AC, the carry input of the next operation. -/
def carryIn (astat : W32) : Bool := astat.getLsbD 3

/-- LT: the sign corrected for an unsaturated overflow, or negative and not zero (30_encoding.md R232). -/
def testLt (mode1 astat : W32) : Bool :=
  let af := astat.getLsbD 10
  let an := astat.getLsbD 2
  (!af && (an ^^ (astat.getLsbD 1 && !alusat mode1))) || (af && an && !astat.getLsbD 0)

/-- LE: as `testLt`, or zero (30_encoding.md R232). -/
def testLe (mode1 astat : W32) : Bool :=
  let af := astat.getLsbD 10
  let an := astat.getLsbD 2
  (!af && (an ^^ (astat.getLsbD 1 && !alusat mode1))) || (af && an) || astat.getLsbD 0

/-- The bus-master condition, testable only while MODE1.CSEL = 00: always true with ID = 000, else this DSP is master
(30_encoding.md R231, 62_link_serial_multiproc.md R760). DESIGN CHOICE (log 53): with another ID it is false while the host
holds the bus. -/
def testBm (mode1 : W32) (crbm id : BitVec 3) (hstm : Bool) : Bool :=
  mode1.extractLsb' 17 2 == 0 && (id == 0 || (!hstm && crbm == id))

/-- What conditions read apart from ASTAT. -/
structure CondIn where
  mode1 : W32
  flags : W32
  bm : Bool
  curlcntr : W32
deriving DecidableEq, Repr

/-- A test of code 0 to 14 (30_encoding.md R231). -/
def evalTest (c : CondIn) (astat : W32) : Test → Bool
  | .eq => astat.getLsbD 0
  | .lt => testLt c.mode1 astat
  | .le => testLe c.mode1 astat
  | .ac => astat.getLsbD 3
  | .av => astat.getLsbD 1
  | .mv => astat.getLsbD 7
  | .ms => astat.getLsbD 6
  | .sv => astat.getLsbD 11
  | .sz => astat.getLsbD 12
  | .flag n => c.flags.getLsbD n.toNat
  | .tf => astat.getLsbD 18
  | .bm => c.bm

/-- A condition in an IF (30_encoding.md R231): code 15 is NOT LCE, code 31 is TRUE. -/
def evalIf (c : CondIn) (astat : W32) : Cond → Bool
  | .is t => evalTest c astat t
  | .isNot t => !evalTest c astat t
  | .lce => c.curlcntr != 1
  | .always => true

/-- A termination condition (30_encoding.md R231): code 15 is LCE, code 31 is FOREVER. -/
def evalUntil (c : CondIn) (astat : W32) : Cond → Bool
  | .is t => evalTest c astat t
  | .isNot t => !evalTest c astat t
  | .lce => c.curlcntr == 1
  | .always => false

end Sys2Proof.Machine
end

