-- ==== Sys2Proof/Machine/Operands.lean ====
section
/-!
DEFINITION. Machine/Operands.lean: the one place where registers are read and written: the data registers and multiplier
result registers of a processing element, the address registers, each with its alternate set (10_state.md R21 to R27).
-/
namespace Sys2Proof

/-! ### Complements and pairs -/

/-- The four kinds of address register. -/
inductive DagKind where
  | i | m | l | b
deriving DecidableEq, Repr

/-- The other register of an even and odd pair (20_memory.md R145). -/
def neighbour (n : Reg) : Reg := n ^^^ 1

/-- A register of an address generator (10_state.md R27). -/
def UReg.isDag : UReg → Bool
  | .i _ => true
  | .m _ => true
  | .l _ => true
  | .b _ => true
  | _ => false

/-- The complementary register, where there is one (10_state.md R24). -/
def UReg.comp : UReg → Option UReg
  | .r n => some (.s n)
  | .s n => some (.r n)
  | .px1 => some .px2
  | .px2 => some .px1
  | .sys .ustat1 => some (.sys .ustat2)
  | .sys .ustat2 => some (.sys .ustat1)
  | .sys .ustat3 => some (.sys .ustat4)
  | .sys .ustat4 => some (.sys .ustat3)
  | .sys .astatx => some (.sys .astaty)
  | .sys .astaty => some (.sys .astatx)
  | .sys .stkyx => some (.sys .stkyy)
  | .sys .stkyy => some (.sys .stkyx)
  | _ => none

/-- The kind and number of an address register. -/
def UReg.dag? : UReg → Option (DagKind × Reg)
  | .i n => some (.i, n)
  | .m n => some (.m, n)
  | .l n => some (.l, n)
  | .b n => some (.b, n)
  | _ => none

/-- The element and number of a data register. -/
def UReg.dreg? : UReg → Option (Bool × Reg)
  | .r n => some (false, n)
  | .s n => some (true, n)
  | _ => none

/-- A data register of PEy. -/
def UReg.inY : UReg → Bool
  | .s _ => true
  | _ => false

/-- The other register of a long-word access: data and address registers have one (20_memory.md R145). -/
def UReg.pair? : UReg → Option UReg
  | .r n => some (.r (neighbour n))
  | .s n => some (.s (neighbour n))
  | .i n => some (.i (neighbour n))
  | .m n => some (.m (neighbour n))
  | .l n => some (.l (neighbour n))
  | .b n => some (.b (neighbour n))
  | _ => none

end Sys2Proof

namespace Sys2Proof.Machine

/-! ### Data registers -/

/-- Rn or Sn of the selected set (10_state.md R21, R23). -/
def ProcElem.reg (p : ProcElem) (mode1 : W32) (n : Reg) : W40 :=
  if regSelect mode1 n then p.rAlt[n.toNat]'n.isLt else p.r[n.toNat]'n.isLt

/-- `p` with Rn or Sn of the selected set at `v`. -/
def ProcElem.setReg (p : ProcElem) (mode1 : W32) (n : Reg) (v : W40) : ProcElem :=
  if regSelect mode1 n then { p with rAlt := p.rAlt.set n.toNat v n.isLt }
  else { p with r := p.r.set n.toNat v n.isLt }

/-- MRF or MRB under the SRCU mapping (10_state.md R25). -/
def ProcElem.mr (p : ProcElem) (mode1 : W32) (k : Mr) : W80 :=
  if (k == .f) == !srcu mode1 then p.mra else p.mrb

/-- `p` with MRF or MRB at `v`. -/
def ProcElem.setMr (p : ProcElem) (mode1 : W32) (k : Mr) (v : W80) : ProcElem :=
  if (k == .f) == !srcu mode1 then { p with mra := v } else { p with mrb := v }

/-- PEy when `y`, else PEx. -/
def State.pe (s : State) (y : Bool) : ProcElem := if y then s.y else s.x

/-- `s` with a processing element replaced. -/
def State.setPe (s : State) (y : Bool) (p : ProcElem) : State := if y then { s with y := p } else { s with x := p }

/-- A data register of PEx or PEy. -/
def State.dreg (s : State) (y : Bool) (n : Reg) : W40 := (s.pe y).reg s.reg.mode1 n

/-- `s` with a data register of PEx or PEy at `v`. -/
def State.setDreg (s : State) (y : Bool) (n : Reg) (v : W40) : State := s.setPe y ((s.pe y).setReg s.reg.mode1 n v)

/-- ASTATx or ASTATy. -/
def State.astat (s : State) (y : Bool) : W32 := if y then s.reg.astaty else s.reg.astatx

/-- `s` with ASTATx or ASTATy at `v`. -/
def State.setAstat (s : State) (y : Bool) (v : W32) : State :=
  if y then { s with reg := { s.reg with astaty := v } } else { s with reg := { s.reg with astatx := v } }

/-- The bits of ASTATx or ASTATy that a compute of this instruction flipped, kept until the instruction ends. -/
def State.noteFlips (s : State) (y : Bool) (d : W32) : State :=
  if y then { s with recent := { s.recent with astaty := d } } else { s with recent := { s.recent with astatx := d } }

/-- `s` with sticky bits of STKYx or STKYy set, and the newly set ones kept for the next instruction's hazard
(10_state.md R38, 92_eei_decisions.md D39). -/
def State.orStky (s : State) (y : Bool) (v : W32) : State :=
  if y then { s with reg := { s.reg with stkyy := s.reg.stkyy ||| v },
                     recent := { s.recent with stkyy := s.recent.stkyy ||| (v &&& ~~~s.reg.stkyy) } }
  else { s with reg := { s.reg with stkyx := s.reg.stkyx ||| v },
                recent := { s.recent with stkyx := s.recent.stkyx ||| (v &&& ~~~s.reg.stkyx) } }

/-! ### Address registers -/

/-- The registers of a kind in one set. -/
def DagSet.kind (d : DagSet) : DagKind → Vector W32 16
  | .i => d.i | .m => d.m | .l => d.l | .b => d.b

/-- `d` with register `n` of a kind at `v`; a write to Bn writes In too (20_memory.md R175). -/
def DagSet.put (d : DagSet) (k : DagKind) (n : Reg) (v : W32) : DagSet :=
  match k with
  | .i => { d with i := d.i.set n.toNat v n.isLt }
  | .m => { d with m := d.m.set n.toNat v n.isLt }
  | .l => { d with l := d.l.set n.toNat v n.isLt }
  | .b => { d with b := d.b.set n.toNat v n.isLt, i := d.i.set n.toNat v n.isLt }

/-- An address register of the selected set (10_state.md R23, R27). -/
def State.dagReg (s : State) (k : DagKind) (n : Reg) : W32 :=
  ((if dagSelect s.reg.mode1 n then s.dagAlt else s.dag).kind k)[n.toNat]'n.isLt

/-- `s` with an address register of the selected set at `v`. -/
def State.setDagReg (s : State) (k : DagKind) (n : Reg) (v : W32) : State :=
  if dagSelect s.reg.mode1 n then { s with dagAlt := s.dagAlt.put k n v } else { s with dag := s.dag.put k n v }

/-- The number of register `n` of DAG1 or DAG2 (30_encoding.md R222). -/
def dagNumber (dag2 : Bool) (n : DagNum) : Reg := BitVec.ofBool dag2 ++ n


end Sys2Proof.Machine
end

