-- ==== Sys2Proof/Machine/Ops.lean ====
section
/-!
DEFINITION. Machine/Ops.lean: the shared operations of the sequencer: how a step stops, the stacks (41_program_flow.md
R307), latching, selecting, entering and leaving an interrupt (60_exceptions.md R603 to R625), and the flow window with its
loop test (41_program_flow.md R300, R301, R330, R332).
-/
namespace Sys2Proof.Machine

/-! ### How a step stops -/

/-- Why an instruction does not complete: a model fault, a refusal, or a wait with nothing done, for a buffer or for the
external bus (92_eei_decisions.md D48, 62_link_serial_multiproc.md R760). -/
inductive Halt where
  | fault (f : Fault)
  | refuse (r : Refusal)
  | stall
  | busStall
deriving DecidableEq, Repr

/-- A computation that may stop. -/
abbrev Run (α : Type) := Except Halt α

/-- Go on only if `ok`; else the fault `f`. -/
def need (ok : Bool) (f : Fault) : Run Unit := if ok then .ok () else .error (.fault f)

/-- The instruction at PC waits for the external bus, so that this DSP asserts its BRx (62_link_serial_multiproc.md R760). -/
def State.awaitBus (s : State) : State := { s with recent := { s.recent with busWait := true } }

/-- The outcome of a step from `s`: a wait leaves `s` as it is, but for the note that it is for the bus. -/
def outcome (s : State) : Run State → Host.Outcome State Fault Refusal
  | .ok t => .next t
  | .error (.fault f) => .fault f
  | .error (.refuse r) => .refused r
  | .error .stall => .next s
  | .error .busStall => .next s.awaitBus

/-! ### Free values -/

/-- The free value number `n` of this step (log 5). The numbers: 0 to 2 reads of STKYx and STKYy, 3 ELAST, 4 to 7 words
of other processors, 8 and 9 LCNTR, 10 PUSH PCSTK, 11 BTF, 12 PCSTK of an empty stack, 13 to 15 the interrupt logic. -/
def State.free (s : State) (n : Nat) : W32 := Config.freeWord (s.freeIdx + n)

/-- The bits of free value number `n` within a mask. -/
def State.freeIn (s : State) (n : Nat) (mask : W32) : W32 := if mask = 0 then 0 else s.free n &&& mask

/-- How many free values a step uses up. -/
def freeStride : Nat := 16

/-- The state an instruction starts to write: nothing changed yet, the shadow write FIFO one place on
(20_memory.md R184, 70_reset_and_hazards.md R800). -/
def State.start (s : State) : State :=
  { s with changed := Changed.none, recent := { Recent.none with flushedBefore := s.recent.flushed },
           shadow1 := [], shadow2 := s.shadow1, freeIdx := s.freeIdx + freeStride }

/-- The state an interrupt entry or an idle core step starts to write: nothing changed, but no instruction has run, so the
shadow write FIFO and the flushed buffers stay where they are (20_memory.md R184, 60_exceptions.md R605,
70_reset_and_hazards.md R802). -/
def State.pause (s : State) : State :=
  { s with changed := Changed.none
           recent := { Recent.none with flushed := s.recent.flushed, flushedBefore := s.recent.flushedBefore }
           freeIdx := s.freeIdx + freeStride }

/-! ### Interrupts: latch, mask, select -/

/-- The interrupts from the highest priority to the lowest (60_exceptions.md R601). -/
def Irq.all : List Irq :=
  [.iicdi, .sovfi, .tmzhi, .virpti, .irq2, .irq1, .irq0, .spr0, .spr1, .spt0, .spt1,
   .lp0, .lp1, .lp2, .lp3, .lp4, .lp5, .ep0, .ep1, .ep2, .ep3, .lsrq, .cb7, .cb15, .tmzli,
   .fixi, .fltoi, .fltui, .fltii, .sft0, .sft1, .sft2, .sft3]

/-- The position P in the priority order; the vector offset is four times it (60_exceptions.md R601). -/
def Irq.pos : Irq → Nat
  | .iicdi => 2 | .sovfi => 3 | .tmzhi => 4 | .virpti => 5 | .irq2 => 6 | .irq1 => 7 | .irq0 => 8
  | .spr0 => 10 | .spr1 => 11 | .spt0 => 12 | .spt1 => 13
  | .lp0 => 14 | .lp1 => 15 | .lp2 => 16 | .lp3 => 17 | .lp4 => 18 | .lp5 => 19
  | .ep0 => 20 | .ep1 => 21 | .ep2 => 22 | .ep3 => 23 | .lsrq => 24 | .cb7 => 25 | .cb15 => 26 | .tmzli => 27
  | .fixi => 28 | .fltoi => 29 | .fltui => 30 | .fltii => 31 | .sft0 => 32 | .sft1 => 33 | .sft2 => 34 | .sft3 => 35

/-- A link port interrupt: its number. -/
def Irq.link : Irq → Option Nat
  | .lp0 => some 0 | .lp1 => some 1 | .lp2 => some 2 | .lp3 => some 3 | .lp4 => some 4 | .lp5 => some 5
  | _ => none

/-- The latch bit in IRPTL of an interrupt that is not a link port's (60_exceptions.md R601). -/
def Irq.bit (k : Irq) : Nat := if k.pos ≤ 13 then k.pos else k.pos - 5

/-- The interrupts whose entry pushes the status stack (10_state.md R32). -/
def Irq.pushes : Irq → Bool
  | .irq2 | .irq1 | .irq0 | .tmzhi | .tmzli | .virpti => true
  | _ => false

/-- The request is latched (60_exceptions.md R618, `Pending`). -/
def State.latched (s : State) (k : Irq) : Bool :=
  match k.link with
  | some n => s.reg.lirptl.getLsbD n
  | none => s.reg.irptl.getLsbD k.bit

/-- The interrupt is being served (60_exceptions.md R603, `InService`). -/
def State.inService (s : State) (k : Irq) : Bool :=
  match k.link with
  | some n => s.reg.lirptl.getLsbD (24 + n)
  | none => s.reg.imaskp.getLsbD k.bit

/-- The latch bit set or cleared. -/
def State.setLatch (s : State) (k : Irq) (b : Bool) : State :=
  match k.link with
  | some n => { s with reg := { s.reg with lirptl := putBits s.reg.lirptl (bitAt n true) (bitAt n b) } }
  | none => { s with reg := { s.reg with irptl := putBits s.reg.irptl (bitAt k.bit true) (bitAt k.bit b) } }

/-- The in-service bit set or cleared (60_exceptions.md R625). -/
def State.setService (s : State) (k : Irq) (b : Bool) : State :=
  match k.link with
  | some n => { s with reg := { s.reg with lirptl := putBits s.reg.lirptl (bitAt (24 + n) true) (bitAt (24 + n) b) } }
  | none => { s with reg := { s.reg with imaskp := putBits s.reg.imaskp (bitAt k.bit true) (bitAt k.bit b) } }

/-- `Occur(k)`: the request is latched, unless its routine runs with nesting off (60_exceptions.md R603). -/
def State.occur (s : State) (k : Irq) : State :=
  if s.inService k && !nestm s.reg.mode1 then s else s.setLatch k true

/-- `Occur(k)` if `b`. -/
def State.occurIf (s : State) (b : Bool) (k : Irq) : State := if b then s.occur k else s

/-- The latch bits that the hold of 60_exceptions.md R603 clears: those of interrupts in service with nesting off. -/
def SysRegs.hold (r : SysRegs) : SysRegs :=
  if nestm r.mode1 then r
  else { r with irptl := r.irptl &&& ~~~r.imaskp, lirptl := r.lirptl &&& ~~~((r.lirptl >>> 24) &&& 0x3F#32) }

/-- LPISUMI, the summary in IRPTL[14] (60_exceptions.md R610). -/
def lpisumi (lirptl : W32) : Bool := lirptl &&& (lirptl >>> 16) &&& 0x3F#32 != 0

/-- The interrupt being served with the highest priority (60_exceptions.md R625). -/
def State.serving (s : State) : Option Irq := Irq.all.find? s.inService

/-- The interrupt that ends the boot load (70_reset_and_hazards.md R784). -/
def bootIrq : BootMode → Option Irq
  | .eprom => some .ep0
  | .host => some .ep0
  | .link => some .lp4
  | .noboot => none

/-- The mask registers as the selection sees them. -/
structure Masks where
  mode1 : W32
  imask : W32
  lirptl : W32
deriving DecidableEq, Repr

/-- The interrupt is not masked (60_exceptions.md R618, `Unmasked`). -/
def Masks.unmasked (m : Masks) (k : Irq) : Bool :=
  match k.link with
  | some n => m.lirptl.getLsbD (16 + n) && m.imask.getLsbD 14
  | none => m.imask.getLsbD k.bit

/-- Nesting admits the interrupt (60_exceptions.md R618, `NestOK`). -/
def State.nestOk (s : State) (mode1 : W32) (k : Irq) : Bool :=
  match s.serving with
  | none => true
  | some t => nestm mode1 && k.pos < t.pos

/-- The interrupt is globally enabled; the boot interrupt is while the machine boots (70_reset_and_hazards.md R784). -/
def State.globalOn (s : State) (mode1 : W32) (k : Irq) : Bool :=
  irpten mode1 || (s.seq.booting && bootIrq s.pins.boot == some k)

/-- `Select`: the pending and enabled interrupt of highest priority (60_exceptions.md R618). -/
def State.select (s : State) (m : Masks) : Option Irq :=
  Irq.all.find? fun k => s.latched k && m.unmasked k && s.nestOk m.mode1 k && s.globalOn m.mode1 k

/-! ### The stacks -/

/-- Stack-state bits of STKYx set by a push or pop (41_program_flow.md R307). -/
def State.stackState (s : State) (mask v : W32) : State :=
  { s with reg := { s.reg with stkyx := putBits s.reg.stkyx mask v }, stackBits := s.stackBits &&& ~~~mask }

/-- Sticky bits of STKYx that hardware sets outside the computation units. -/
def State.stkyxOr (s : State) (v : W32) : State := { s with reg := { s.reg with stkyx := s.reg.stkyx ||| v } }

/-- The top of the PC stack; with no entry, a free value (log 12). -/
def State.topPc (s : State) : W24 :=
  if s.seq.pcstkp = 0 ∨ s.seq.pcstkp = 31 then (s.free 12).setWidth 24
  else s.seq.pcStack[s.seq.pcstkp.toNat - 1]?.getD 0

/-- STKYx.PCEM and PCFL for a stack pointer. -/
def pcFlags (p : BitVec 5) : W32 := bitAt 22 (p == 0) ||| bitAt 21 (p == 30)

/-- Push the PC stack (41_program_flow.md R307). -/
def State.pushPc (s : State) (v : W24) : State :=
  let full := s.seq.pcstkp.toNat ≥ 30
  let p := if full then 31 else s.seq.pcstkp + 1
  let q := if full then { s.seq with pcstkp := p, stackOverflow := true }
           else { s.seq with pcstkp := p, pcStack := s.seq.pcStack.setIfInBounds s.seq.pcstkp.toNat v }
  (({ s with seq := q }).stackState 0x00600000 (pcFlags p)).occurIf (p.toNat ≥ 29) .sovfi

/-- Pop the PC stack (41_program_flow.md R307). -/
def State.popPc (s : State) : Run State := do
  need (!s.seq.stackOverflow) .stackOverflowState
  need (s.seq.pcstkp != 0) .stackUnderflow
  let p := s.seq.pcstkp - 1
  .ok (({ s with seq := { s.seq with pcstkp := p } }).stackState 0x00600000 (bitAt 22 (p == 0)))

/-- LADDR: the top of the loop address stack (10_state.md R31). -/
def State.laddr (s : State) : W32 :=
  if s.seq.loopDepth = 0 then 0xFFFFFFFF else s.seq.loopAddr[s.seq.loopDepth - 1]?.getD 0

/-- CURLCNTR: the top of the loop counter stack (10_state.md R31). -/
def State.curlcntr (s : State) : W32 :=
  if s.seq.loopDepth = 0 then 0xFFFFFFFF else s.seq.loopCount[s.seq.loopDepth - 1]?.getD 0

/-- LCNTR: the location above the top of the loop counter stack (10_state.md R31). -/
def State.lcntr (s : State) : W32 := s.seq.loopCount[s.seq.loopDepth]?.getD 0

/-- The count of the location `n` of the loop counter stack replaced. -/
def State.setCount (s : State) (n : Nat) (v : W32) : State :=
  { s with seq := { s.seq with loopCount := s.seq.loopCount.setIfInBounds n v } }

/-- `LA.end` of the active loop. -/
def State.loopEnd (s : State) : W24 := s.laddr.extractLsb' 0 24
/-- `LA.term` of the active loop. -/
def State.loopTerm (s : State) : BitVec 5 := s.laddr.extractLsb' 24 5
/-- `LA.type` of the active loop. -/
def State.loopType (s : State) : BitVec 2 := s.laddr.extractLsb' 30 2
/-- A loop is active. -/
def State.looping (s : State) : Bool := s.seq.loopDepth != 0

/-- Push both loop stacks; the location above the new top then holds a free value (41_program_flow.md R307,
43_misc.md R384). -/
def State.pushLoop (s : State) (a c : W32) : State :=
  let d := s.seq.loopDepth
  if d ≥ 6 then
    ((({ s with seq := { s.seq with stackOverflow := true } }).stkyxOr 0x02000000).stackState 0x04000000 0).occur .sovfi
  else
    (({ s with seq := { s.seq with
          loopDepth := d + 1
          loopAddr := s.seq.loopAddr.setIfInBounds d a
          loopCount := (s.seq.loopCount.setIfInBounds d c).setIfInBounds (d + 1) (s.free 8) } }).stackState 0x04000000 0)

/-- Pop both loop stacks (41_program_flow.md R307). -/
def State.popLoop (s : State) : Run State := do
  need (!s.seq.stackOverflow) .stackOverflowState
  need s.looping .stackUnderflow
  let d := s.seq.loopDepth - 1
  .ok (({ s with seq := { s.seq with loopDepth := d } }).stackState 0x04000000 (bitAt 26 (d == 0)))

/-- Push the status stack, then clear the MODE1 bits of `mmask` (10_state.md R32, R35). -/
def State.pushSts (s : State) (mmask : W32) : State :=
  let e : StatusEntry := ⟨s.reg.astatx, s.reg.astaty, s.reg.mode1⟩
  let t :=
    if s.seq.statusStack.length ≥ 15 then
      (({ s with seq := { s.seq with stackOverflow := true } }).stkyxOr 0x00800000).occur .sovfi
    else { s with seq := { s.seq with statusStack := e :: s.seq.statusStack } }
  let u := t.stackState 0x01000000 0
  { u with reg := { u.reg with mode1 := u.reg.mode1 &&& ~~~mmask } }

/-- ASTATx, or ASTATy when `y`, without the flags that the compute of this instruction put there: what a write that drops
them is held against (44_alu_fixed.md R403, 45_alu_float.md R444). -/
def State.astatBase (s : State) (y : Bool) : W32 :=
  if y then s.reg.astaty ^^^ s.recent.astaty else s.reg.astatx ^^^ s.recent.astatx

/-- The bits of MODE1, ASTATx and ASTATy that differ from `s` count as changed by a program write
(70_reset_and_hazards.md R800); the flags of a compute of the same instruction are dropped. -/
def State.noteStatus (t s : State) : State :=
  { t with
    changed := { t.changed with
      mode1 := t.changed.mode1 ||| (s.reg.mode1 ^^^ t.reg.mode1)
      astatx := t.changed.astatx ||| (s.astatBase false ^^^ t.reg.astatx)
      astaty := t.changed.astaty ||| (s.astatBase true ^^^ t.reg.astaty) }
    recent := { t.recent with astatx := 0, astaty := 0 } }

/-- Pop the status stack into ASTATx, ASTATy and MODE1 (10_state.md R32, 43_misc.md R387). -/
def State.popSts (s : State) : Run State := do
  need (!s.seq.stackOverflow) .stackOverflowState
  match s.seq.statusStack with
  | [] => .error (.fault .stackUnderflow)
  | e :: rest =>
    let t := { s with
      seq := { s.seq with statusStack := rest }
      reg := { s.reg with astatx := e.astatx, astaty := e.astaty, mode1 := e.mode1 } }
    .ok ((t.stackState 0x01000000 (bitAt 24 rest.isEmpty)).noteStatus s)

/-! ### Taking an interrupt and leaving it -/

/-- The base of the vector table (60_exceptions.md R606). -/
def State.ivtBase (s : State) : W24 :=
  if s.pins.boot != .noboot || s.iop.syscon.getLsbD 2 then 0x040000 else 0x800000

/-- The vector of an interrupt (60_exceptions.md R605). -/
def State.vector (s : State) (k : Irq) : W24 :=
  if k == .virpti then s.iop.virpt.extractLsb' 0 24 else s.ivtBase + BitVec.ofNat 24 (4 * k.pos)

/-- The flow window at `p`, `d`, `f` with no word from the cache. -/
def Sequencer.setWindow (q : Sequencer) (p d f : W24) : Sequencer :=
  { q with pc := p, daddr := d, faddr := f, cachedPc := none, cachedDaddr := none, cachedFaddr := none }

/-- TAKING AN INTERRUPT, `Enter(k)` (60_exceptions.md R605): the latch bit is cleared and the in-service bit set; PC is
pushed; the interrupts that push the status stack save ASTATx, ASTATy and MODE1 and clear the MODE1 bits of `mmask`; and
the window goes to the vector. The latch bit is cleared first, so that with nesting on a stack overflow in the entry of SOVFI
is latched again (R612, log 59). -/
def State.enter (s : State) (k : Irq) (mmask : W32) : State :=
  let r := (s.setLatch k false).setService k true
  let t := r.pushPc s.seq.pc
  let u := if k.pushes then t.pushSts mmask else t
  let v := s.vector k
  { u with seq := { u.seq.setWindow v (v + 1) (v + 2) with
      dbSlots := 0, idle := false, booting := false, prevKind := .entry } }

/-- LEAVING AN INTERRUPT, the part RTI and JUMP (CI) share (41_program_flow.md R305, R316): the in-service bit of
highest priority is cleared, the status stack popped if that interrupt pushed it, and VIPD cleared for VIRPTI. With
nothing in service nothing happens (D16). -/
def State.leave (s : State) : Run State :=
  match s.serving with
  | none => .ok s
  | some k => do
    let t ← if k.pushes then s.popSts else .ok s
    let u := t.setService k false
    .ok (if k == .virpti then { u with iop := { u.iop with vipd := false } } else u)

/-! ### Conditions -/

/-- This DSP is bus master (10_state.md R105). -/
def State.master (s : State) : Bool := !s.iop.hstm && s.iop.crbm == (if s.pins.id = 0 then 1 else s.pins.id)

/-- This DSP may use the external bus: it is master, synchronised, and not giving the bus up; a bus lock holds it
(62_link_serial_multiproc.md R760, R762, R764, R765). -/
def State.busMine (s : State) : Bool := s.master && s.iop.bsyn && (!s.iop.yielding || s.reg.mode2.getLsbD 6)

/-- What conditions read apart from ASTAT. -/
def State.condIn (s : State) : CondIn :=
  { mode1 := s.reg.mode1, flags := s.reg.flags, bm := testBm s.reg.mode1 s.iop.crbm s.pins.id s.iop.hstm,
    curlcntr := s.curlcntr }

/-- SIMD mode. -/
def State.simd (s : State) : Bool := peyen s.reg.mode1

/-- `cond(x, c)` or `cond(y, c)` of an IF (30_encoding.md R230). -/
def State.cond (s : State) (y : Bool) (c : Cond) : Bool := evalIf s.condIn (s.astat y) c

/-- Both elements' conditions in SIMD mode, PEx's in SISD mode: what a branch takes (30_encoding.md R230 (b)). -/
def State.condBoth (s : State) (c : Cond) : Bool := s.cond false c && (!s.simd || s.cond true c)

/-- Either element's condition in SIMD mode, PEx's in SISD mode: what an index update takes (30_encoding.md R230 (e)). -/
def State.condAny (s : State) (c : Cond) : Bool := s.cond false c || (s.simd && s.cond true c)

/-- The termination condition of a loop (30_encoding.md R230 (b)). -/
def State.untilBoth (s : State) (c : Cond) : Bool :=
  evalUntil s.condIn s.reg.astatx c && (!s.simd || evalUntil s.condIn s.reg.astaty c)

/-- The ASTAT bits a test reads (30_encoding.md R231). -/
def testAstat : Test → W32
  | .eq => 0x1 | .lt => 0x407 | .le => 0x407 | .ac => 0x8 | .av => 0x2 | .mv => 0x80 | .ms => 0x40 | .sv => 0x800
  | .sz => 0x1000 | .flag _ => 0 | .tf => 0x40000 | .bm => 0

/-- The MODE1 bits a test reads: ALUSAT, CSEL, and PEYEN in every case (70_reset_and_hazards.md R800). -/
def testMode1 : Test → W32
  | .lt => 0x202000 | .le => 0x202000 | .bm => 0x260000 | _ => 0x200000

/-- The FLAGS bits a test reads. -/
def testFlags : Test → W32
  | .flag n => bitAt n.toNat true
  | _ => 0

/-- MODE1 bits must not have been changed by the instruction before (70_reset_and_hazards.md R800). -/
def State.useMode1 (s : State) (mask : W32) : Run Unit := need (s.changed.mode1 &&& mask == 0) .latencyHazard

/-- A test must not read a bit that the instruction before changed (70_reset_and_hazards.md R800, D20). -/
def State.testReady (s : State) (t : Test) : Run Unit := do
  s.useMode1 (testMode1 t)
  need (s.changed.flags &&& testFlags t == 0) .latencyHazard
  need (s.changed.astatx &&& testAstat t == 0) .latencyHazard
  need (!s.simd || s.changed.astaty &&& testAstat t == 0) .latencyHazard
  need (!(s.recent.btf && t == .tf)) .latencyHazard

/-! ### Short loops -/

/-- The length of the active loop if it has type 00 (41_program_flow.md R332, R333). -/
def State.loopLength (s : State) : W24 := s.loopEnd - s.topPc + 1

/-- The address is one of the instructions of these last passes, with the PC stack as their exit left it. -/
def LastPass.covers (p : LastPass) (depth : BitVec 5) (pc : W24) : Bool :=
  p.depth == depth && (pc == p.first || pc == p.last)

/-- PC is in a loop of one or two instructions, the passes after its exit test among them (41_program_flow.md R332,
R333). -/
def State.inShortLoop (s : State) : Bool :=
  s.seq.lastPasses.any (·.covers s.seq.pcstkp s.seq.pc) ||
  s.looping &&
    (match s.loopType with
     | 1 => s.seq.pc == s.loopEnd
     | 2 => s.seq.pc == s.loopEnd || s.seq.pc == s.loopEnd - 1
     | 3 => false
     | _ => (s.loopLength == 1 && s.seq.pc == s.loopEnd) ||
            (s.loopLength == 2 && (s.seq.pc == s.loopEnd || s.seq.pc == s.loopEnd - 1)))

/-- The condition of an IF may be evaluated: the latencies, and NOT LCE (30_encoding.md R234, U14, U17). -/
def State.condReady (s : State) (c : Cond) : Run Unit :=
  match c with
  | .always => .ok ()
  | .lce => do
    s.useMode1 0x200000
    need (!s.recent.curlcntr) .loopCounterHazard
    need (!s.inShortLoop) .shortLoopStackAccess
  | .is t => s.testReady t
  | .isNot t => s.testReady t

/-! ### The flow window -/

/-- The condition a termination code stands for (30_encoding.md R231). -/
def condOfCode (n : BitVec 5) : Cond :=
  let low : Option Test :=
    match (n.extractLsb' 0 4).toNat with
    | 0 => some .eq | 1 => some .lt | 2 => some .le | 3 => some .ac | 4 => some .av | 5 => some .mv | 6 => some .ms
    | 7 => some .sv | 8 => some .sz | 9 => some (.flag 0) | 10 => some (.flag 1) | 11 => some (.flag 2)
    | 12 => some (.flag 3) | 13 => some .tf | 14 => some .bm | _ => none
  match low, n.getLsbD 4 with
  | some t, false => .is t
  | some t, true => .isNot t
  | none, false => .lce
  | none, true => .always

/-- What the loop mechanism does in this step (41_program_flow.md R330, R332). -/
inductive LoopAct where
  /-- nothing is tested -/
  | none
  /-- the test of a loop that goes on, at `FADDR = LA.end`; `count` when the counter is decremented -/
  | again (count : Bool)
  /-- the test of a loop that ends -/
  | expired
  /-- the last instruction of a short counter loop that goes on -/
  | shortAgain
  /-- the last instruction of a short counter loop that ends -/
  | shortExpired
deriving DecidableEq, Repr

/-- The instruction at PC is a delay slot of a return: the window goes on as `Entry` of its target, whose loop test was
made before the call or the interrupt (41_program_flow.md R301, R306, R337). -/
def State.returning (s : State) : Bool := s.seq.dbReturn && s.seq.dbSlots != 0

/-- A condition-based test or a counter test is due at `FADDR = LA.end` (41_program_flow.md R330). -/
def State.testDue (s : State) : Bool :=
  s.looping && (s.loopType == 0 || s.loopType == 3) && s.seq.faddr == s.loopEnd && !s.returning

/-- The decision of the loop mechanism, on the state at the start of the step (41_program_flow.md R330, R332). -/
def State.loopAct (s : State) : LoopAct :=
  if s.testDue then
    match condOfCode s.loopTerm with
    | .lce => if s.curlcntr == 1 then .expired else .again true
    | c => if s.untilBoth c then .expired else .again false
  else if s.looping && (s.loopType == 1 || s.loopType == 2) && s.seq.pc == s.loopEnd then
    if s.curlcntr == 1 then .shortExpired else .shortAgain
  else .none

/-- `follow(a)` (41_program_flow.md R301). -/
def State.follow (s : State) (a : W24) : W24 := if s.looping && s.loopEnd == a then s.topPc else a + 1

/-- `NextFetch()`: the address fetched next (41_program_flow.md R330). -/
def State.nextFetch (s : State) : W24 :=
  match s.loopAct with
  | .again _ => s.topPc
  | _ => if s.returning then s.follow s.seq.faddr else s.seq.faddr + 1

/-- The loop mechanism may do its work: the latencies of the termination test, and no loop end right after a write of PCSTKP,
which pops the PC stack or reads its top (10_state.md R30, 70_reset_and_hazards.md R800). -/
def State.loopReady (s : State) : Run Unit :=
  match s.loopAct with
  | .none => .ok ()
  | _ => do
    need (!s.recent.pcstkp) .latencyHazard
    if s.testDue then
      match condOfCode s.loopTerm with
      | .is t => s.testReady t
      | .isNot t => s.testReady t
      | _ => .ok ()
    else .ok ()

/-- The next two instructions, which are fetched already: those of the decode and fetch stages, but near the end of a
counter-based loop of one or two instructions the ones behind the loop (41_program_flow.md R332, Table 3-11; 20_memory.md
R185). -/
def State.upcoming (s : State) : W24 × W24 :=
  let e := s.loopEnd
  if s.loopAct == .shortExpired then (e + 1, e + 2)
  else if s.looping && ((s.loopType == 1 && s.seq.pc == e && s.curlcntr == 2) ||
      (s.loopType == 2 && s.seq.pc == e - 1 && s.curlcntr == 1)) then (e, e + 1)
  else (s.seq.daddr, s.seq.faddr)

/-- A condition-based loop of one or two instructions that ends here still has passes to go (41_program_flow.md R333). -/
def State.noteExit (s t : State) : State :=
  if s.testDue && s.loopType == 0 && (s.loopLength == 1 || s.loopLength == 2) then
    { t with seq := { t.seq with lastPasses := ⟨s.topPc, s.loopEnd, t.seq.pcstkp⟩ :: t.seq.lastPasses } }
  else t

/-- The end of a loop: both loop stacks and the PC stack popped; LCNTR then reads 0 or 1 if the loop was counter-based
(41_program_flow.md R330, U21). -/
def State.endLoop (s t : State) : Run State := do
  let u ← t.popLoop
  let v ← u.popPc
  .ok (s.noteExit (if condOfCode s.loopTerm == .lce then v.setCount v.seq.loopDepth (s.free 9 &&& 1) else v))

/-- The counter is decremented or the stacks popped on the state `t` (41_program_flow.md R330, R332). -/
def State.loopStep (s t : State) : Run State :=
  match s.loopAct with
  | .none => .ok t
  | .again true => .ok (t.setCount (t.seq.loopDepth - 1) (t.curlcntr - 1))
  | .again false => .ok t
  | .shortAgain => .ok (t.setCount (t.seq.loopDepth - 1) (t.curlcntr - 1))
  | .expired => s.endLoop t
  | .shortExpired => s.endLoop t

/-- Steps 3 and 4 of 41_program_flow.md R300: the state an instruction writes its results to, with the loop test made and
the loop's own stack operations done before any of them. -/
def State.begin (s : State) : Run State := do
  s.loopReady
  s.loopStep s.start

/-- What an instruction asks of the window (41_program_flow.md R300 step 6). -/
inductive Flow where
  /-- go on -/
  | next
  /-- a taken branch without (DB) -/
  | jump (t : W24)
  /-- a taken branch with (DB), `ret` for a return -/
  | delayed (t : W24) (ret : Bool)
  /-- DO UNTIL with the window of 41_program_flow.md R322 -/
  | doLoop (d f : W24)
deriving DecidableEq, Repr

/-- The window one place on, with `f` as the new fetch address. -/
def Sequencer.shift (q : Sequencer) (f : W24) : Sequencer :=
  { q with pc := q.daddr, daddr := q.faddr, faddr := f, cachedPc := q.cachedDaddr, cachedDaddr := q.cachedFaddr,
           cachedFaddr := none }

/-- One delay slot fewer. -/
def Sequencer.slot (q : Sequencer) : Sequencer := { q with dbSlots := q.dbSlots - 1 }

/-- The last passes that go on at the new PC: those whose PC stack entry is still above, and the ones PC is in
(41_program_flow.md R333). -/
def Sequencer.keepPasses (q : Sequencer) : Sequencer :=
  { q with lastPasses := q.lastPasses.filter fun p => p.depth < q.pcstkp || p.covers q.pcstkp q.pc }

/-- The window after an instruction that asks nothing, on its sequencer `q`: one place on, or round or out of a short counter
loop (41_program_flow.md R300, R332). -/
def State.goOn (s : State) (nf : W24) (q : Sequencer) : Sequencer :=
  let e := s.loopEnd
  match s.loopAct with
  | .shortExpired => { q.shift (e + 3) with pc := e + 1, daddr := e + 2 }
  | .shortAgain => { q.shift s.topPc with pc := s.topPc, daddr := if s.loopType == 1 then s.topPc else e }
  | _ => q.shift nf

/-- Going on would increment past the last address (41_program_flow.md R300, U12): from 0xFFFFFF to 0, or out of a short
counter loop that ends there. -/
def State.wrapsPc (s : State) : Bool :=
  match s.loopAct with
  | .shortExpired => s.loopEnd == 0xFFFFFF
  | .shortAgain => false
  | _ => s.seq.pc == 0xFFFFFF && s.seq.daddr == 0

/-- The new window (41_program_flow.md R300 step 6, R301, R332). `s` is the state at the start of the step, `t` the
written state with every stack operation done. After a taken branch without (DB) nothing counts as changed
(70_reset_and_hazards.md R800). -/
def State.window (s : State) (nf : W24) (fl : Flow) (t : State) : Run State :=
  let q := { t.seq with prevKind := .other }.slot
  match fl with
  | .jump a =>
    .ok { t with
      changed := Changed.none
      seq := { q.setWindow a (t.follow a) (t.follow (t.follow a)) with prevKind := .branch }.keepPasses }
  | .delayed a ret => do
    need (!(s.seq.pc == 0xFFFFFF && s.seq.daddr == 0)) .pcWrap
    .ok { t with seq := { q.shift a with dbSlots := 2, dbReturn := ret }.keepPasses }
  | .doLoop d f => do
    need (s.seq.pc != 0xFFFFFF) .pcWrap
    let r := q.shift f
    .ok { t with seq := { r with
            pc := s.seq.pc + 1
            daddr := d
            cachedPc := if q.daddr == s.seq.pc + 1 then r.cachedPc else none
            cachedDaddr := if q.faddr == d then r.cachedDaddr else none }.keepPasses }
  | .next => do
    need (!s.wrapsPc) .pcWrap
    .ok { t with seq := (s.goOn nf q).keepPasses }

/-- Steps 5 and 6 of 41_program_flow.md R300: what the instruction asks of the stacks and the window, on the state `t` that
holds its other writes. `ask` is given the address fetched next. -/
def State.flow (s t : State) (ask : W24 → State → Run (State × Flow)) : Run State := do
  let (v, fl) ← ask s.nextFetch t
  s.window s.nextFetch fl v

/-- An instruction that asks nothing of the sequencer. -/
def State.advance (s t : State) : Run State := s.flow t (fun _ u => .ok (u, .next))

/-! ### Where an instruction may stand -/

/-- The active loop is condition-based and one instruction long. -/
def State.oneConditional (s : State) : Bool := s.loopType == 0 && s.loopLength == 1

/-- The end-of-loop rule for branches; `call` is a CALL without (DB) (41_program_flow.md R334, D18). -/
def State.branchPlace (s : State) (call : Bool) : Run Unit :=
  let e := s.loopEnd
  let p := s.seq.pc
  let near :=
    match s.loopType with
    | 1 => p == e
    | 2 => p == e || p == e - 1
    | _ => p == e || p == e - 1 || p == e - 2
  let excused := call && (s.loopType == 0 || s.loopType == 3) && !(s.oneConditional && p == e)
  need (!(s.looping && near && !excused)) .loopEndBranch

/-- The target of a JUMP or CALL is not among the last two instructions of the active loop (41_program_flow.md R301,
D15). -/
def State.entryAllowed (t : State) (a : W24) : Bool := !(t.looping && (t.loopEnd == a || t.loopEnd == a + 1))

/-- A stack operation of an instruction may be made: not in a delay slot (when `slots`), not in a short loop, not after an
overflow (41_program_flow.md R302, R307, R332). -/
def State.stackPlace (s : State) (slots : Bool) : Run Unit := do
  need (!(slots && s.seq.dbSlots != 0)) .delaySlotViolation
  need (!s.inShortLoop) .shortLoopStackAccess
  need (!s.seq.stackOverflow) .stackOverflowState

/-- The PC stack may be used: PCSTKP was not written by the instruction before (70_reset_and_hazards.md R800). -/
def State.pcStackReady (s : State) : Run Unit := need (!s.recent.pcstkp) .latencyHazard

end Sys2Proof.Machine
end

