-- ==== Sys2Proof/Machine/IopRegs.lean ====
section
/-!
DEFINITION. Machine/IopRegs.lean: the registers of the I/O processor, and what reading and writing each one does
(10_state.md R100 to R111, 61_io_devices.md R682 to R687, R720, 62_link_serial_multiproc.md R725 to R757).
-/
namespace Sys2Proof.Machine

/-! ### The register map -/

/-- The parameter registers of a DMA channel (61_io_devices.md R682). -/
inductive Param where
  | ii | im | c | cp | gp | da | db | ei | em | ec
deriving DecidableEq, Repr

/-- The registers of a serial port (10_state.md R101). -/
inductive SpReg where
  | stctl | srctl | tx | rx | tdiv | tcnt | rdiv | rcnt | mtcs | mrcs | mtccs | mrccs | keywd | keymask | spath | spcnt
deriving DecidableEq, Repr

/-- The registers of the I/O processor (10_state.md R101). -/
inductive IopReg where
  | syscon | virpt | wait | systat | epb (n : Fin 4) | msgr (n : Fin 8) | pcShdw | mode2Shdw | bmax | bcnt | elast
  | dmac (n : Fin 4) | dmastat | param (c : Fin 14) (p : Param) | emu (n : Fin 20)
  | lbuf (b : Fin 6) | lctl0 | lctl1 | lcom | lar | lsrq | mesh (n : Fin 6) | sp (x : Fin 2) (r : SpReg)
deriving DecidableEq, Repr

/-- The parameter register at place `k` of a channel's block (10_state.md R101). -/
def paramAt (ext : Bool) : Nat → Option Param
  | 0 => some .ii | 1 => some .im | 2 => some .c | 3 => some .cp | 4 => some .gp
  | 5 => some (if ext then .ei else .db)
  | 6 => some (if ext then .em else .da)
  | 7 => if ext then some .ec else none
  | _ => none

/-- The serial port register at place `k` of a port's block (10_state.md R101). -/
def spAt : Nat → SpReg
  | 0 => .stctl | 1 => .srctl | 2 => .tx | 3 => .rx | 4 => .tdiv | 5 => .tcnt | 6 => .rdiv | 7 => .rcnt
  | 8 => .mtcs | 9 => .mrcs | 10 => .mtccs | 11 => .mrccs | 12 => .keywd | 13 => .keymask | 14 => .spath | _ => .spcnt

/-- The channel whose parameter block holds address `a` of 0x30 to 0x9F, with the block's first address. -/
def blockAt (a : Nat) : Option (Fin 14 × Nat) :=
  if 0x30 ≤ a ∧ a < 0x38 then some (4, 0x30)
  else if 0x38 ≤ a ∧ a < 0x40 then some (5, 0x38)
  else if 0x40 ≤ a ∧ a < 0x60 then some (Fin.ofNat 14 (10 + (a - 0x40) / 8), 0x40 + (a - 0x40) / 8 * 8)
  else if 0x60 ≤ a ∧ a < 0x80 then some (Fin.ofNat 14 ((a - 0x60) / 8), 0x60 + (a - 0x60) / 8 * 8)
  else if 0x80 ≤ a ∧ a < 0xA0 then some (Fin.ofNat 14 (6 + (a - 0x80) / 8), 0x80 + (a - 0x80) / 8 * 8)
  else none

/-- The register at an address, or nothing at a reserved one (10_state.md R101). -/
def iopReg (addr : BitVec 8) : Option IopReg :=
  let a := addr.toNat
  if a = 0x00 then some .syscon else if a = 0x01 then some .virpt else if a = 0x02 then some .wait
  else if a = 0x03 then some .systat
  else if a < 0x08 then some (.epb (Fin.ofNat 4 ((a - 4) / 2)))
  else if a < 0x10 then some (.msgr (Fin.ofNat 8 (a - 8)))
  else if a = 0x10 then some .pcShdw else if a = 0x11 then some .mode2Shdw
  else if 0x14 ≤ a ∧ a < 0x18 then some (.epb (Fin.ofNat 4 (2 + (a - 0x14) / 2)))
  else if a = 0x18 then some .bmax else if a = 0x19 then some .bcnt else if a = 0x1B then some .elast
  else if 0x1C ≤ a ∧ a < 0x20 then some (.dmac (Fin.ofNat 4 (a - 0x1C)))
  else if a = 0x37 then some .dmastat
  else if 0x30 ≤ a ∧ a < 0xA0 then
    match blockAt a with
    | some (c, b) => (paramAt (10 ≤ c.val) (a - b)).map (.param c)
    | none => none
  else if 0xA0 ≤ a ∧ a < 0xAF then some (.emu (Fin.ofNat 20 (a - 0xA0)))
  else if 0xB0 ≤ a ∧ a < 0xB4 then some (.emu (Fin.ofNat 20 (a - 0xA0)))
  else if 0xC0 ≤ a ∧ a < 0xCC then some (.lbuf (Fin.ofNat 6 ((a - 0xC0) / 2)))
  else if a = 0xCC then some .lctl0 else if a = 0xCD then some .lctl1 else if a = 0xCE then some .lcom
  else if a = 0xCF then some .lar else if a = 0xD0 then some .lsrq
  else if 0xD1 ≤ a ∧ a < 0xD7 then some (.mesh (Fin.ofNat 6 (a - 0xD1)))
  else if 0xE0 ≤ a then some (.sp (Fin.ofNat 2 ((a - 0xE0) / 16)) (spAt ((a - 0xE0) % 16)))
  else none

/-! ### Updates -/

/-- The I/O processor updated. -/
def State.mapIop (s : State) (f : Iop → Iop) : State := { s with iop := f s.iop }
/-- One channel updated. -/
def State.mapChan (s : State) (c : Fin 14) (f : Channel → Channel) : State :=
  { s with iop := { s.iop with chan := s.iop.chan.set c.val (f s.iop.chan[c]) c.isLt } }
/-- One serial port updated. -/
def State.mapSport (s : State) (x : Fin 2) (f : Sport → Sport) : State :=
  { s with iop := { s.iop with sport := s.iop.sport.set x.val (f s.iop.sport[x]) x.isLt } }

/-! ### What the channels' control bits say -/

/-- The machine boots through link buffer `b`, whatever LCTL1, LCOM and LAR hold (70_reset_and_hazards.md R783, D59; what
writes of them do meanwhile, and that the buffer keeps its words when booting ends, is DEDUCED, log 84). -/
def State.linkBoot (s : State) (b : Fin 6) : Bool := s.seq.booting && s.pins.boot == .link && b == 4

/-- The ten control bits of link buffer `b` while its control register holds `v`; one that boots the machine is a 48-bit
receive buffer under DMA (62_link_serial_multiproc.md R726, 70_reset_and_hazards.md R783). -/
def State.groupOf (s : State) (b : Fin 6) (v : W32) : BitVec 10 :=
  if s.linkBoot b then 0x13 else v.extractLsb' (10 * (b.val % 3)) 10

/-- The ten control bits of link buffer `b` (62_link_serial_multiproc.md R726). -/
def State.linkGroup (s : State) (b : Fin 6) : BitVec 10 := s.groupOf b (if b.val < 3 then s.iop.lctl0 else s.iop.lctl1)

/-- The port of link buffer `b`; 7 when it has none (62_link_serial_multiproc.md R725). The boot data arrives on port 4
(70_reset_and_hazards.md R783). -/
def State.linkPort (s : State) (b : Fin 6) : BitVec 3 := if s.linkBoot b then 4 else s.iop.lar.extractLsb' (3 * b.val) 3

/-- The transmit side of serial port `x` runs (62_link_serial_multiproc.md R742, D55). -/
def Sport.txOn (p : Sport) : Bool := p.stctl.getLsbD 0 || p.srctl.getLsbD 23
/-- The receive side runs. -/
def Sport.rxOn (p : Sport) : Bool := p.srctl.getLsbD 0 || p.srctl.getLsbD 23

/-- What a channel's control register selects (61_io_devices.md R681, R684). -/
structure Ctl where
  /-- the buffer is enabled -/
  en : Bool
  den : Bool
  chen : Bool
  tran : Bool
  twoD : Bool
  word48 : Bool
deriving DecidableEq, Repr

/-- `Enabled(c)` (61_io_devices.md R684). -/
def Ctl.on (k : Ctl) : Bool := k.den || k.chen

/-- EHM, the handshake mode (61_io_devices.md R685). -/
def State.ehm (s : State) (n : Fin 4) : BitVec 3 :=
  let d := s.iop.dmac[n]
  d.extractLsb' 13 1 ++ d.extractLsb' 11 1 ++ d.extractLsb' 10 1

/-- The channel of EPBn. -/
def epChan (n : Fin 4) : Fin 14 := Fin.ofNat 14 (10 + n.val)

/-- With SYSCON.BSO = 1 boot memory stands in the place of ordinary external memory for this channel's transfers
(61_io_devices.md R697). -/
def State.bootSelected (s : State) (n : Fin 4) : Bool :=
  s.iop.syscon.getLsbD 1 && target s.pins.id s.iop.chan[epChan n].ei == .ext

/-- The channel reads boot memory: channel 10, receiving in a master mode (61_io_devices.md R691, R692, R697). -/
def State.readsBoot (s : State) (n : Fin 4) : Bool :=
  n == 0 && !s.iop.dmac[n].getLsbD 2 && (s.ehm n == 1 || s.ehm n == 3) && s.bootSelected n

/-- The external port channel of DMACx number `n` moves 48-bit words (61_io_devices.md R690, R697). -/
def State.epWord48 (s : State) (n : Fin 4) : Bool :=
  let d := s.iop.dmac[n]
  let pm := d.extractLsb' 6 3
  (d.getLsbD 5 && pm == 0) || pm == 2 || pm == 3 || s.readsBoot n

/-- The control bits of a channel. -/
def State.ctl (s : State) (c : Fin 14) : Ctl :=
  if c.val < 2 then
    let p := s.iop.sport[Fin.ofNat 2 c.val]
    ⟨p.rxOn, p.srctl.getLsbD 18, p.srctl.getLsbD 19, false, p.srctl.getLsbD 21, false⟩
  else if c.val < 4 then
    let p := s.iop.sport[Fin.ofNat 2 c.val]
    ⟨p.txOn, p.stctl.getLsbD 18, p.stctl.getLsbD 19, true, Config.stx2dBit21 && p.stctl.getLsbD 21, false⟩
  else if c.val < 10 then
    let g := s.linkGroup (Fin.ofNat 6 (c.val - 4))
    ⟨g.getLsbD 0, g.getLsbD 1, g.getLsbD 2, g.getLsbD 3, g.getLsbD 7, g.getLsbD 4⟩
  else
    let n := Fin.ofNat 4 (c.val - 10)
    let d := s.iop.dmac[n]
    ⟨true, d.getLsbD 0, d.getLsbD 1, d.getLsbD 2, false, s.epWord48 n⟩

/-- How many words a channel's buffer holds (61_io_devices.md R720, 62_link_serial_multiproc.md R728, R745, R746). -/
def capacity (c : Fin 14) : Nat := if c.val < 10 then 2 else 8

/-- The channel of LBUFb. -/
def lkChan (b : Fin 6) : Fin 14 := Fin.ofNat 14 (4 + b.val)
/-- The channel of RXx. -/
def rxChan (x : Fin 2) : Fin 14 := Fin.ofNat 14 x.val
/-- The channel of TXx. -/
def txChan (x : Fin 2) : Fin 14 := Fin.ofNat 14 (2 + x.val)

/-- The interrupt of a channel (61_io_devices.md R681). -/
def chanIrq (c : Fin 14) : Irq :=
  match c.val with
  | 0 => .spr0 | 1 => .spr1 | 2 => .spt0 | 3 => .spt1
  | 4 => .lp0 | 5 => .lp1 | 6 => .lp2 | 7 => .lp3 | 8 => .lp4 | 9 => .lp5
  | 10 => .ep0 | 11 => .ep1 | 12 => .ep2 | _ => .ep3

/-! ### Buffers -/

/-- A word appended to a channel's buffer. -/
def State.enqueue (s : State) (c : Fin 14) (v : W64) : State := s.mapChan c fun h => { h with queue := h.queue ++ [v] }

/-- The oldest word taken from a channel's buffer. -/
def State.dequeue (s : State) (c : Fin 14) (v : W64) : State :=
  s.mapChan c fun h => { h with queue := h.queue.tail, last := v }

/-- The channel after the oldest `k` words have left its buffer; `last` is the one that left last (61_io_devices.md R720). -/
def Channel.leave (h : Channel) (k : Nat) : Channel :=
  { h with queue := h.queue.drop k, last := (h.queue.take k).getLast?.getD h.last }

/-- SYSCON.BHD: an access to a buffer that is not ready goes on. -/
def State.bhd (s : State) : Bool := s.iop.syscon.getLsbD 16

/-- A core write to a buffer: a full one holds the core, or with BHD = 1 its newest word is replaced
(61_io_devices.md R720, D48). DESIGN CHOICE (log 83): a buffer takes and gives words also while it is disabled, under DMA, or
set for the other direction. -/
def State.coreEnqueue (s : State) (c : Fin 14) (v : W64) : Run State :=
  let q := s.iop.chan[c].queue
  if q.length < capacity c then .ok (s.enqueue c v)
  else if s.bhd then .ok (s.mapChan c fun h => { h with queue := h.queue.dropLast ++ [v] })
  else .error .stall

/-- A core read of a buffer: an empty one holds the core, or with BHD = 1 repeats the last value (61_io_devices.md R720,
D48). -/
def State.coreDequeue (s : State) (c : Fin 14) : Run (W64 × State) :=
  match s.iop.chan[c].queue with
  | v :: _ => .ok (v, s.dequeue c v)
  | [] => if s.bhd then .ok (s.iop.chan[c].last, s) else .error .stall

/-- The 32 bits a 32-bit read takes of a queued word: all of a 32-bit word; of a longer one the spec does not say
(91_not_in_source.md N31), a free value. -/
def narrow (v : W64) (free : W32) : W32 := if v >>> 32 == 0 then v.setWidth 32 else free

/-! ### Companding (62_link_serial_multiproc.md R747, R748) -/

/-- A value above the maximum of a companding law counts as the maximum (62_link_serial_multiproc.md R748). -/
def atMost (v : W32) (m : Int) : W32 := if m < v.toInt then BitVec.ofInt 32 m else v

/-- The eight bits a value is compressed to, in A-law if `law`, else in mu-law; the maximum has 13 bits in A-law and 14 in
mu-law (62_link_serial_multiproc.md R748). -/
def compress (law : Bool) (v : W32) : BitVec 8 :=
  if law then Config.compressA (atMost v 4095) else Config.compressMu (atMost v 8191)

/-- The value that eight bits expand to, sign-extended (62_link_serial_multiproc.md R748). -/
def expand (law : Bool) (v : BitVec 8) : W32 :=
  if law then (Config.expandA v).signExtend 32 else (Config.expandMu v).signExtend 32

/-- The companding law of a control register outside multichannel mode: mu-law false, A-law true
(62_link_serial_multiproc.md R747). -/
def lawOf (ctl : W32) : Option Bool := if ctl.getLsbD 2 then some (ctl.getLsbD 1) else none

/-- The law by which TXx compands in place, without a transmission: while its side is disabled and companding selected
(62_link_serial_multiproc.md R748, R756; DEDUCED against R745 and U51, log 74). -/
def Sport.txInPlace (p : Sport) : Option Bool := if p.txOn then none else lawOf p.stctl

/-- The same of RXx (62_link_serial_multiproc.md R748, R756; DEDUCED against R745 and U51, log 74). -/
def Sport.rxInPlace (p : Sport) : Option Bool := if p.rxOn then none else lawOf p.srctl

/-! ### Reading -/

/-- Two status bits of a two-word buffer: 00 empty, 10 one word, 11 full (62_link_serial_multiproc.md R730, R745). -/
def fill2 (n : Nat) : BitVec 2 := if n = 0 then 0 else if n = 1 then 2 else 3

/-- FS of an external port buffer (61_io_devices.md R720). -/
def fillEp (tran : Bool) (n : Nat) : BitVec 2 :=
  if n = 0 then 0 else if n ≥ 8 then 3
  else if tran then (if n = 7 then 1 else 2) else (if n = 1 then 1 else 2)

/-- The stage of a packer that holds `k` pieces: when it packs, how many have come; when it unpacks (`out`), how many have
gone, of two in mode 001 and of three in modes 010 and 011 (61_io_devices.md R696, R707). -/
def stageOf (out : Bool) (mode : BitVec 3) (k : Nat) : BitVec 2 :=
  if k = 0 then 0
  else if out then (if k = 1 && mode != 1 then 2 else 1)
  else (if k = 1 then 1 else 2)

/-- PS of an external port buffer: PMODE 000 does not pack (61_io_devices.md R696). DESIGN CHOICE (log 101): where boot memory
is read, which packs whatever PMODE is (R697), PS is 01 after the first byte of a word and 10 after the later ones. -/
def State.packStage (s : State) (n : Fin 4) : BitVec 2 :=
  let d := s.iop.dmac[n]
  let mode := d.extractLsb' 6 3
  if mode == 0 && !s.readsBoot n then 0 else stageOf (d.getLsbD 2) mode s.iop.chan[epChan n].parts.length

/-- HPS, the stage of a host word on its way (10_state.md R105, 61_io_devices.md R707). -/
def State.hostStage (s : State) : BitVec 2 :=
  stageOf s.iop.hostReading (s.iop.syscon.extractLsb' 4 3) s.iop.hostParts.length

/-- SYSTAT.CRAT: the clock ratio (10_state.md R105). -/
def ClkCfg.ratio : ClkCfg → W32
  | .two => 2
  | .three => 3
  | .four => 4

/-- The identification field MODE2[31:25] (10_state.md R36, R110). -/
def Pins.idField (p : Pins) : W32 :=
  (1#2 ++ p.siliconRev ++ (if p.variantN then 4#3 else 1#3) ++ 0#25)

/-- Port `p` has no enabled buffer and is not disabled by loopback or over-assignment
(62_link_serial_multiproc.md R740). -/
def State.portIdle (s : State) (p : Nat) : Bool :=
  let bs := (List.finRange 6).filter fun b => s.linkPort b == BitVec.ofNat 3 p
  let on := bs.filter fun b => (s.linkGroup b).getLsbD 0
  on.isEmpty && bs.length ≤ 2

/-- LSRQ with its status bits (62_link_serial_multiproc.md R740). -/
def State.lsrqValue (s : State) : W32 :=
  (List.range 6).foldl (fun v p =>
    let idle := s.portIdle p
    v ||| bitAt (20 + 2 * p) (s.pins.ackIn.getLsbD p && s.iop.lsrq.getLsbD (4 + 2 * p) && idle)
      ||| bitAt (21 + 2 * p) (s.pins.clkIn.getLsbD p && s.iop.lsrq.getLsbD (5 + 2 * p) && idle)) s.iop.lsrq

/-- SYSTAT (10_state.md R105). -/
def State.systat (s : State) : W32 :=
  let i := s.iop
  bitAt 0 i.hstm ||| bitAt 1 i.bsyn ||| (i.crbm.setWidth 32 <<< 4) ||| (s.pins.id.setWidth 32 <<< 8) |||
    bitAt 12 (!(i.directFifo.isEmpty && i.slaveFifo.isEmpty && i.slaveDirect.isEmpty)) ||| bitAt 13 i.vipd |||
    (s.hostStage.setWidth 32 <<< 14) ||| (s.pins.clkCfg.ratio <<< 16)

/-- DMASTAT (61_io_devices.md R686). DESIGN CHOICE (log 85): it shows a change of a channel at once. -/
def State.dmastat (s : State) : W32 :=
  (List.finRange 14).foldl (fun v c =>
    let h := s.iop.chan[c]
    v ||| bitAt c.val h.active ||| bitAt (16 + c.val) (h.chainStatus && (s.ctl c).den)) 0

/-- A parameter register as it reads (61_io_devices.md R682). -/
def Channel.param (h : Channel) : Param → W32
  | .ii => h.ii.setWidth 32 | .im => h.im.setWidth 32 | .c => h.c.setWidth 32 | .cp => h.cp.setWidth 32
  | .gp => h.gp.setWidth 32 | .da => h.da.setWidth 32 | .db => h.db.setWidth 32
  | .ei => h.ei | .em => h.em | .ec => h.ec

/-- A parameter register written: each keeps the bits it has (61_io_devices.md R682). -/
def Channel.setParam (h : Channel) (p : Param) (v : W32) : Channel :=
  match p with
  | .ii => { h with ii := v.setWidth 18 } | .im => { h with im := v.setWidth 16 } | .c => { h with c := v.setWidth 16 }
  | .cp => { h with cp := v.setWidth 19 } | .gp => { h with gp := v.setWidth 18 } | .da => { h with da := v.setWidth 16 }
  | .db => { h with db := v.setWidth 16 } | .ei => { h with ei := v } | .em => { h with em := v } | .ec => { h with ec := v }

/-- A serial port register that is not a buffer, as it reads (62_link_serial_multiproc.md R742 to R754). -/
def State.spValue (s : State) (x : Fin 2) (r : SpReg) : W32 :=
  let p := s.iop.sport[x]
  match r with
  | .stctl => p.stctl ||| (p.chnl.setWidth 32 <<< 24) ||| bitAt 29 p.tuvf |||
      ((fill2 s.iop.chan[txChan x].queue.length).setWidth 32 <<< 30)
  | .srctl => p.srctl ||| bitAt 29 p.rovf ||| ((fill2 s.iop.chan[rxChan x].queue.length).setWidth 32 <<< 30)
  | .tx => 0 | .rx => 0
  | .tdiv => p.tdiv | .tcnt => p.tcnt | .rdiv => p.rdiv | .rcnt => p.rcnt | .mtcs => p.mtcs | .mrcs => p.mrcs
  | .mtccs => p.mtccs | .mrccs => p.mrccs | .keywd => p.keywd | .keymask => p.keymask | .spath => p.spath
  | .spcnt => p.spcnt

/-- A register that is not a buffer, as it reads. -/
def State.iopValue (s : State) (r : IopReg) : W32 :=
  let i := s.iop
  match r with
  | .syscon => i.syscon | .virpt => i.virpt | .wait => i.wait | .systat => s.systat
  | .epb _ => 0
  | .msgr n => i.msgr[n] | .pcShdw => i.pcShdw.setWidth 32 | .mode2Shdw => s.pins.idField
  | .bmax => i.bmax.setWidth 32 | .bcnt => i.bcnt.setWidth 32 | .elast => i.elast
  | .dmac n => i.dmac[n] ||| ((s.packStage n).setWidth 32 <<< 3) |||
      ((fillEp (i.dmac[n].getLsbD 2) i.chan[epChan n].queue.length).setWidth 32 <<< 16)
  | .dmastat => s.dmastat
  | .param c p => i.chan[c].param p
  | .emu n => i.emu[n]
  | .lbuf _ => 0
  | .lctl0 => i.lctl0 | .lctl1 => i.lctl1
  | .lcom => (List.finRange 6).foldl (fun v b =>
      if s.linkBoot b then v
      else v ||| ((fill2 i.chan[lkChan b].queue.length).setWidth 32 <<< (2 * b.val)) ||| bitAt (26 + b.val) (i.lrerr.getLsbD b.val))
      i.lcom
  | .lar => i.lar | .lsrq => s.lsrqValue | .mesh n => i.mesh[n]
  | .sp x r => s.spValue x r

/-- A 32-bit read of a register with its effects: a buffer gives its oldest word. `free` stands for what the spec does not
say (61_io_devices.md R720). A read of TXx gives its oldest word compressed, with free bits above the eight, where it compands
in place, and stops elsewhere (62_link_serial_multiproc.md R745, R748, log 74). -/
def State.iopRead (s : State) (r : IopReg) (free : W32) : Run (W32 × State) :=
  let buf (c : Fin 14) : Run (W32 × State) := do
    let (v, t) ← s.coreDequeue c
    .ok (narrow v free, t)
  match r with
  | .epb n => buf (epChan n)
  | .lbuf b => buf (lkChan b)
  | .sp x .rx => buf (rxChan x)
  | .sp x .tx =>
    match s.iop.sport[x].txInPlace with
    | some law => do
      let (v, t) ← s.coreDequeue (txChan x)
      .ok (free.extractLsb' 8 24 ++ compress law (v.setWidth 32), t)
    | none => .error (.fault .sportBufferMisuse)
  | r => .ok (s.iopValue r, s)

/-! ### Writing -/

/-- No reserved bit is written with 1 (10_state.md R48, U1). -/
def noReserved (v mask : W32) : Run Unit := need (v &&& mask == 0) .reservedBitWrite

/-- The channel no longer runs (61_io_devices.md R687). -/
def Channel.stop (h : Channel) : Channel := { h with active := false, chainPending := false, chainStatus := false }
/-- A sequence starts (61_io_devices.md R687). -/
def Channel.begin (h : Channel) : Channel := { h with active := true, begun := false }
/-- The buffer and the packer emptied (61_io_devices.md R686, R720). DESIGN CHOICE (log 104): `last` is kept, so that a read of
the empty buffer with BHD = 1 repeats the word last read out or sent. -/
def Channel.clear (h : Channel) : Channel := { h with queue := [], parts := [] }

/-- The effect of a change of a channel's enable bits from `o` to `k` (61_io_devices.md R687). The chaining status stays only
for a chained sequence under way or about to be loaded (61_io_devices.md R686). -/
def Channel.enable (h : Channel) (o k : Ctl) : Channel :=
  let g := { h with chainStatus := h.chainStatus && k.chen && (h.active || h.chainPending) }
  if !k.on then h.stop
  else if k.den && !o.den && !k.chen then g.begin
  else g

/-- The change of control bits of a channel that is active: only one that disables it is allowed (61_io_devices.md R683, U36).
`other` says that some other control bit changes. DESIGN CHOICE (log 93): together with the disabling any other bit may
change. -/
def activeOk (h : Channel) (o k : Ctl) (other : Bool) : Bool := !(h.active && k.on && (other || (k.den && !o.den)))

/-- SYSCON (10_state.md R102, 70_reset_and_hazards.md R781). HPFLSH clears the packing of the host and the DMARx request
counters (61_io_devices.md R707; which counter the rule means is DEDUCED, log 75). DESIGN CHOICE (log 94): the reserved codes of
HPM (101 to 111) and EBPR (11) are stored without a fault. -/
def State.writeSyscon (s : State) (core : Bool) (v : W32) : Run State := do
  noReserved v 0xFF800008
  let w := v &&& 0x007FFEF6
  let t := s.mapIop fun i => { i with
    syscon := w
    resetPending := i.resetPending || v.getLsbD 0
    hostParts := if v.getLsbD 8 then [] else i.hostParts
    chan := if v.getLsbD 8 then i.chan.map fun h => { h with requests := 0 } else i.chan }
  .ok (if core then { t with recent := { t.recent with syscon := (s.iop.syscon ^^^ w) ||| (v &&& 0x100) } } else t)

/-- The mode codes of an enabled DMACx are not reserved (61_io_devices.md R683, R685, U38, U39). -/
def dmacCodesOk (n : Fin 4) (v : W32) : Bool :=
  let ehm := v.extractLsb' 13 1 ++ v.extractLsb' 11 1 ++ v.extractLsb' 10 1
  v.extractLsb' 6 3 ≤ 4 && !v.getLsbD 20 &&
    (ehm == 0 || ehm == 1 || ((ehm == 2 || ehm == 3 || ehm == 6) && (n == 1 || n == 2)))

/-- An external master sets up the host boot of this DSP: it may change PMODE of the active DMAC10 (61_io_devices.md R721,
70_reset_and_hazards.md R783). -/
def State.bootSetup (s : State) (core : Bool) (n : Fin 4) : Bool := !core && n == 0 && s.seq.booting && s.pins.boot == .host

/-- DMACx (61_io_devices.md R683). FS and PS are cleared when DEN goes from 1 to 0, also into chain insertion mode (R683, R720;
that the words behind them go is DEDUCED, log 26). DESIGN CHOICE (log 27): FLSH bars the core from the buffer for two instructions only where the
core wrote it, not where an external master did (70_reset_and_hazards.md R802). -/
def State.writeDmac (s : State) (core : Bool) (n : Fin 4) (v : W32) : Run State := do
  noReserved v 0xFFE00000
  let c := epChan n
  let old := s.iop.dmac[n]
  let w := v &&& 0x001CBFE7
  let o := s.ctl c
  let h := s.iop.chan[c]
  let k : Ctl := { o with den := w.getLsbD 0, chen := w.getLsbD 1, tran := w.getLsbD 2 }
  let flush := v.getLsbD 14
  need (!(flush && (k.den || h.active))) .flushWhileActive
  let modes := (old ^^^ w) &&& (if s.bootSetup core n then ~~~0x1C0#32 else ~~~0#32)
  need (!(o.den && k.on && modes &&& 0x0004BFE0 != 0)) .activeChannelModified
  need (activeOk h o k (modes &&& ~~~1#32 != 0)) .activeChannelModified
  need (!k.on || dmacCodesOk n w) .reservedModeCode
  let h1 := h.enable o k
  let h2 := if (o.den && !k.den) || flush then h1.clear else h1
  let h3 := if flush then { h2 with requests := 0 } else h2
  let t := s.mapIop fun i => { i with
    dmac := i.dmac.set n.val w n.isLt
    chan := i.chan.set c.val h3 c.isLt
    hostParts := if o.den && !k.den then [] else i.hostParts }
  .ok (if core && flush then { t with recent := { t.recent with flushed := t.recent.flushed ||| (1#4 <<< n.val) } } else t)

/-- The count register whose rewriting starts a finished sequence again: ECx in external-handshake mode, which counts with
it, else Cx (61_io_devices.md R687, R695). -/
def State.countReg (s : State) (c : Fin 14) : Param :=
  if 10 ≤ c.val && s.ehm (Fin.ofNat 4 (c.val - 10)) == 6 then .ec else .c

/-- A parameter register (61_io_devices.md R682, R687, R698, U36). A write of Cx of channels 0 to 9 writes DAx too, also
one of an external master (DESIGN CHOICE, log 80); a write of the count when a single sequence has ended, or of a chain pointer in chained mode, starts a sequence. -/
def State.writeParam (s : State) (c : Fin 14) (p : Param) (v : W32) : Run State := do
  let h := s.iop.chan[c]
  let k := s.ctl c
  let h1 := h.setParam p v
  need (!(h.active && h1.param p != h.param p)) .activeChannelModified
  let h2 := match p with
    | .c => if c.val < 10 then { h1 with da := h1.c } else h1
    | .cp => if k.den && k.chen && h1.cp.extractLsb' 0 18 != 0 then { h1 with chainPending := true, chainStatus := true } else h1
    | _ => h1
  .ok (s.mapChan c fun _ => if p == s.countReg c && k.den && !k.chen && !h.active then h2.begin else h2)

/-- No port has exactly two buffers, both enabled in one direction (62_link_serial_multiproc.md R732, U52). DESIGN CHOICE
(log 98): a port with more than two buffers is disabled, whatever their directions, and no fault. -/
def State.linkPortsOk (s : State) : Bool :=
  (List.range 6).all fun p =>
    let bs := (List.finRange 6).filter fun b => s.linkPort b == BitVec.ofNat 3 p
    match bs with
    | [a, b] =>
      let g := s.linkGroup a
      let h := s.linkGroup b
      !(g.getLsbD 0 && h.getLsbD 0 && g.getLsbD 3 == h.getLsbD 3)
    | _ => true

/-- The control bits of one link buffer (62_link_serial_multiproc.md R726). -/
def State.writeLinkGroup (s : State) (b : Fin 6) (o k : BitVec 10) : Run State := do
  let c := lkChan b
  let h := s.iop.chan[c]
  let oc : Ctl := ⟨o.getLsbD 0, o.getLsbD 1, o.getLsbD 2, o.getLsbD 3, o.getLsbD 7, o.getLsbD 4⟩
  let kc : Ctl := ⟨k.getLsbD 0, k.getLsbD 1, k.getLsbD 2, k.getLsbD 3, k.getLsbD 7, k.getLsbD 4⟩
  need (activeOk h oc kc ((o ^^^ k) &&& ~~~2#10 != 0)) .activeChannelModified
  need (!(oc.en && kc.en && oc.word48 != kc.word48)) .activeChannelModified
  let off := oc.en && !kc.en
  let h1 := h.enable oc kc
  .ok (s.mapIop fun i => { i with
    chan := i.chan.set c.val (if off then h1.clear else h1) c.isLt
    lrerr := if off then i.lrerr &&& ~~~(1#6 <<< b.val) else i.lrerr })

/-- LCTL0 (`first` = 0) or LCTL1 (`first` = 3) (62_link_serial_multiproc.md R726). A buffer that boots the machine does not
see the write (70_reset_and_hazards.md R783, D59). -/
def State.writeLctl (s : State) (first : Fin 6) (v : W32) : Run State := do
  noReserved v 0xC0000000
  let old := if first == 0 then s.iop.lctl0 else s.iop.lctl1
  let s1 ← s.writeLinkGroup first (s.groupOf first old) (s.groupOf first v)
  let s2 ← s1.writeLinkGroup (first + 1) (s.groupOf (first + 1) old) (s.groupOf (first + 1) v)
  let s3 ← s2.writeLinkGroup (first + 2) (s.groupOf (first + 2) old) (s.groupOf (first + 2) v)
  let t := s3.mapIop fun i => if first == 0 then { i with lctl0 := v } else { i with lctl1 := v }
  need t.linkPortsOk .reservedModeCode
  .ok t

/-- LAR (62_link_serial_multiproc.md R725, U38, U52). -/
def State.writeLar (s : State) (v : W32) : Run State := do
  noReserved v 0xFFFC0000
  need ((List.range 6).all fun b => v.extractLsb' (3 * b) 3 != 6) .reservedModeCode
  let t := s.mapIop fun i => { i with lar := v }
  need t.linkPortsOk .reservedModeCode
  .ok t

/-- The serial port's control registers agree: no word shorter than three bits in an enabled side, and in multichannel
mode none of the bits it excludes (62_link_serial_multiproc.md R742, R743, R751, R752, U41, U49). -/
def Sport.modeOk (p : Sport) : Run Unit := do
  need (!(p.srctl.getLsbD 23 && (p.stctl &&& 0x00026401 != 0 || p.srctl &&& 0x00626001 != 0))) .sportModeConflict
  need (!(p.txOn && p.stctl.extractLsb' 4 5 < 2)) .reservedModeCode
  need (!(p.rxOn && p.srctl.extractLsb' 4 5 < 2)) .reservedModeCode

/-- The sides of a serial port that a write of a control register turns off, or writes as off (`tx` for STCTLx), get an empty
buffer and no status; `p` is the port before the write (62_link_serial_multiproc.md R756). DESIGN CHOICE (log 92): a side that
multichannel mode keeps running is not turned off by SPEN = 0. -/
def State.quietSport (s : State) (x : Fin 2) (p : Sport) (tx : Bool) : State :=
  let q := s.iop.sport[x]
  let s1 := if q.txOn || !(tx || p.txOn) then s else
    (s.mapChan (txChan x) Channel.clear).mapSport x fun p =>
      { p with chnl := 0, tuvf := false, halfSent := false, sentOnce := false }
  if q.rxOn || !(!tx || p.rxOn) then s1 else
    (s1.mapChan (rxChan x) Channel.clear).mapSport x fun p => { p with rovf := false, halfReceived := none }

/-- STCTLx (`tx`) or SRCTLx (62_link_serial_multiproc.md R742, R743). DESIGN CHOICE (log 82): IMODE written with MCE = 0 is
kept, without an effect. -/
def State.writeSpCtl (s : State) (x : Fin 2) (tx : Bool) (v : W32) : Run State := do
  noReserved v (if tx || v.getLsbD 23 then 0x00000800 else 0x00100800)
  let c := if tx then txChan x else rxChan x
  let w := if tx then v &&& 0x00FFF7FF else v &&& 0x1FFFF7FF
  let p := s.iop.sport[x]
  let old := if tx then p.stctl else p.srctl
  let o := s.ctl c
  let k : Ctl := { o with den := w.getLsbD 18, chen := w.getLsbD 19 }
  let h := s.iop.chan[c]
  need (activeOk h o k ((old ^^^ w) &&& ~~~0x00040000#32 != 0)) .activeChannelModified
  let p1 := if tx then { p with stctl := w } else { p with srctl := w }
  p1.modeOk
  let t := ((s.mapSport x fun _ => p1).mapChan c fun h => h.enable o k).quietSport x p tx
  let starts := !p.txOn && p1.txOn && !p1.stctl.getLsbD 18 && !t.iop.chan[txChan x].queue.isEmpty
  .ok (t.occurIf starts (if x == 0 then .spt0 else .spt1))

/-- A core or external write of TXx (62_link_serial_multiproc.md R745, R750): the first word of an idle transmitter moves
into the shifter at once. DESIGN CHOICE (log 83): under DMA (SDEN = 1) it is as without. -/
def State.writeTx (s : State) (x : Fin 2) (v : W32) : Run State := do
  let c := txChan x
  let p := s.iop.sport[x]
  let t ← s.coreEnqueue c (v.setWidth 64)
  .ok (t.occurIf (s.iop.chan[c].queue.isEmpty && p.txOn && !p.stctl.getLsbD 18) (if x == 0 then .spt0 else .spt1))

/-- A core or external write of RXx: where it compands in place the buffer takes the value that the eight low bits expand to;
elsewhere it stops (62_link_serial_multiproc.md R745, R748, U51, log 74). -/
def State.writeRx (s : State) (x : Fin 2) (v : W32) : Run State :=
  match s.iop.sport[x].rxInPlace with
  | some law => s.coreEnqueue (rxChan x) ((expand law (v.setWidth 8)).setWidth 64)
  | none => .error (.fault .sportBufferMisuse)

/-- A serial port register (62_link_serial_multiproc.md R742 to R757). -/
def State.writeSp (s : State) (x : Fin 2) (r : SpReg) (v : W32) : Run State :=
  let set (f : Sport → Sport) : Run State := .ok (s.mapSport x f)
  match r with
  | .stctl => s.writeSpCtl x true v
  | .srctl => s.writeSpCtl x false v
  | .tx => s.writeTx x v
  | .rx => s.writeRx x v
  | .tdiv => set fun p => { p with tdiv := v }
  | .tcnt => set fun p => { p with tcnt := v }
  | .rdiv => set fun p => { p with rdiv := v }
  | .rcnt => set fun p => { p with rcnt := v }
  | .mtcs => set fun p => { p with mtcs := v }
  | .mrcs => set fun p => { p with mrcs := v }
  | .mtccs => set fun p => { p with mtccs := v }
  | .mrccs => set fun p => { p with mrccs := v }
  | .keywd => set fun p => { p with keywd := v }
  | .keymask => set fun p => { p with keymask := v }
  | .spath => set fun p => { p with spath := v }
  | .spcnt => set fun p => { p with spcnt := v }

/-- VIRPT: a write of an external master requests the vector interrupt, the core's own does not
(60_exceptions.md R616). -/
def State.writeVirpt (s : State) (core : Bool) (v : W32) : State :=
  let t := s.mapIop fun i => { i with virpt := v }
  if core || t.inService .virpti then t
  else (t.setLatch .virpti true).mapIop fun i => { i with vipd := true }

/-- A 32-bit write to a register, by the core or by an external master. Read-only registers and fields keep their value
(D5). -/
def State.iopWrite (s : State) (core : Bool) (r : IopReg) (v : W32) : Run State :=
  let set (f : Iop → Iop) : Run State := .ok (s.mapIop f)
  match r with
  | .syscon => s.writeSyscon core v
  | .virpt => .ok (s.writeVirpt core v)
  | .wait => do
    noReserved v 0xB0000000
    let t := s.mapIop fun i => { i with wait := v }
    .ok (if core then { t with recent := { t.recent with wait := s.iop.wait ^^^ v } } else t)
  | .systat => .ok s
  | .epb n => s.coreEnqueue (epChan n) (v.setWidth 64)
  | .msgr n => set fun i => { i with msgr := i.msgr.set n.val v n.isLt }
  | .pcShdw => .ok s
  | .mode2Shdw => .ok s
  | .bmax => do
    noReserved v 0xFFFF0000
    need (v != 1) .reservedModeCode
    .ok (s.mapIop fun i => { i with bmax := v.setWidth 16 })
  | .bcnt => do
    noReserved v 0xFFFF0000
    .ok (s.mapIop fun i => { i with bcnt := v.setWidth 16 })
  | .elast => .ok { s.mapIop (fun i => { i with elast := v }) with recent := { s.recent with elast := true } }
  | .dmac n => s.writeDmac core n v
  | .dmastat => .ok s
  | .param c p => s.writeParam c p v
  | .emu n => set fun i => { i with emu := i.emu.set n.val v n.isLt }
  | .lbuf b => s.coreEnqueue (lkChan b) (v.setWidth 64)
  | .lctl0 => s.writeLctl 0 v
  | .lctl1 => s.writeLctl 3 v
  | .lcom => do
    noReserved v 0x038FF000
    need (!v.getLsbD 20) .reservedModeCode
    .ok (s.mapIop fun i => { i with lcom := v &&& 0x00600000 })
  | .lar => s.writeLar v
  | .lsrq => do
    noReserved v 0x000F000F
    .ok (s.mapIop fun i => { i with lsrq := v &&& 0x0000FFF0 })
  | .mesh n => set fun i => { i with mesh := i.mesh.set n.val v n.isLt }
  | .sp x r => s.writeSp x r v

end Sys2Proof.Machine
end

