-- ==== Sys2Proof/Machine/Registers.lean ====
section
/-!
DEFINITION. Machine/Registers.lean: reading and writing the universal registers (10_state.md R20 to R48, 40_compute_move.md
R263), with the side effects of each and the faults of a read or write that may not be made.
-/
namespace Sys2Proof.Machine

/-! ### Reading -/

/-- STKYx as it reads: the stack bits that a program write left undefined, and the sticky bits that the instruction before
newly set, are free (U6, D39). -/
def State.readStkyx (s : State) : W32 :=
  s.reg.stkyx ^^^ s.freeIn 0 s.stackBits ^^^ s.freeIn 1 s.recent.stkyx

/-- STKYy as it reads (D39). -/
def State.readStkyy (s : State) : W32 := s.reg.stkyy ^^^ s.freeIn 2 s.recent.stkyy

/-- A system register as it reads (10_state.md R34 to R43, 60_exceptions.md R610). -/
def State.readSys (s : State) : SReg → W32
  | .ustat1 => s.reg.ustat1
  | .ustat2 => s.reg.ustat2
  | .mode1 => s.reg.mode1
  | .mmask => s.reg.mmask
  | .mode2 => s.reg.mode2 ||| s.pins.idField
  | .flags => s.reg.flags
  | .astatx => s.reg.astatx
  | .astaty => s.reg.astaty
  | .stkyx => s.readStkyx
  | .stkyy => s.readStkyy
  | .irptl => putBits s.reg.irptl 0x00004000 (bitAt 14 (lpisumi s.reg.lirptl))
  | .imask => s.reg.imask
  | .imaskp => s.reg.imaskp
  | .lirptl => s.reg.lirptl
  | .ustat3 => s.reg.ustat3
  | .ustat4 => s.reg.ustat4

/-- A universal register of 32 bits or fewer as it reads, zero-extended (40_compute_move.md R263); a data register gives
its bits 39 to 8, the combined PX its low half. -/
def State.read32 (s : State) : UReg → W32
  | .r n => (s.dreg false n).extractLsb' 8 32
  | .s n => (s.dreg true n).extractLsb' 8 32
  | .i n => s.dagReg .i n
  | .m n => s.dagReg .m n
  | .l n => s.dagReg .l n
  | .b n => s.dagReg .b n
  | .faddr => s.seq.faddr.setWidth 32
  | .daddr => s.seq.daddr.setWidth 32
  | .pc => s.seq.pc.setWidth 32
  | .pcstk => s.topPc.setWidth 32
  | .pcstkp => s.seq.pcstkp.setWidth 32
  | .laddr => s.laddr
  | .curlcntr => s.curlcntr
  | .lcntr => s.lcntr
  | .emuclk => s.reg.emuclk
  | .emuclk2 => s.reg.emuclk2
  | .px => s.reg.px.setWidth 32
  | .px1 => s.reg.px.setWidth 32
  | .px2 => s.reg.px.extractLsb' 32 32
  | .tperiod => s.reg.tperiod
  | .tcount => s.reg.tcount
  | .sys k => s.readSys k

/-- `UregRead`: a register on the 40-bit path of a move (40_compute_move.md R263, 10_state.md R26). -/
def State.read40 (s : State) : UReg → W40
  | .r n => s.dreg false n
  | .s n => s.dreg true n
  | .px => s.reg.px.extractLsb' 24 40
  | u => s.read32 u ++ 0#8

end Sys2Proof.Machine

namespace Sys2Proof

/-- The registers whose content inside a one- or two-instruction loop is not given (41_program_flow.md R332, U17). -/
def UReg.ofFlow : UReg → Bool
  | .pcstk | .pcstkp | .laddr | .curlcntr | .lcntr | .daddr | .faddr => true
  | _ => false

/-- The stack registers that may not be written in a delay slot (41_program_flow.md R302). -/
def UReg.ofStack : UReg → Bool
  | .pcstk | .pcstkp | .laddr | .curlcntr | .lcntr => true
  | _ => false

/-- The registers on the PC stack (70_reset_and_hazards.md R800). -/
def UReg.ofPcStack : UReg → Bool
  | .pcstk | .pcstkp => true
  | _ => false

end Sys2Proof

namespace Sys2Proof.Machine

/-- The MODE1 select bits that decide which physical register a name reaches (10_state.md R23). -/
def selectMask : UReg → W32
  | .r n => if n < 8 then 0x400 else 0x80
  | .s n => if n < 8 then 0x400 else 0x80
  | .i n => dag n
  | .m n => dag n
  | .l n => dag n
  | .b n => dag n
  | _ => 0
where
  /-- The select bit of the address registers numbered `n`. -/
  dag (n : Reg) : W32 := if n < 4 then 0x10 else if n < 8 then 0x8 else if n < 12 then 0x40 else 0x20

/-- A register may be read by this instruction (10_state.md R23, R31, 41_program_flow.md R332, 70_reset_and_hazards.md
R800). -/
def State.mayRead (s : State) (u : UReg) : Run Unit := do
  s.useMode1 (selectMask u)
  need (!(u.ofFlow && s.inShortLoop)) .shortLoopStackAccess
  need (!(u.ofPcStack && s.recent.pcstkp)) .latencyHazard
  need (!(u == .lcntr && s.seq.loopDepth ≥ 6)) .loopCounterStackFull

/-- A register may be written by this instruction (41_program_flow.md R302, R331, U5, U17, U22); not PCSTK right after a
write of PCSTKP, which moves the top of the stack one instruction late (10_state.md R30, 70_reset_and_hazards.md R800). -/
def State.mayWrite (s : State) (u : UReg) : Run Unit := do
  s.useMode1 (selectMask u)
  need (!(u == .pcstk && s.recent.pcstkp)) .latencyHazard
  need (!(u.ofStack && s.seq.dbSlots != 0)) .delaySlotViolation
  need (!(u.ofFlow && s.inShortLoop)) .shortLoopStackAccess
  need (!(u == .lcntr && s.seq.loopDepth ≥ 6)) .loopCounterStackFull
  need (!(u == .curlcntr && s.testDue && s.loopType == 3)) .loopCounterWriteAtTest

/-! ### Writing -/

/-- `changed` with one more program write noted. -/
def State.note (s : State) (f : Changed → Changed) : State := { s with changed := f s.changed }
/-- The system registers updated. -/
def State.mapReg (s : State) (f : SysRegs → SysRegs) : State := { s with reg := f s.reg }
/-- The sequencer updated. -/
def State.mapSeq (s : State) (f : Sequencer → Sequencer) : State := { s with seq := f s.seq }

/-- The FLAGS bits whose pins are outputs (10_state.md R43). -/
def flagOutputs (mode2 : W32) : W32 := (mode2.extractLsb' 15 4).setWidth 32

/-- The latch bits of a program write: those in service with nesting off stay 0 (60_exceptions.md R603, R607). -/
def SysRegs.takeLatch (r : SysRegs) (v : W32) : SysRegs := ({ r with irptl := v &&& 0x7FFFBDFC }).hold

/-- A program write of STKYx: the stacks keep their state, but changing one of their bits leaves all four undefined
(U6). Sticky bits that the compute of this instruction newly set are dropped (44_alu_fixed.md R403, 45_alu_float.md
R444). -/
def State.writeStkyx (s : State) (v : W32) : State :=
  let odd := (v ^^^ s.reg.stkyx) &&& stackStateBits &&& ~~~s.stackBits
  let w := putBits v stackStateBits s.reg.stkyx
  let base := s.reg.stkyx &&& ~~~s.recent.stkyx
  let t := (s.note fun c => { c with stkyx := c.stkyx ||| (base ^^^ w) }).mapReg fun r => { r with stkyx := w }
  let u := { t with recent := { t.recent with stkyx := 0 } }
  if odd == 0 then u else { u with stackBits := stackStateBits }

/-- A program write of STKYy. -/
def State.writeStkyy (s : State) (v : W32) : State :=
  let base := s.reg.stkyy &&& ~~~s.recent.stkyy
  let t := (s.note fun c => { c with stkyy := c.stkyy ||| (base ^^^ v) }).mapReg fun r => { r with stkyy := v }
  { t with recent := { t.recent with stkyy := 0 } }

/-- A program write of ASTATx, or of ASTATy when `y`; the flags of a compute of the same instruction are dropped
(44_alu_fixed.md R403, 45_alu_float.md R444). -/
def State.writeAstat (s : State) (y : Bool) (v : W32) : State :=
  let d := s.astatBase y ^^^ v
  if y then
    { s.setAstat true v with changed := { s.changed with astaty := s.changed.astaty ||| d }
                             recent := { s.recent with astaty := 0 } }
  else
    { s.setAstat false v with changed := { s.changed with astatx := s.changed.astatx ||| d }
                              recent := { s.recent with astatx := 0 } }

/-- A program write of a system register (10_state.md R34 to R43, R48, 60_exceptions.md R607, R625, R631). DESIGN CHOICE
(log 49): MMASK takes a 1 at a reserved position of MODE1 without a fault. -/
def State.writeSys (s : State) (k : SReg) (v : W32) : Run State :=
  let r := s.reg
  match k with
  | .ustat1 => .ok (s.mapReg fun r => { r with ustat1 := v })
  | .ustat2 => .ok (s.mapReg fun r => { r with ustat2 := v })
  | .ustat3 => .ok (s.mapReg fun r => { r with ustat3 := v })
  | .ustat4 => .ok (s.mapReg fun r => { r with ustat4 := v })
  | .mode1 => do
    noReserved v (~~~mode1Bits)
    .ok ((s.note fun c => { c with mode1 := c.mode1 ||| (r.mode1 ^^^ v) }).mapReg fun r => { r with mode1 := v })
  | .mode2 => do
    noReserved v (~~~(mode2Bits ||| 0xFE000000))
    let w := v &&& mode2Bits
    .ok ((s.note fun c => { c with mode2 := c.mode2 ||| (r.mode2 ^^^ w) }).mapReg fun r => { r with mode2 := w })
  | .mmask => .ok ((s.note fun c => { c with mmask := c.mmask ||| (r.mmask ^^^ v) }).mapReg fun r => { r with mmask := v })
  | .flags => do
    noReserved v (~~~flagsBits)
    let w := putBits r.flags (flagOutputs r.mode2) v
    .ok ((s.note fun c => { c with flags := c.flags ||| (r.flags ^^^ w) }).mapReg fun r => { r with flags := w })
  | .astatx => do
    noReserved v (~~~astatBits)
    .ok (s.writeAstat false v)
  | .astaty => do
    noReserved v (~~~astatBits)
    .ok (s.writeAstat true v)
  | .stkyx => do
    noReserved v (~~~stkyxBits)
    .ok (s.writeStkyx v)
  | .stkyy => do
    noReserved v (~~~stkyyBits)
    .ok (s.writeStkyy v)
  | .irptl => do
    noReserved v (~~~irptlBits)
    need (!v.getLsbD 1) .resetLatchWrite
    let q := r.takeLatch v
    .ok ((s.note fun c => { c with irptl := c.irptl ||| (r.irptl ^^^ q.irptl) }).mapReg fun _ => q)
  | .imask => do
    noReserved v (~~~irptlBits)
    let w := v ||| 3
    .ok ((s.note fun c => { c with imask := c.imask ||| (r.imask ^^^ w) }).mapReg fun r => { r with imask := w })
  | .imaskp => do
    need (v == r.imaskp) .maskPointerWrite
    .ok s
  | .lirptl => do
    noReserved v (~~~lirptlBits)
    need ((v ^^^ r.lirptl) &&& 0x3F000000 == 0) .maskPointerWrite
    let q := ({ r with lirptl := v }).hold
    .ok ((s.note fun c => { c with lirptl := c.lirptl ||| (r.lirptl ^^^ q.lirptl) }).mapReg fun _ => q)

/-- A write of PCSTKP (10_state.md R30): it pushes or pops without data; after an overflow it has no effect. -/
def State.writePcstkp (s : State) (p : BitVec 5) : State :=
  if s.seq.pcstkp = 31 then { s with recent := { s.recent with pcstkp := true } }
  else
    let t := (s.mapSeq fun q => { q with pcstkp := p, stackOverflow := q.stackOverflow || p == 31 }).stackState 0x00600000
      (pcFlags p)
    { t with recent := { t.recent with pcstkp := true } }.occurIf (p.toNat ≥ 29 && s.seq.pcstkp.toNat < p.toNat) .sovfi

/-- A write of LADDR: the top of the loop address stack; bit 29 is reserved (10_state.md R31). -/
def State.writeLaddr (s : State) (v : W32) : Run State :=
  if s.seq.loopDepth = 0 then .ok s
  else do
    noReserved v 0x20000000
    .ok (s.mapSeq fun q => { q with loopAddr := q.loopAddr.setIfInBounds (q.loopDepth - 1) v })

/-- A write of CURLCNTR: no effect when no counter-based loop is active (10_state.md R31). DESIGN CHOICE (log 48): with a
condition-based loop on top it has no effect, also where a counter-based loop is active around it. -/
def State.writeCurlcntr (s : State) (v : W32) : State :=
  if s.looping && s.loopType != 0 then s.setCount (s.seq.loopDepth - 1) v else s

/-- A write of the top of the PC stack (10_state.md R30). -/
def State.writePcstk (s : State) (v : W24) : State :=
  if s.seq.pcstkp = 0 ∨ s.seq.pcstkp = 31 then s
  else s.mapSeq fun q => { q with pcStack := q.pcStack.setIfInBounds (q.pcstkp.toNat - 1) v }

/-- A 32-bit value written to a register (40_compute_move.md R263): a data register takes it on bits 39 to 8 with the low
byte 0, a narrower register its low bits, a read-only register nothing (D12). The combined PX takes it on bits 63 to 32
(42_immediate_move.md R354). -/
def State.write32 (s : State) (u : UReg) (v : W32) : Run State :=
  match u with
  | .r n => .ok (s.setDreg false n (v ++ 0#8))
  | .s n => .ok (s.setDreg true n (v ++ 0#8))
  | .i n => .ok (s.setDagReg .i n v)
  | .m n => .ok (s.setDagReg .m n v)
  | .l n => .ok (s.setDagReg .l n v)
  | .b n => .ok (s.setDagReg .b n v)
  | .faddr => .ok s
  | .daddr => .ok s
  | .pc => .ok s
  | .pcstk => .ok (s.writePcstk (v.setWidth 24))
  | .pcstkp => .ok (s.writePcstkp (v.setWidth 5))
  | .laddr => s.writeLaddr v
  | .curlcntr => .ok (s.writeCurlcntr v)
  | .lcntr => .ok (s.setCount s.seq.loopDepth v)
  | .emuclk => .ok s
  | .emuclk2 => .ok s
  | .px => .ok (s.mapReg fun r => { r with px := v ++ 0#32 })
  | .px1 => .ok (s.mapReg fun r => { r with px := r.px.extractLsb' 32 32 ++ v })
  | .px2 => .ok (s.mapReg fun r => { r with px := v ++ r.px.extractLsb' 0 32 })
  | .tperiod => .ok (s.mapReg fun r => { r with tperiod := v })
  | .tcount => .ok { s.mapReg (fun r => { r with tcount := v }) with recent := { s.recent with tcount := true } }
  | .sys k => s.writeSys k v

/-- `UregWrite`: a value of the 40-bit path written to a register; `wide` when the source is a data register or PX, whose
low byte a data register keeps (40_compute_move.md R263, 10_state.md R26). -/
def State.write40 (s : State) (u : UReg) (v : W40) (wide : Bool) : Run State :=
  match u with
  | .r n => .ok (s.setDreg false n (if wide then v else v.extractLsb' 8 32 ++ 0#8))
  | .s n => .ok (s.setDreg true n (if wide then v else v.extractLsb' 8 32 ++ 0#8))
  | .px => .ok (s.mapReg fun r => { r with px := v ++ 0#24 })
  | u => s.write32 u (v.extractLsb' 8 32)

/-- A source whose low byte counts: a data register or the combined PX. -/
def wideSource : UReg → Bool
  | .r _ => true
  | .s _ => true
  | .px => true
  | _ => false

end Sys2Proof.Machine
end

