-- ==== Sys2Proof/Machine/Access.lean ====
section
/-!
DEFINITION. Machine/Access.lean: the core's data accesses: the address generators, the width of an access, the word a
location holds, and the explicit, implicit and broadcast transfers (20_memory.md R140 to R176).
-/
namespace Sys2Proof.Machine

/-! ### Address generation (20_memory.md R170 to R175) -/

/-- What an index register is modified by. -/
inductive Modifier where
  | reg (n : Reg)
  | imm (v : W32)
deriving DecidableEq, Repr

/-- How an access gets its address: directly, post-modify or pre-modify through index register `i`. -/
inductive AddrMode where
  | direct (a : W32)
  | post (i : Reg) (m : Modifier)
  | pre (i : Reg) (m : Modifier)
deriving DecidableEq, Repr

/-- The value of a modifier. -/
def State.modifier (s : State) : Modifier → W32
  | .reg n => s.dagReg .m n
  | .imm v => v

/-- The modifier may be read. -/
def State.modifierReady (s : State) : Modifier → Run Unit
  | .reg n => s.mayRead (.m n)
  | .imm _ => .ok ()

/-- All 32 bits in reverse order (20_memory.md R174). -/
def rev32 (v : W32) : W32 := v.reverse

/-- Addresses through I0 or I8 are bit-reversed (20_memory.md R174). -/
def bitReversed (mode1 : W32) (i : Reg) : Bool := (i == 0 && mode1.getLsbD 1) || (i == 8 && mode1.getLsbD 0)

/-- The MODE1 bits that say so. -/
def reverseMask (i : Reg) : W32 := if i = 0 then 2 else if i = 8 then 1 else 0

/-- The address an index register puts out. -/
def putOut (mode1 : W32) (i : Reg) (v : W32) : W32 := if bitReversed mode1 i then rev32 v else v

/-- The memory space and word-size range of an address: internal, multiprocessor or external (20_memory.md R120, R171,
U9). DESIGN CHOICE (log 78): the registers and the reserved region above them are two ranges. -/
def spaceOf (a : W32) : Nat × Form :=
  if a.extractLsb' 23 9 != 0 then (2, .normal) else (if a.extractLsb' 20 3 == 0 then 0 else 1, form a)

/-- The address of an access (20_memory.md R170 to R172, R174). DESIGN CHOICE (log 50): through I0 or I8 with bit reversal
the space check of a pre-modify compares the addresses put out, which are the reversed ones. -/
def State.address (s : State) : AddrMode → Run W32
  | .direct a => .ok a
  | .post i m => do
    s.mayRead (.i i)
    s.modifierReady m
    s.useMode1 (reverseMask i)
    .ok (putOut s.reg.mode1 i (s.dagReg .i i))
  | .pre i m => do
    s.mayRead (.i i)
    s.modifierReady m
    s.useMode1 (reverseMask i)
    let a := putOut s.reg.mode1 i (s.dagReg .i i + s.modifier m)
    need (spaceOf a == spaceOf (putOut s.reg.mode1 i (s.dagReg .i i))) .premodifySpaceChange
    .ok a

/-- The sum before any wrap, on unbounded integers (20_memory.md R173). -/
def circSum (i m : W32) : Int := i.toNat + m.toInt

/-- The wrap-around equations take their second branch (20_memory.md R173). -/
def circWraps (i b l m : W32) : Bool :=
  if m.toInt ≥ 0 then circSum i m ≥ b.toNat + l.toNat else circSum i m < b.toNat

/-- The circular update (20_memory.md R173). -/
def circUpdate (i b l m : W32) : W32 :=
  if circWraps i b l m then (if m.toInt ≥ 0 then i + m - l else i + m + l) else i + m

/-- The conditions of a circular buffer: the modifier below the length, and nothing crosses 0 or 0xFFFFFFFF
(20_memory.md R173, U10). -/
def circOk (i b l m : W32) : Bool :=
  m.toInt.natAbs < l.toNat && l.toNat < 2147483648 && 0 ≤ circSum i m && circSum i m < 4294967296 &&
    b.toNat + l.toNat ≤ 4294967296

/-- The wrap of I7 or I15: its sticky bit and its interrupt (60_exceptions.md R615). -/
def State.wrapEvent (s : State) (i : Reg) : State :=
  if i = 7 then (s.stkyxOr 0x00020000).occur .cb7
  else if i = 15 then (s.stkyxOr 0x00040000).occur .cb15
  else s

/-- Index register `i` is updated around its buffer (20_memory.md R173): `always` for MODIFY, else while CBUFEN = 1. -/
def State.circular (s : State) (i : Reg) (always : Bool) : Bool := s.dagReg .l i != 0 && (always || cbufen s.reg.mode1)

/-- What index register `i` holds after an update by `m` (20_memory.md R170, R173). -/
def State.indexAfter (s : State) (i : Reg) (m : W32) (always : Bool) : W32 :=
  if s.circular i always then circUpdate (s.dagReg .i i) (s.dagReg .b i) (s.dagReg .l i) m else s.dagReg .i i + m

/-- The update of index register `i` is one whose wrap is reported: a circular one, and with CBUFEN = 1 also one with L = 0,
by the same equations (20_memory.md R173, 43_misc.md R377; DEDUCED against 60_exceptions.md R615, log 63). -/
def State.reportsWrap (s : State) (i : Reg) (always : Bool) : Bool :=
  s.circular i always || (s.dagReg .l i == 0 && cbufen s.reg.mode1)

/-- The update of I7 or I15 wraps around its buffer, and reports it (20_memory.md R173). -/
def State.wraps (s : State) (i : Reg) (m : W32) (always : Bool) : Bool :=
  (i == 7 || i == 15) && circWraps (s.dagReg .i i) (s.dagReg .b i) (s.dagReg .l i) m && s.reportsWrap i always

/-- The update reads CBUFEN: a post-modify of a circular buffer, and with L = 0 an update of I7 or I15, which reports a wrap
only with CBUFEN = 1 (70_reset_and_hazards.md R800, 20_memory.md R173). That the report with L = 0 counts as a use of CBUFEN
is a DESIGN CHOICE (log 55). -/
def State.readsCbufen (s : State) (i : Reg) (always : Bool) : Bool :=
  if s.dagReg .l i = 0 then i == 7 || i == 15 else !always

/-- An index register updated by `m`: around its buffer when it is circular, else plainly (20_memory.md R170, R173). `s` is
the state read, `t` the state written. -/
def State.updateIndex (s t : State) (i : Reg) (m : W32) (always : Bool) : Run State := do
  s.mayRead (.i i)
  if s.readsCbufen i always then s.useMode1 0x01000000
  need (!s.circular i always || circOk (s.dagReg .i i) (s.dagReg .b i) (s.dagReg .l i) m) .circularBufferRange
  .ok (t.setDagReg .i i (s.indexAfter i m always))

/-- The report of the update of `i` by `m`: for a wrap of I7 or I15 its sticky bit and its interrupt (60_exceptions.md
R615). -/
def State.reportWrap (s t : State) (i : Reg) (m : W32) (always : Bool) : State :=
  if s.wraps i m always then t.wrapEvent i else t

/-- MODIFY of an index register, with its report (20_memory.md R173). -/
def State.modifyIndex (s t : State) (i : Reg) (m : W32) (always : Bool) : Run State := do
  let u ← s.updateIndex t i m always
  .ok (s.reportWrap u i m always)

/-- The index update of an access (20_memory.md R170). -/
def State.postModify (s t : State) : AddrMode → Run State
  | .post i m => s.updateIndex t i (s.modifier m) false
  | _ => .ok t

/-- The wrap an access reports. -/
def State.postReport (s t : State) : AddrMode → State
  | .post i m => s.reportWrap t i (s.modifier m) false
  | _ => t

/-! ### Where a word is -/

/-- What holds the words of an access. -/
inductive Place where
  | cells (first : Nat)
  | iop (a : BitVec 8)
  | ext
  | other
  /-- a register of another processor's I/O processor -/
  | otherIop (a : BitVec 8)
deriving DecidableEq, Repr

/-- One word of an access: its address, its width in bits and its place; `toAll` in the broadcast region. -/
structure Loc where
  addr : W32
  width : Nat
  place : Place
  toAll : Bool
deriving DecidableEq, Repr

/-- SYSCON.IMDWx of the block of a normal-word address. -/
def imdwBit (a : W32) : Nat := if a.getLsbD 16 then 10 else 9

/-- The address without its lowest bit. -/
def evenAddr (a : W32) : W32 := a &&& ~~~1#32

/-- A 32- or 64-bit word of internal memory at a normal-word address. -/
def normalLoc (a : W32) (wide toAll : Bool) : Loc :=
  if wide then ⟨evenAddr a, 64, .cells (normalCol (evenAddr a)), toAll⟩ else ⟨a, 32, .cells (normalCol a), toAll⟩

/-- A 48-bit word of internal memory at a normal-word address. -/
def wordLoc (a : W32) : Run Loc :=
  match wordCol a with
  | some c => .ok ⟨a, 48, .cells c, false⟩
  | none => .error (.fault .unmappedAccess)

/-- The word an address names for a register, `px` when that is the combined PX and `lw` with the LW option
(20_memory.md R142, R145, R151 to R153, R165, U2, U3, U4). -/
def State.locate (s : State) (a : W32) (px lw : Bool) : Run Loc :=
  let wide := px || lw
  let region (toAll own : Bool) : Run Loc :=
    match form a with
    | .iop => .ok ⟨a, 32, if own then .iop (a.extractLsb' 0 8) else .otherIop (a.extractLsb' 0 8), toAll⟩
    | .hole => .error (.fault .unmappedAccess)
    | .long => .error (.fault .illegalAccessWidth)
    | .short => .error (.fault .illegalAccessWidth)
    | .normal =>
      if own then .ok (normalLoc a wide toAll)
      else .ok ⟨if wide then evenAddr a else a, if wide then 64 else 32, .other, false⟩
  match target s.pins.id a with
  | .ext => .ok ⟨if wide then evenAddr a else a, if wide then 64 else 32, .ext, false⟩
  | .other => region false false
  | .all => region true true
  | .own true => region false true
  | .own false =>
    match form a with
    | .iop => .ok ⟨a, 32, .iop (a.extractLsb' 0 8), false⟩
    | .hole => .error (.fault .unmappedAccess)
    | .long => .ok ⟨a, 64, .cells (longCol a), false⟩
    | .short => if px then .error (.fault .illegalAccessWidth) else .ok ⟨a, 16, .cells (shortCol a), false⟩
    | .normal =>
      if px && !lw then wordLoc a
      else if lw then .ok (normalLoc a true false)
      else do
        need (!s.recent.syscon.getLsbD (imdwBit a)) .latencyHazard
        if s.iop.syscon.getLsbD (imdwBit a) then wordLoc a else .ok (normalLoc a false false)

/-- The word of the implicit transfer: one address on for a normal word, two for a short word (20_memory.md R161,
R162). DESIGN CHOICE (log 51): where that address leaves the word-size range, the processor's range of the multiprocessor
space, or external space, no word is there (UnmappedAccess). -/
def State.implicitLoc (s : State) (l : Loc) : Run Loc :=
  let a := if l.width = 16 then l.addr + 2 else l.addr + 1
  match l.place with
  | .cells _ =>
    if l.width = 16 then
      if form a == .short then .ok { l with addr := a, place := .cells (shortCol a) } else .error (.fault .unmappedAccess)
    else if form a == .normal then .ok { l with addr := a, place := .cells (normalCol a) }
    else .error (.fault .unmappedAccess)
  | .ext => if target s.pins.id a == .ext then .ok { l with addr := a } else .error (.fault .unmappedAccess)
  | _ => if form a == .normal then .ok { l with addr := a } else .error (.fault .unmappedAccess)

/-- An access that reports itself: IRA for a register of the I/O processor, U64MA for LW at an odd normal-word address
(60_exceptions.md R613). -/
def State.detect (s t : State) (a : W32) (lw : Bool) : Run State := do
  let inSpace := target s.pins.id a != .ext
  let iop := inSpace && form a == .iop
  let odd := lw && a.getLsbD 0 && (!inSpace || form a == .normal)
  need (!(iop && s.changed.mode2.getLsbD 20)) .latencyHazard
  need (!(odd && s.changed.mode2.getLsbD 21)) .latencyHazard
  .ok (t.stkyxOr (bitAt 19 (iop && s.reg.mode2.getLsbD 20) ||| bitAt 20 (odd && s.reg.mode2.getLsbD 21)))

/-! ### The external bus -/

/-- The bank of an external address, 4 for unbanked memory (20_memory.md R127). -/
def bankOf (syscon a : W32) : Nat :=
  let k := (a.toNat - 0x800000) / 2 ^ ((syscon.extractLsb' 12 4).toNat + 13)
  if k < 4 then k else 4

/-- The access mode of bank `n`, 4 for unbanked memory, is no reserved one (70_reset_and_hazards.md R830, U38). -/
def bankModeOk (wait : W32) (n : Nat) (read : Bool) : Bool :=
  let am := wait.extractLsb' (5 * n) 2
  let ws := wait.extractLsb' (5 * n + 2) 3
  am != 3 && !(read && am != 0 && ws == 0)

/-- The access mode of an external address is no reserved one. -/
def bankOk (syscon wait a : W32) (read : Bool) : Bool := bankModeOk wait (bankOf syscon a) read

/-- The meaning of an access over the external bus does not depend on a field that the instruction before changed: EBPR for
every access; for external memory also MSIZE where it moves the address to another bank, and the WAIT field of the bank
(70_reset_and_hazards.md R802). -/
def State.busSettled (s : State) (l : Loc) : Bool :=
  s.recent.syscon &&& 0x00060000 == 0 &&
    (l.place != .ext ||
      (bankOf (s.iop.syscon ^^^ s.recent.syscon) l.addr == bankOf s.iop.syscon l.addr &&
        s.recent.wait.extractLsb' (5 * bankOf s.iop.syscon l.addr) 5 == 0))

/-- A core access may use the external bus: not right after a write of the fields that govern it, and only as bus master;
else the core waits (70_reset_and_hazards.md R802, 62_link_serial_multiproc.md R760). -/
def State.busReady (s : State) (l : Loc) (read : Bool) : Run Unit := do
  need (s.busSettled l) .latencyHazard
  if s.busMine then .ok () else .error .busStall
  need (l.place != .ext || bankOk s.iop.syscon s.iop.wait l.addr read) .reservedModeCode

/-- ELAST after an access to bank 0 (62_link_serial_multiproc.md R767). -/
def State.touchExt (s : State) (a : W32) : State :=
  if bankOf s.iop.syscon a = 0 then
    { s.mapIop (fun i => { i with elast := a }) with recent := { s.recent with elast := true } }
  else s

/-- The access of `u` that followed the one of `t` was the implicit half of it: the two are one access over the external bus,
at the explicit address (20_memory.md R151, 62_link_serial_multiproc.md R767). -/
def State.sameAccess (t u : State) : State :=
  { u.mapIop (fun i => { i with elast := t.iop.elast }) with recent := { u.recent with elast := t.recent.elast } }

/-- Something given to the environment. -/
def State.output (s : State) (o : Output) : State := { s with outputs := o :: s.outputs }

/-! ### Reading and writing a word -/

/-- A recent write of the other width class still stands in the shadow write FIFO (20_memory.md R184, U13). -/
def shadowed (marks : List WriteMark) (first columns : Nat) (is48 : Bool) : Bool :=
  marks.any fun w => w.is48 != is48 && meets w.first w.columns first columns

/-- The low `w` bits of a value. -/
def lowPart (v : W64) (w : Nat) : W64 := v &&& BitVec.ofNat 64 (2 ^ w - 1)

/-- The word a core read gets, without the registers of an I/O processor (20_memory.md R140, R151). `site` numbers the
free value for a word of another processor. -/
def State.readWord (s t : State) (l : Loc) (site : Nat) : Run (W64 × State) :=
  match l.place with
  | .cells f => do
    need (!shadowed (t.shadow1 ++ s.shadow1 ++ s.shadow2) f (l.width / 16) (l.width == 48)) .shadowFifoHazard
    .ok (BitVec.ofNat 64 (t.mem.load (colKey f) (l.width / 8)), t)
  | .ext => do
    s.busReady l true
    .ok (BitVec.ofNat 64 (t.mem.load (extKey l.addr) (l.width / 8)), t.touchExt l.addr)
  | .other => do
    s.busReady l true
    .ok (lowPart (Config.freeLong (s.freeIdx + site)) l.width, t)
  | .iop _ => .ok (0, t)
  | .otherIop _ => .ok (0, t)

/-- The columns of the two instructions already fetched (20_memory.md R185, D8). -/
def State.hitsFetched (s : State) (first columns : Nat) : Bool :=
  [s.upcoming.1, s.upcoming.2].any fun a =>
    match codeCol a with
    | some c => meets c 3 first columns
    | none => false

/-- A core write of a word, without the registers of an I/O processor and without what leaves the chip (20_memory.md R141,
R151, R185). -/
def State.writeWord (s t : State) (l : Loc) (v : W64) : Run State :=
  match l.place with
  | .cells f => do
    need (!s.hitsFetched f (l.width / 16)) .storeToFetchedCode
    if l.toAll then s.busReady l false
    .ok { t with
      mem := t.mem.store (colKey f) (l.width / 8) v.toNat
      shadow1 := ⟨f, l.width / 16, l.width == 48⟩ :: t.shadow1 }
  | .ext => do
    s.busReady l false
    .ok (({ t with mem := t.mem.store (extKey l.addr) (l.width / 8) v.toNat }).touchExt l.addr)
  | .other => do
    s.busReady l false
    .ok t
  | .iop _ => .ok t
  | .otherIop _ => .ok t

/-- A store of this location goes to other processors: to one of them, or to all by broadcast (20_memory.md R126). -/
def Loc.leaves (l : Loc) : Bool := l.place == .other || l.toAll

/-- The stored words that go to other processors: the explicit one, and `w` of the implicit store. At an even address the two
leave as one write of 64 bits, else as two (61_io_devices.md R713). -/
def State.send (t : State) (l : Loc) (v : W64) (w : Option W64) : State :=
  if !l.leaves then t
  else
    match w with
    | none => t.output (.remoteStore l.addr l.width v)
    | some w =>
      if l.addr.getLsbD 0 then
        (t.output (.remoteStore l.addr l.width v)).output (.remoteStore (l.addr + 1) l.width w)
      else t.output (.remoteStore l.addr 64 (w.setWidth 32 ++ v.setWidth 32))

/-! ### Registers of the I/O processor -/

/-- The buffer behind a register. -/
def IopReg.buffer? : IopReg → Option (Fin 14)
  | .epb n => some (epChan n)
  | .lbuf b => some (lkChan b)
  | .sp x .rx => some (rxChan x)
  | .sp x .tx => some (txChan x)
  | _ => none

/-- The register of an access; not a buffer right after BHD was changed or the buffer flushed (70_reset_and_hazards.md
R802). -/
def State.iopTarget (s : State) (a : BitVec 8) : Run IopReg :=
  match iopReg a with
  | none => .error (.fault .unmappedAccess)
  | some r => do
    need (!(r.buffer?.isSome && s.recent.syscon.getLsbD 16)) .latencyHazard
    match r with
    | .epb n => need (!(s.recent.flushed ||| s.recent.flushedBefore).getLsbD n.val) .latencyHazard
    | _ => .ok ()
    .ok r

/-- How many bits an access to a register moves: 64 between PX or an LW pair in SIMD mode and an external port buffer, 48
between PX and a link buffer, else 32 (20_memory.md R153, R165). -/
def iopWidth (r : IopReg) (px lwPair : Bool) : Nat :=
  match r with
  | .epb _ => if px || lwPair then 64 else 32
  | .lbuf _ => if px then 48 else 32
  | _ => 32

/-- The bits of a register that may still read as 1: FLSH and HPFLSH clear themselves some steps of the I/O processor after
the write, and nothing says how many of those lie before this instruction (70_reset_and_hazards.md R802, log 27). -/
def State.flushing (s : State) : IopReg → W32
  | .dmac n => bitAt 14 ((s.recent.flushed ||| s.recent.flushedBefore).getLsbD n.val)
  | .syscon => bitAt 8 (s.recent.syscon.getLsbD 8)
  | _ => 0

/-- The channels that a write started: they run, or want a control block, and did not before. -/
def State.startedBy (s t : State) : BitVec 14 :=
  let live (u : State) (c : Fin 14) : Bool := (u.ctl c).on && (u.iop.chan[c].active || u.iop.chan[c].chainPending)
  (List.finRange 14).foldl (fun v c => if live t c && !live s c then v ||| (1#14 <<< c.val) else v) 0

/-- A core read of a register of the I/O processor, with its width. -/
def State.readIop (s t : State) (a : BitVec 8) (px lwPair : Bool) : Run (Nat × W64 × State) := do
  let r ← s.iopTarget a
  let w := iopWidth r px lwPair
  if w = 32 then
    let (v, u) ← t.iopRead r (s.free 3)
    let v := if r == .elast && s.recent.elast then s.free 3 else v ||| s.freeIn 3 (s.flushing r)
    .ok (w, v.setWidth 64, u)
  else
    let (v, u) ← t.coreDequeue (r.buffer?.getD 0)
    .ok (w, if w = 48 then v &&& 0xFFFFFFFFFFFF else v, u)

/-- The word a link buffer queues of the 48 bits that PX gives it: all of them while LbEXT = 1; else a 32-bit word, and
which 32 bits of a longer value the spec does not say, a free value (62_link_serial_multiproc.md R728, log 61). -/
def State.linkWord (s : State) (r : IopReg) (v : W64) : W64 :=
  match r with
  | .lbuf b => if (s.linkGroup b).getLsbD 4 then v else (narrow v (s.free 3)).setWidth 64
  | _ => v

/-- A core write of a register of the I/O processor: `value` gives the datum for a width. A DMA channel that the write starts
is noted: no transfer of it comes before the next instruction (70_reset_and_hazards.md R802). -/
def State.writeIop (s t : State) (a : BitVec 8) (px lwPair : Bool) (value : Nat → W64) : Run State := do
  let r ← s.iopTarget a
  let w := iopWidth r px lwPair
  let u ← if w = 32 then t.iopWrite true r ((value 32).setWidth 32)
    else t.coreEnqueue (r.buffer?.getD 0) (s.linkWord r (value w))
  .ok { u with recent := { u.recent with started := u.recent.started ||| t.startedBy u } }

/-- The width of an access to the register at an address (20_memory.md R153, R165, 61_io_devices.md R721). -/
def regWidth (a : BitVec 8) (px lwPair : Bool) : Run Nat :=
  match iopReg a with
  | none => .error (.fault .unmappedAccess)
  | some r => .ok (iopWidth r px lwPair)

/-! ### What a register gives and takes -/

/-- The source of a store. -/
inductive Datum where
  | reg (u : UReg)
  | imm (v : W32)
deriving DecidableEq, Repr

/-- The datum is the combined PX. -/
def Datum.isPx : Datum → Bool
  | .reg .px => true
  | _ => false

/-- The datum has a neighbour for a long word, or is PX (20_memory.md R145, U4). -/
def Datum.pairs : Datum → Bool
  | .reg .px => true
  | .reg u => u.pair?.isSome
  | .imm _ => false

/-- The datum of the implicit store (20_memory.md R160, 42_immediate_move.md R353). -/
def Datum.comp : Datum → Option Datum
  | .reg u => u.comp.map .reg
  | .imm v => some (.imm v)

/-- What a register gives to a word of `w` bits (20_memory.md R143 to R145, R152, R165). -/
def State.regWord (s : State) (u : UReg) (w : Nat) : W64 :=
  match w with
  | 16 => (s.read32 u &&& 0xFFFF).setWidth 64
  | 48 =>
    match u with
    | .px => (s.reg.px.extractLsb' 16 48).setWidth 64
    | .r n => (s.dreg false n ++ 0#8).setWidth 64
    | .s n => (s.dreg true n ++ 0#8).setWidth 64
    | u => (s.read32 u ++ 0#16).setWidth 64
  | 64 =>
    match u with
    | .px => s.reg.px
    | u => (match u.pair? with | some p => s.read32 p | none => 0) ++ s.read32 u
  | _ => (s.read32 u).setWidth 64

/-- What a datum gives to a word of `w` bits. -/
def State.datumWord (s : State) (d : Datum) (w : Nat) : W64 :=
  match d with
  | .reg u => s.regWord u w
  | .imm v => if w = 16 then (v &&& 0xFFFF).setWidth 64 else if w = 48 then (v ++ 0#16).setWidth 64 else v.setWidth 64

/-- The registers of a transfer of `w` bits. -/
def regsOf (u : UReg) (w : Nat) : List UReg :=
  if w = 64 then u :: u.pair?.toList else [u]

/-- The registers of a store may be read. -/
def State.datumReady (s : State) (d : Datum) (w : Nat) : Run Unit :=
  match d with
  | .reg u => (regsOf u w).forM s.mayRead
  | .imm _ => .ok ()

/-- A loaded word on its way to a register. -/
structure Loaded where
  u : UReg
  width : Nat
  val : W64
deriving DecidableEq, Repr

/-- A short word extended as MODE1.SSE says (20_memory.md R152). -/
def extendShort (mode1 : W32) (v : W64) : W32 :=
  let h : W16 := v.setWidth 16
  if sse mode1 then h.signExtend 32 else h.setWidth 32

/-- A loaded word written to its register (20_memory.md R143 to R145, R152, R165); `mode1` is that of the start of the
step. -/
def State.putLoaded (t : State) (mode1 : W32) (x : Loaded) : Run State :=
  match x.width with
  | 16 => t.write32 x.u (extendShort mode1 x.val)
  | 48 =>
    match x.u with
    | .px => .ok (t.mapReg fun r => { r with px := x.val.extractLsb' 0 48 ++ 0#16 })
    | .r n => .ok (t.setDreg false n (x.val.extractLsb' 8 40))
    | .s n => .ok (t.setDreg true n (x.val.extractLsb' 8 40))
    | u => t.write32 u (x.val.extractLsb' 16 32)
  | 64 =>
    match x.u with
    | .px => .ok (t.mapReg fun r => { r with px := x.val })
    | u => do
      let t1 ← t.write32 u (x.val.setWidth 32)
      match u.pair? with
      | some p => t1.write32 p (x.val.extractLsb' 32 32)
      | none => .ok t1
  | _ =>
    match x.u with
    | .px => .ok (t.mapReg fun r => { r with px := r.px.extractLsb' 32 32 ++ x.val.setWidth 32 })
    | u => t.write32 u (x.val.setWidth 32)

/-- Loaded words written in order. -/
def State.putAll (t : State) (mode1 : W32) : List Loaded → Run State
  | [] => .ok t
  | x :: xs => do
    let u ← t.putLoaded mode1 x
    u.putAll mode1 xs

/-! ### One access of the core -/

/-- The gates of the two halves of a move: the condition holds in PEx, and in PEy (40_compute_move.md R265). -/
structure Gate where
  x : Bool
  y : Bool
  /-- the instruction is conditional -/
  conditional : Bool
deriving DecidableEq, Repr

/-- Some half is let through. -/
def Gate.any (g : Gate) : Bool := g.x || g.y

/-- A conditional move in SIMD mode stays in the internal memory (40_compute_move.md R264, U15). -/
def State.gateOk (s : State) (g : Gate) (a : W32) : Run Unit :=
  need (!(s.simd && g.conditional && !(target s.pins.id a == .own false && form a != .iop)))
    .undefinedSimdConditionalAccess

/-- A store to a register of an I/O processor: the one register, without an implicit transfer (20_memory.md R153). A store
to all processors writes this one's too. DESIGN CHOICE (log 76): in SIMD mode an LW access of a register without a neighbour
is a plain 32-bit one. -/
def State.storeReg (s t : State) (d : Datum) (l : Loc) (lw : Bool) : Run State := do
  let pair := lw && s.simd && d.pairs
  match l.place with
  | .iop r => do
    if l.toAll then s.busReady l false
    let w ← regWidth r d.isPx pair
    s.datumReady d w
    let u ← s.writeIop t r d.isPx pair (s.datumWord d)
    .ok (u.send { l with width := w } (s.datumWord d w) none)
  | .otherIop r => do
    let w ← regWidth r d.isPx pair
    s.datumReady d w
    s.busReady l false
    .ok (t.output (.remoteStore l.addr w (s.datumWord d w)))
  | _ => .ok t

/-- The word is a register of an I/O processor. -/
def Place.isReg : Place → Bool
  | .iop _ => true
  | .otherIop _ => true
  | _ => false

/-- The datum of the implicit store, if the access makes one: a short or normal word in SIMD mode (20_memory.md R160). -/
def State.implicitDatum (s : State) (d : Datum) (l : Loc) (g : Gate) (explicitOnly : Bool) : Option Datum :=
  if s.simd && g.y && !explicitOnly && (l.width == 16 || l.width == 32) then d.comp else none

/-- A store of a datum at an address (20_memory.md R140 to R165). `explicitOnly` in the dual accesses that make no implicit
transfer (20_memory.md R168). -/
def State.store (s t : State) (d : Datum) (a : W32) (lw : Bool) (g : Gate) (explicitOnly : Bool) : Run State := do
  let l ← s.locate a d.isPx lw
  if l.place.isReg then s.storeReg t d l lw
  else
    need (l.width != 64 || d.pairs) .illegalAccessWidth
    let v := s.datumWord d l.width
    let t1 ← if g.x then do
        s.datumReady d l.width
        s.writeWord t l v
      else .ok t
    match s.implicitDatum d l g explicitOnly with
    | some c => do
      s.datumReady c l.width
      let m ← s.implicitLoc l
      let t2 ← s.writeWord t1 m (s.datumWord c l.width)
      .ok ((t1.sameAccess t2).send l v (some (s.datumWord c l.width)))
    | none => .ok (t1.send l v none)

/-- A load from a register of an I/O processor: its width and its value, a free value where it is another processor's
(20_memory.md R126, R153, R165). -/
def State.loadReg (s t : State) (l : Loc) (px lwPair : Bool) (site : Nat) : Run (Nat × W64 × State) :=
  match l.place with
  | .iop r => s.readIop t r px lwPair
  | .otherIop r => do
    let w ← regWidth r px lwPair
    s.busReady l true
    .ok (w, lowPart (Config.freeLong (s.freeIdx + site)) w, t)
  | _ => .ok (0, 0, t)

/-- The gates of a broadcast load to the named register and to its complement: PEx's register loads by PEx's condition, PEy's
by PEy's, whichever of the two is named (20_memory.md R166, 40_compute_move.md R265). -/
def State.broadcastGate (s : State) (u : UReg) (g : Gate) : Bool × Bool :=
  let gy := if s.simd then g.y else g.x
  if u.inY then (gy, g.x) else (g.x, gy)

/-- What a word gives to the registers: to `u` and to its complement, each as its gate says; a broadcast load gives both the
same word (20_memory.md R166). -/
def loadedBy (u : UReg) (width : Nat) (v : W64) (gates : Bool × Bool) : List Loaded :=
  (if gates.1 then [⟨u, width, v⟩] else []) ++
    (match (if gates.2 then u.comp else none) with | some c => [⟨c, width, v⟩] | none => [])

/-- A load from a register of an I/O processor: one word, without an implicit transfer (20_memory.md R153, R165; LW with a
register that has no neighbour: DESIGN CHOICE, log 76). -/
def State.loadIop (s t : State) (u : UReg) (l : Loc) (lw : Bool) (gates : Bool × Bool) (site : Nat) :
    Run (List Loaded × State) := do
  let (w, v, t1) ← s.loadReg t l (u == .px) (lw && s.simd && u.pair?.isSome) site
  (regsOf u w).forM s.mayWrite
  .ok (loadedBy u w v gates, t1)

/-- A broadcast load: the word at the explicit address to both elements (20_memory.md R166). -/
def State.loadBoth (s t : State) (u : UReg) (l : Loc) (gates : Bool × Bool) (site : Nat) : Run (List Loaded × State) := do
  let (v, t1) ← s.readWord t l site
  (loadedBy u l.width v gates).forM fun x => (regsOf x.u l.width).forM s.mayWrite
  .ok (loadedBy u l.width v gates, t1)

/-- The register of the implicit load, if the access makes one: a short or normal word in SIMD mode (20_memory.md R160). -/
def State.implicitReg (s : State) (u : UReg) (l : Loc) (g : Gate) (explicitOnly : Bool) : Option UReg :=
  if s.simd && g.y && !explicitOnly && (l.width == 16 || l.width == 32) then u.comp else none

/-- A load of the explicit word, and of the implicit word to the complement (20_memory.md R160 to R162). -/
def State.loadEach (s t : State) (u : UReg) (l : Loc) (g : Gate) (explicitOnly : Bool) (site : Nat) :
    Run (List Loaded × State) := do
  let (xs, t1) ← if g.x then do
      (regsOf u l.width).forM s.mayWrite
      let (v, t1) ← s.readWord t l site
      Except.ok ([⟨u, l.width, v⟩], t1)
    else Except.ok ([], t)
  match s.implicitReg u l g explicitOnly with
  | some c => do
    s.mayWrite c
    let m ← s.implicitLoc l
    let (v, t2) ← s.readWord t1 m (site + 1)
    .ok (xs ++ [⟨c, l.width, v⟩], t1.sameAccess t2)
  | none => .ok (xs, t1)

/-- A load of a register from an address, with what it gives to the registers (20_memory.md R140 to R166). `broadcast`
writes the register's complement too, with the same word. -/
def State.load (s t : State) (u : UReg) (a : W32) (lw broadcast : Bool) (g : Gate) (explicitOnly : Bool) (site : Nat) :
    Run (List Loaded × State) := do
  let l ← s.locate a (u == .px) lw
  let gates := if broadcast then s.broadcastGate u g else (g.x, false)
  if l.place.isReg then s.loadIop t u l lw gates site
  else
    need (l.width != 64 || u == .px || u.pair?.isSome) .illegalAccessWidth
    if l.width = 16 then s.useMode1 0x4000
    if broadcast then s.loadBoth t u l gates site else s.loadEach t u l g explicitOnly site

/-! ### The PM bus and the instruction cache -/

/-- The set of an instruction address in the cache (10_state.md R45). -/
def cacheSet (a : W24) : Fin 16 := Fin.ofNat 16 (a.extractLsb' 0 4).toNat

/-- A data access over the PM bus: the fetch of the instruction two on comes from the cache, or fills it (10_state.md R45,
20_memory.md R186). Not right after a change of CADIS or CAFRZ (70_reset_and_hazards.md R800). DESIGN CHOICE (log 102): a hit
makes its entry the most recently used one of the set while CAFRZ = 1 too. DESIGN CHOICE (log 109): with CADIS = 1 the entries stay as
they are. -/
def State.pmAccess (s t : State) : Run State := do
  need (s.changed.mode2 &&& 0x00080010 == 0) .latencyHazard
  if s.reg.mode2.getLsbD 4 then .ok t
  else
    let a := s.upcoming.2
    let set := t.seq.cache[cacheSet a]
    let put (q : Sequencer) (es : List CacheEntry) : Sequencer := { q with cache := q.cache.set (cacheSet a).val es (cacheSet a).isLt }
    match set.find? (fun e => e.tag == a) with
    | some e =>
      .ok (t.mapSeq fun q => { put q (e :: set.filter (fun x => x.tag != a)) with cachedFaddr := some e.word })
    | none =>
      match fetchKey a with
      | some k =>
        if s.reg.mode2.getLsbD 19 then .ok t
        else .ok (t.mapSeq fun q => put q ((⟨a, BitVec.ofNat 48 (s.mem.load k 6)⟩ :: set).take 2))
      | none => .ok t

/-! ### A move between a register and memory -/

/-- The direction of a move with its register. -/
inductive MemOp where
  | load (u : UReg)
  | store (d : Datum)
deriving DecidableEq, Repr

/-- A memory move: the bus (`pm` for the PM bus, addressed by DAG2), the address, the LW option. -/
structure MemMove where
  op : MemOp
  pm : Bool
  mode : AddrMode
  lw : Bool
deriving DecidableEq, Repr

/-- A load of a data register through I1 or I9 is a broadcast load (20_memory.md R166). -/
def broadcastBy (mode1 : W32) (u : UReg) : AddrMode → Bool
  | .direct _ => false
  | .post i _ => by1 i
  | .pre i _ => by1 i
where
  /-- I1 with BDCST1, I9 with BDCST9. -/
  by1 (i : Reg) : Bool := u.dreg?.isSome && ((i == 1 && mode1.getLsbD 23) || (i == 9 && mode1.getLsbD 22))

/-- The MODE1 broadcast bit that a load through an index register reads. -/
def broadcastMask : AddrMode → W32
  | .direct _ => 0
  | .post i _ => if i = 1 then 0x00800000 else if i = 9 then 0x00400000 else 0
  | .pre i _ => if i = 1 then 0x00800000 else if i = 9 then 0x00400000 else 0

/-- The registers of the move are not of the address generator in use: forbidden for a store, and for a load that updates
the index (20_memory.md R176, 70_reset_and_hazards.md R805, U11). -/
def MemMove.selfTransfer (m : MemMove) : Bool :=
  let same (u : UReg) (i : Reg) : Bool :=
    match u.dag? with
    | some (_, n) => n.getLsbD 3 == i.getLsbD 3
    | none => false
  match m.op, m.mode with
  | _, .direct _ => false
  | .load u, .post i _ => same u i
  | .load _, .pre _ _ => false
  | .store (.reg u), .post i _ => same u i
  | .store (.reg u), .pre i _ => same u i
  | .store (.imm _), _ => false

/-- A memory move up to its register writes: the access and the index update (40_compute_move.md R265, R272). A move that
no half lets through does nothing (R260), but a conditional one in SIMD mode still needs an address it may have (R264). -/
def State.memMove (s t : State) (m : MemMove) (g : Gate) (explicitOnly : Bool) (site : Nat) : Run (List Loaded × State) :=
  if !g.any && !(s.simd && g.conditional) then .ok ([], t)
  else do
    s.useMode1 0x00200000
    let a ← s.address m.mode
    s.gateOk g a
    if !g.any then .ok ([], t)
    else
      need (!m.selfTransfer) .dagSelfTransfer
      let t1 ← if m.pm then s.pmAccess t else .ok t
      let (xs, t2) ← match m.op with
        | .load u => do
          s.useMode1 (broadcastMask m.mode)
          s.load t1 u a m.lw (broadcastBy s.reg.mode1 u m.mode) g explicitOnly site
        | .store d => do
          let t2 ← s.store t1 d a m.lw g explicitOnly
          .ok (([] : List Loaded), t2)
      let t3 ← s.postModify t2 m.mode
      .ok (xs, t3)

/-- The move is a broadcast load. -/
def MemMove.broadcast (mode1 : W32) (m : MemMove) : Bool :=
  match m.op with
  | .load u => broadcastBy mode1 u m.mode
  | .store _ => false

/-- What the hardware notes of a memory move once its registers are written, so that a load of STKYx or IRPTL in the same
instruction does not lose it: IRA and U64MA of the explicit access, and the wrap of a circular buffer (60_exceptions.md
R607, R613, R615, log 60). -/
def State.report (s t : State) (m : MemMove) (g : Gate) : Run State :=
  if !g.any then .ok t
  else do
    let a ← s.address m.mode
    let t1 ← if g.x || m.broadcast s.reg.mode1 then s.detect t a m.lw else .ok t
    .ok (s.postReport t1 m.mode)

/-- The registers that a memory move loads where its condition holds, the neighbour of a long word among them; the
complement has the same number (20_memory.md R145, R160). -/
def State.loadDests (s : State) (m : MemMove) : List UReg :=
  match m.op with
  | .store _ => []
  | .load u =>
    match (s.address m.mode).bind fun a => s.locate a (u == .px) m.lw with
    | .ok l => regsOf u l.width
    | .error _ => [u]

/-- One of the registers is a data register with a number in `dests`. -/
def clashes (us : List UReg) (dests : List Reg) : Bool :=
  us.any fun u => match u.dreg? with
    | some (_, n) => dests.contains n
    | none => false

/-- A conditional move in SIMD mode must not share a destination with the compute of the same instruction, which writes the
data registers `dests` (40_compute_move.md R261, U16). -/
def State.apart (s : State) (g : Gate) (us : List UReg) (dests : List Reg) : Run Unit :=
  need (!(s.simd && g.conditional && clashes us dests)) .simdSameDestination

/-- A memory move whole; a CURLCNTR loaded from memory is noted (U14). -/
def State.move (s t : State) (m : MemMove) (g : Gate) (dests : List Reg) : Run State := do
  let (xs, t1) ← s.memMove t m g false 4
  s.apart g (s.loadDests m) dests
  let t2 ← t1.putAll s.reg.mode1 xs
  let t3 ← s.report t2 m g
  .ok (if xs.any (fun x => x.u == .curlcntr) then { t3 with recent := { t3.recent with curlcntr := true } } else t3)

/-! ### Two accesses in one instruction -/

/-- The other processor that holds the word, none for this one (20_memory.md R126). -/
def Loc.owner (l : Loc) : Option (BitVec 3) :=
  match l.place with
  | .other => some (l.addr.extractLsb' 20 3)
  | .otherIop _ => some (l.addr.extractLsb' 20 3)
  | _ => none

/-- The first internal column of the word, in its owner's memory (20_memory.md R126). -/
def Loc.column? (l : Loc) : Option Nat :=
  match l.place with
  | .cells f => some f
  | .other => some (normalCol l.addr)
  | _ => none

/-- The register of the I/O processor that the word is, its owner's (20_memory.md R126). -/
def Loc.reg? (l : Loc) : Option IopReg :=
  match l.place with
  | .iop a => iopReg a
  | .otherIop a => iopReg a
  | _ => none

/-- Some processor holds both words of two stores; a broadcast store reaches every processor (20_memory.md R126). -/
def Loc.together (l m : Loc) : Bool := l.toAll || m.toAll || l.owner == m.owner

/-- Two words that are stored share a location: in external memory, or in one processor's internal memory or registers,
whichever addresses name it (20_memory.md R126, R167). -/
def Loc.overlaps (l m : Loc) : Bool :=
  match l.place, m.place with
  | .ext, .ext => meets l.addr.toNat (l.width / 32) m.addr.toNat (m.width / 32)
  | _, _ =>
    l.together m &&
      (match l.column?, m.column? with
       | some a, some b => meets a (l.width / 16) b (m.width / 16)
       | _, _ => l.reg?.isSome && l.reg? == m.reg?)

/-- A short or normal word, which has an implicit transfer in SIMD mode (20_memory.md R168). -/
def Loc.narrow (l : Loc) : Bool := l.width == 16 || l.width == 32

/-- The words an access of a data register covers, with the implicit one. -/
def State.covered (s : State) (l : Loc) : Run (List Loc) :=
  if s.simd && l.narrow && !l.place.isReg then do
    let m ← s.implicitLoc l
    .ok [l, m]
  else .ok [l]

/-- One side of a Type 1 instruction. -/
def sideMove (write pm : Bool) (i m : DagNum) (u : UReg) : MemMove :=
  { op := if write then .store (.reg u) else .load u, pm := pm
    mode := .post (dagNumber pm i) (.reg (dagNumber pm m)), lw := false }

/-- The DM access and the PM access of a Type 1 instruction (20_memory.md R167, R168): DM first in memory and with
precedence in the registers (10_state.md R22). In SIMD mode two 48- or 64-bit words move only the explicit locations, the
PM bus then serving S registers (DEDUCED, log 14). -/
def State.dualAccess (s t : State) (dmWrite : Bool) (dmI dmM : DagNum) (dmReg : Reg) (pmWrite : Bool) (pmI pmM : DagNum)
    (pmReg : Reg) : Run State := do
  s.useMode1 0x00200000
  let m1 := sideMove dmWrite false dmI dmM (.r dmReg)
  let a1 ← s.address m1.mode
  let l1 ← s.locate a1 false false
  let a2 ← s.address (sideMove pmWrite true pmI pmM (.r pmReg)).mode
  let l2 ← s.locate a2 false false
  need (!s.simd || l1.narrow == l2.narrow) .dualAccessConflict
  if dmWrite && pmWrite then
    let w1 ← s.covered l1
    let w2 ← s.covered l2
    need (!(w1.any fun x => w2.any x.overlaps)) .dualAccessConflict
  let explicitOnly := s.simd && !l1.narrow
  let m2 := sideMove pmWrite true pmI pmM (if explicitOnly then .s pmReg else .r pmReg)
  let (xs, t1) ← s.memMove t m1 ⟨true, true, false⟩ explicitOnly 4
  let (ys, t2) ← s.memMove t1 m2 ⟨true, true, false⟩ explicitOnly 6
  let t3 ← t2.putAll s.reg.mode1 (ys ++ xs)
  let t4 ← s.report t3 m1 ⟨true, true, false⟩
  s.report t4 m2 ⟨true, true, false⟩

end Sys2Proof.Machine
end

