-- ==== Sys2Proof/Machine/FixedAlu.lean ====
section
/-!
DEFINITION. Machine/FixedAlu.lean: what the fixed-point ALU computes (44_alu_fixed.md): result, flags and sticky bit of
every operation, as functions of the 32-bit operands.
-/
namespace Sys2Proof.Machine

/-- What an ALU operation delivers: the 40-bit word for the result register, the flags, the sticky bits set. -/
structure AluOut where
  val : W40
  fl : AluFlags
  stky : W32
deriving DecidableEq, Repr

/-- A 32-bit result in a 40-bit register: the low eight bits are 0 (44_alu_fixed.md R400). -/
def padded (r : W32) : W40 := r ++ 0#8

/-- The adder: sum, carry from bit 31, overflow (44_alu_fixed.md R401). -/
def add32 (a b : W32) (cin : Bool) : W32 × Bool × Bool :=
  let t := a.setWidth 33 + b.setWidth 33 + (BitVec.ofBool cin).setWidth 33
  let s := t.setWidth 32
  (s, t.msb, a.msb == b.msb && s.msb != a.msb)

/-- Saturation of an overflowed sum when MODE1.ALUSAT is set (44_alu_fixed.md R402). -/
def saturate (mode1 s : W32) (v : Bool) : W32 :=
  if alusat mode1 && v then (if s.msb then 0x7FFFFFFF else 0x80000000) else s

/-- The outcome of an addition: result saturated, flags from the result, AOS on overflow (44_alu_fixed.md R402, R403). -/
def addOut (mode1 a b : W32) (cin : Bool) : AluOut :=
  let (s, c, v) := add32 a b cin
  let r := saturate mode1 s v
  ⟨padded r, ⟨r == 0, v, r.msb, c, false, false, false⟩, fixSticky v⟩

/-- The outcome of an operation that cannot overflow: AZ and AN from the result, the rest cleared (44_alu_fixed.md R426). -/
def logicOut (r : W32) : AluOut := ⟨padded r, ⟨r == 0, false, r.msb, false, false, false, false⟩, 0⟩

/-- `Rx + Ry` (44_alu_fixed.md R407). -/
def opAdd (mode1 x y : W32) : AluOut := addOut mode1 x y false
/-- `Rx - Ry` (44_alu_fixed.md R408). -/
def opSub (mode1 x y : W32) : AluOut := addOut mode1 x (~~~y) true
/-- `Rx + Ry + CI` (44_alu_fixed.md R409). -/
def opAddCi (mode1 x y : W32) (ac : Bool) : AluOut := addOut mode1 x y ac
/-- `Rx - Ry + CI - 1` (44_alu_fixed.md R410). -/
def opSubCi (mode1 x y : W32) (ac : Bool) : AluOut := addOut mode1 x (~~~y) ac

/-- `(Rx + Ry)/2`: half of the exact sum, a tie to even or truncated (44_alu_fixed.md R411, OPEN-1). -/
def opAvg (mode1 x y : W32) : AluOut :=
  let t : Int := x.toInt + y.toInt
  let q := t / 2
  let r : Int :=
    if t % 2 = 0 then q
    else if trunc mode1 then (if t < 0 && Config.avgTruncTowardZero then q + 1 else q)
    else if q % 2 = 0 then q else q + 1
  let r32 := BitVec.ofInt 32 r
  ⟨padded r32, ⟨r32 == 0, false, r32.msb, (add32 x y false).2.1, false, false, false⟩, 0⟩

/-- `Rx + CI` (44_alu_fixed.md R412). -/
def opPlusCi (mode1 x : W32) (ac : Bool) : AluOut := addOut mode1 x 0 ac
/-- `Rx + CI - 1` (44_alu_fixed.md R413). -/
def opPlusCiM1 (mode1 x : W32) (ac : Bool) : AluOut := addOut mode1 x 0xFFFFFFFF ac
/-- `Rx + 1` (44_alu_fixed.md R414). -/
def opInc (mode1 x : W32) : AluOut := addOut mode1 x 0 true
/-- `Rx - 1` (44_alu_fixed.md R415). -/
def opDec (mode1 x : W32) : AluOut := addOut mode1 x 0xFFFFFFFF false
/-- `-Rx` (44_alu_fixed.md R416). -/
def opNeg (mode1 x : W32) : AluOut := addOut mode1 0 (~~~x) true

/-- `ABS Rx`: AS is the sign of the operand, AN and AC are cleared (44_alu_fixed.md R417). -/
def opAbs (mode1 x : W32) : AluOut :=
  let v := x == 0x80000000
  let r := saturate mode1 (if x.msb then -x else x) v
  ⟨padded r, ⟨r == 0, v, false, false, x.msb, false, false⟩, fixSticky v⟩

/-- `PASS Rx` (44_alu_fixed.md R418). -/
def opPass (x : W32) : AluOut := logicOut x
/-- `Rx AND Ry` (44_alu_fixed.md R419). -/
def opAnd (x y : W32) : AluOut := logicOut (x &&& y)
/-- `Rx OR Ry` (44_alu_fixed.md R420). -/
def opOr (x y : W32) : AluOut := logicOut (x ||| y)
/-- `Rx XOR Ry` (44_alu_fixed.md R421). -/
def opXor (x y : W32) : AluOut := logicOut (x ^^^ y)
/-- `NOT Rx` (44_alu_fixed.md R422). -/
def opNot (x : W32) : AluOut := logicOut (~~~x)
/-- `MIN(Rx, Ry)` (44_alu_fixed.md R423). -/
def opMin (x y : W32) : AluOut := logicOut (if x.sle y then x else y)
/-- `MAX(Rx, Ry)` (44_alu_fixed.md R424). -/
def opMax (x y : W32) : AluOut := logicOut (if y.sle x then x else y)
/-- `CLIP Rx BY Ry` (44_alu_fixed.md R425). -/
def opClip (x y : W32) : AluOut :=
  logicOut (if x.toInt.natAbs < y.toInt.natAbs then x
    else if x.msb then BitVec.ofInt 32 (-(y.toInt.natAbs : Int)) else BitVec.ofNat 32 y.toInt.natAbs)

/-- What a comparison delivers: the flags, "greater" for CACC, the sticky bits set (44_alu_fixed.md R406). -/
structure CmpOut where
  fl : AluFlags
  gt : Bool
  stky : W32
deriving DecidableEq, Repr

/-- `COMP(Rx, Ry)`: signed (44_alu_fixed.md R406). -/
def opComp (x y : W32) : CmpOut := ⟨⟨x == y, false, x.slt y, false, false, false, false⟩, y.slt x, 0⟩
/-- `COMPU(Rx, Ry)`: unsigned (44_alu_fixed.md R428). -/
def opCompu (x y : W32) : CmpOut := ⟨⟨x == y, false, x.ult y, false, false, false, false⟩, y.ult x, 0⟩

/-- `Ra = Rx + Ry, Rs = Rx - Ry`: both results, the flags ORed (48_multifunction.md R571). -/
def opDualFix (mode1 x y : W32) : W40 × W40 × AluFlags × W32 :=
  let p := opAdd mode1 x y
  let m := opSub mode1 x y
  (p.val, m.val, p.fl.or m.fl, p.stky ||| m.stky)

end Sys2Proof.Machine
end

