-- ==== Sys2Proof/Machine/FloatAlu.lean ====
section
/-!
DEFINITION. Machine/FloatAlu.lean: the 40-bit floating-point format, rounding, and what the floating-point ALU computes
(45_alu_float.md). A number is kept exactly: its significand as a natural number and a power of two.
-/
namespace Sys2Proof.Machine

/-! ### Format and rounding -/

/-- A conditioned operand: `num s e m` is `(-1)^s * m * 2^(e - 158)` with `m` the 32-bit significand 1.f
(45_alu_float.md R440, R441). -/
inductive Flt where
  | nan
  | inf (s : Bool)
  | zero (s : Bool)
  | num (s : Bool) (e : Nat) (m : Nat)
deriving DecidableEq, Repr

/-- The biased exponent of a word. -/
def expOf (w : W40) : Nat := (w.extractLsb' 31 8).toNat
/-- The 31 fraction bits of a word. -/
def fracOf (w : W40) : BitVec 31 := w.extractLsb' 0 31

/-- A word cut to 32 bits when MODE1.RND32 is set (45_alu_float.md R441 step 1). -/
def cutInput (mode1 : W32) (w : W40) : W40 := if rnd32 mode1 then w &&& 0xFFFFFFFF00 else w

/-- The word an operation works on: cut, and a denormal replaced by a zero of its sign (45_alu_float.md R441). -/
def condWord (mode1 : W32) (w : W40) : W40 :=
  let c := cutInput mode1 w
  if expOf c = 0 then BitVec.ofBool c.msb ++ 0#39 else c

/-- The class of a conditioned word (45_alu_float.md R440). -/
def classify (c : W40) : Flt :=
  if expOf c = 255 then (if fracOf c = 0 then .inf c.msb else .nan)
  else if expOf c = 0 then .zero c.msb
  else .num c.msb (expOf c) (2 ^ 31 + (fracOf c).toNat)

/-- `inF` (45_alu_float.md R441). -/
def inF (mode1 : W32) (w : W40) : Flt := classify (condWord mode1 w)

/-- A word from sign, biased exponent and fraction. -/
def packF (s : Bool) (e : Nat) (f : Nat) : W40 := BitVec.ofBool s ++ BitVec.ofNat 8 e ++ BitVec.ofNat 31 f

/-- Infinity of a sign. -/
def infWord (s : Bool) : W40 := packF s 255 0
/-- Zero of a sign. -/
def zeroWord (s : Bool) : W40 := packF s 0 0
/-- The NAN result: all forty bits 1 (45_alu_float.md R443). -/
def all1F : W40 := 0xFFFFFFFFFF

/-- The precision of a result: 24 or 32 significant bits (45_alu_float.md R442). -/
def precision (mode1 : W32) : Nat := if rnd32 mode1 then 24 else 32

/-- `m / 2^d` rounded: truncated, or to nearest with a tie to even (45_alu_float.md R442 (2)). -/
def roundShift (toZero : Bool) (m d : Nat) : Nat :=
  let n := m >>> d
  let rem := m % 2 ^ d
  if toZero then n
  else if 2 * rem > 2 ^ d || (2 * rem == 2 ^ d && n % 2 == 1) then n + 1 else n

/-- What rounding and packing give: the word, overflow, underflow. -/
structure Packed where
  word : W40
  ovf : Bool
  unf : Bool
deriving DecidableEq, Repr

/-- `outF` of the magnitude `m * 2^x`, `m > 0`, with `p` significant bits (45_alu_float.md R442). -/
def outF (mode1 : W32) (p : Nat) (s : Bool) (m : Nat) (x : Int) : Packed :=
  let l := Nat.log2 m
  let n0 := if l + 1 ≤ p then m <<< (p - 1 - l) else roundShift (trunc mode1) m (l + 1 - p)
  let carry := n0 == 2 ^ p
  let n := if carry then 2 ^ (p - 1) else n0
  let e : Int := (l : Int) + x + (if carry then 1 else 0)
  if e > 127 then
    ⟨if trunc mode1 then packF s 254 ((2 ^ (p - 1) - 1) <<< (32 - p)) else infWord s, true, false⟩
  else if e < -126 then ⟨zeroWord s, false, true⟩
  else ⟨packF s (e + 127).toNat ((n - 2 ^ (p - 1)) <<< (32 - p)), false, false⟩

/-! ### Delivery -/

/-- A floating-point ALU result: `s` is AS, `u` the underflow report (45_alu_float.md R444). -/
def fltOut (w : W40) (z v n s i u : Bool) : AluOut := ⟨w, ⟨z, v, n, false, s, i, true⟩, fltSticky u v i⟩

/-- The result of an invalid operation or a NAN operand (45_alu_float.md R443). -/
def nanOut : AluOut := fltOut all1F false false true false true false

/-- The sum of exact magnitudes: the sign, the magnitude and its power of two; magnitude 0 is an exact zero. -/
def exactSum (sa : Bool) (ea ma : Nat) (sb : Bool) (eb mb : Nat) : Int × Int :=
  let e := Nat.min ea eb
  let a : Int := (ma <<< (ea - e) : Nat)
  let b : Int := (mb <<< (eb - e) : Nat)
  ((if sa then -a else a) + (if sb then -b else b), (e : Int) - 158)

/-- The packed sum of two finite operands (45_alu_float.md R445 (d)). -/
def finiteSum (mode1 : W32) (sa : Bool) (ea ma : Nat) (sb : Bool) (eb mb : Nat) (half : Bool) : AluOut :=
  let (t, x) := exactSum sa ea ma sb eb mb
  if t = 0 then fltOut (zeroWord (sa && sb)) true false (sa && sb) false false false
  else
    let s := decide (t < 0)
    let r := outF mode1 (precision mode1) s t.natAbs (if half then x - 1 else x)
    fltOut r.word r.unf r.ovf s false false r.unf

/-- `sumF` (45_alu_float.md R445). -/
def sumF (mode1 : W32) (a b : Flt) (half : Bool) : AluOut :=
  match a, b with
  | .nan, _ => nanOut
  | _, .nan => nanOut
  | .inf sa, .inf sb => if sa = sb then fltOut (infWord sa) false false sa false false false else nanOut
  | .inf s, _ => fltOut (infWord s) false false s false false false
  | _, .inf s => fltOut (infWord s) false false s false false false
  | .zero sa, .zero sb => finiteSum mode1 sa 1 0 sb 1 0 half
  | .zero sa, .num sb eb mb => finiteSum mode1 sa eb 0 sb eb mb half
  | .num sa ea ma, .zero sb => finiteSum mode1 sa ea ma sb ea 0 half
  | .num sa ea ma, .num sb eb mb => finiteSum mode1 sa ea ma sb eb mb half

/-- The operand with its sign inverted, when it is not a NAN (45_alu_float.md R447). -/
def Flt.neg : Flt → Flt
  | .nan => .nan
  | .inf s => .inf !s
  | .zero s => .zero !s
  | .num s e m => .num (!s) e m

/-- An operand's sign; of a NAN it is not used. -/
def Flt.sign : Flt → Bool
  | .nan => false
  | .inf s => s
  | .zero s => s
  | .num s _ _ => s

/-- The operand is a zero. -/
def Flt.isZero : Flt → Bool
  | .zero _ => true
  | _ => false

/-- A magnitude as a number that orders like it: zero, the numbers by exponent and significand, infinity. -/
def Flt.mag : Flt → Nat
  | .nan => 0
  | .zero _ => 0
  | .num _ e m => m <<< e
  | .inf _ => 1 <<< 400

/-- The value as an integer that orders like it; both zeros are 0. -/
def Flt.rank (a : Flt) : Int := if a.sign then -(a.mag : Int) else (a.mag : Int)

/-- A word with another sign. -/
def withSign (w : W40) (s : Bool) : W40 := BitVec.ofBool s ++ w.extractLsb' 0 39

/-! ### The operations -/

/-- `Fx + Fy` (45_alu_float.md R446). -/
def opFadd (mode1 : W32) (x y : W40) : AluOut := sumF mode1 (inF mode1 x) (inF mode1 y) false
/-- `Fx - Fy` (45_alu_float.md R447). -/
def opFsub (mode1 : W32) (x y : W40) : AluOut := sumF mode1 (inF mode1 x) (inF mode1 y).neg false

/-- The absolute value of a sum: AN is cleared, and the sign but for a NAN result (45_alu_float.md R448). -/
def absOfSum (r : AluOut) : AluOut :=
  { r with val := if r.val = all1F then r.val else withSign r.val false, fl := { r.fl with an := false } }

/-- `ABS (Fx + Fy)` (45_alu_float.md R448). -/
def opFabsAdd (mode1 : W32) (x y : W40) : AluOut := absOfSum (opFadd mode1 x y)
/-- `ABS (Fx - Fy)` (45_alu_float.md R448). -/
def opFabsSub (mode1 : W32) (x y : W40) : AluOut := absOfSum (opFsub mode1 x y)
/-- `(Fx + Fy)/2` (45_alu_float.md R449). -/
def opFavg (mode1 : W32) (x y : W40) : AluOut := sumF mode1 (inF mode1 x) (inF mode1 y) true

/-- `COMP(Fx, Fy)`: unordered when an operand is a NAN (45_alu_float.md R450). -/
def opFcomp (mode1 : W32) (x y : W40) : CmpOut :=
  let a := inF mode1 x
  let b := inF mode1 y
  if a = .nan || b = .nan then ⟨⟨false, false, false, false, false, true, true⟩, false, fltSticky false false true⟩
  else ⟨⟨decide (a.rank = b.rank), false, decide (a.rank < b.rank), false, false, false, true⟩,
    decide (b.rank < a.rank), 0⟩

/-- The outcome of an operation that passes a conditioned word on: AZ for a zero, AN the sign. -/
def passOut (isZero : Bool) (w : W40) (as : Bool) : AluOut := fltOut w isZero false w.msb as false false

/-- `-Fx` (45_alu_float.md R451). -/
def opFneg (mode1 : W32) (x : W40) : AluOut :=
  let c := condWord mode1 x
  if classify c = .nan then nanOut else passOut (classify c).isZero (withSign c !c.msb) false

/-- `ABS Fx`: AS is the sign of the operand (45_alu_float.md R452). -/
def opFabs (mode1 : W32) (x : W40) : AluOut :=
  let c := condWord mode1 x
  if classify c = .nan then fltOut all1F false false false x.msb true false
  else passOut (classify c).isZero (withSign c false) x.msb

/-- `PASS Fx` (45_alu_float.md R453). -/
def opFpass (mode1 : W32) (x : W40) : AluOut :=
  let c := condWord mode1 x
  if classify c = .nan then nanOut else passOut (classify c).isZero c false

/-- `RND Fx`: to 24 significant bits, no underflow report (45_alu_float.md R454). -/
def opFrnd (mode1 : W32) (x : W40) : AluOut :=
  match inF mode1 x with
  | .nan => nanOut
  | .inf s => passOut false (infWord s) false
  | .zero s => passOut true (zeroWord s) false
  | .num s e m =>
      let r := outF mode1 24 s m ((e : Int) - 158)
      fltOut r.word false r.ovf s false false false

/-- `SCALB Fx BY Ry` (45_alu_float.md R455). -/
def opScalb (mode1 : W32) (x : W40) (k : W32) : AluOut :=
  match inF mode1 x with
  | .nan => nanOut
  | .inf s => passOut false (infWord s) false
  | .zero s => passOut true (zeroWord s) false
  | .num s e m =>
      let r := outF mode1 (precision mode1) s m ((e : Int) - 158 + k.toInt)
      fltOut r.word r.unf r.ovf s false false r.unf

/-- `MANT Fx`: the significand in 1.31 format (45_alu_float.md R456). -/
def opMant (mode1 : W32) (x : W40) : AluOut :=
  match inF mode1 x with
  | .nan => fltOut (padded 0xFFFFFFFF) false false false x.msb true false
  | .inf _ => fltOut (padded 0xFFFFFFFF) false true false x.msb false false
  | .zero _ => fltOut 0 true false false x.msb false false
  | .num _ _ m => fltOut (padded (BitVec.ofNat 32 m)) false false false x.msb false false

/-- `LOGB Fx` (45_alu_float.md R457). -/
def opLogb (mode1 : W32) (x : W40) : AluOut :=
  match inF mode1 x with
  | .nan => nanOut
  | .inf _ => fltOut (if alusat mode1 then padded 0x7FFFFFFF else infWord false) false true false false false false
  | .zero _ => fltOut (if alusat mode1 then padded 0x80000000 else infWord true) false true true false false false
  | .num _ e _ =>
      let r := BitVec.ofInt 32 ((e : Int) - 127)
      fltOut (padded r) (r == 0) false r.msb false false false

/-- How a conversion to an integer rounds (45_alu_float.md R458). -/
inductive FixRound where
  | nearest | floor | toZero
deriving DecidableEq, Repr

/-- The rounding of FIX by MODE1.TRUNC (45_alu_float.md R458). -/
def fixRound (mode1 : W32) : FixRound := if trunc mode1 then .floor else .nearest

/-- A conversion result: z and n from the word (45_alu_float.md R458). -/
def fixWord (w : W40) (v i u : Bool) : AluOut := fltOut w (w.extractLsb' 8 32 == 0) v w.msb false i u

/-- An overflowed conversion (45_alu_float.md R458 (e)). -/
def fixOverflow (mode1 : W32) (s : Bool) : AluOut :=
  if alusat mode1 then fixWord (padded (if s then 0x80000000 else 0x7FFFFFFF)) true false false
  else fixWord all1F true true false

/-- The conversion of `FIX` and `TRUNC`, with the exponent raised by `k` (45_alu_float.md R458). A right shift of 64 bits
or more leaves the same integer and remainder classes as one of 64. -/
def convertToFix (mode1 : W32) (rnd : FixRound) (x : W40) (k : Int) : AluOut :=
  match inF mode1 x with
  | .nan => nanOut
  | .zero _ => fltOut 0 true false false false false false
  | .inf s => fixOverflow mode1 s
  | .num s e m =>
      if (e : Int) + k > 157 then fixOverflow mode1 s
      else
        let d := Nat.min (158 - ((e : Int) + k)).toNat 64
        let j : Int := match rnd with
          | .nearest => if s then -(roundShift false m d : Int) else (roundShift false m d : Int)
          | .toZero => if s then -((m >>> d : Nat) : Int) else ((m >>> d : Nat) : Int)
          | .floor => if s then (-(m : Int)) / 2 ^ d else ((m >>> d : Nat) : Int)
        if j > 2147483647 then fixOverflow mode1 s
        else fixWord (padded (BitVec.ofInt 32 j)) false false (decide ((e : Int) + k < 126))

/-- `FIX Fx` (45_alu_float.md R458). -/
def opFix (mode1 : W32) (x : W40) : AluOut := convertToFix mode1 (fixRound mode1) x 0
/-- `FIX Fx BY Ry` (45_alu_float.md R458). -/
def opFixBy (mode1 : W32) (x : W40) (k : W32) : AluOut := convertToFix mode1 (fixRound mode1) x k.toInt
/-- `TRUNC Fx` (45_alu_float.md R458). -/
def opTrunc (mode1 : W32) (x : W40) : AluOut := convertToFix mode1 .toZero x 0
/-- `TRUNC Fx BY Ry` (45_alu_float.md R458). -/
def opTruncBy (mode1 : W32) (x : W40) (k : W32) : AluOut := convertToFix mode1 .toZero x k.toInt

/-- The conversion of `FLOAT`: 32 significant bits whatever RND32 is (45_alu_float.md R459). -/
def convertToFloat (mode1 x : W32) (k : Int) : AluOut :=
  if x = 0 then fltOut 0 true false false false false false
  else
    let r := outF mode1 32 x.msb x.toInt.natAbs k
    fltOut r.word r.unf r.ovf x.msb false false r.unf

/-- `FLOAT Rx` (45_alu_float.md R459). -/
def opFloat (mode1 x : W32) : AluOut := convertToFloat mode1 x 0
/-- `FLOAT Rx BY Ry` (45_alu_float.md R459). -/
def opFloatBy (mode1 x k : W32) : AluOut := convertToFloat mode1 x k.toInt

/-- The fraction `f` is a reciprocal seed for index `i` that is 8-bit accurate: for the smallest and the largest operand of the
index, and so for every one, the seed times the operand is within 2^-8 of 1 (45_alu_float.md R460). -/
def recipsAccurate (i f : Nat) : Bool :=
  2 ^ 63 - 2 ^ 55 < (2 ^ 31 + f) * ((128 + i) * 2 ^ 24) && (2 ^ 31 + f) * ((129 + i) * 2 ^ 24 - 1) < 2 ^ 63 + 2 ^ 55

/-- The reciprocal seed's fraction: what the table holds where it is 8-bit accurate, as R460 says it is, else the
midpoint of the accurate range (log 6). -/
def recipsSeed (i : BitVec 7) : Nat :=
  let f := (Config.recipsRom i).toNat
  if recipsAccurate i.toNat f then f else 2 ^ 40 / (257 + 2 * i.toNat) - 2 ^ 31

/-- `RECIPS Fx` (45_alu_float.md R460). -/
def opRecips (mode1 : W32) (x : W40) : AluOut :=
  let c := condWord mode1 x
  match classify c with
  | .nan => nanOut
  | .zero s => fltOut (infWord s) false true s false false false
  | .inf s => fltOut (zeroWord s) true false s false false true
  | .num s e _ =>
      if e ≥ 253 then fltOut (zeroWord s) true false s false false true
      else fltOut (packF s (253 - e) (recipsSeed (c.extractLsb' 24 7))) false false s false false false

/-- The fraction `f` is a reciprocal-square-root seed for exponent LSB `odd` and index `i` that is 4-bit accurate
(45_alu_float.md R461): for the smallest and the largest operand its square times the operand is between the squares of
1 - 2^-4 and 1 + 2^-4. -/
def rsqrtsAccurate (lsb : Bool) (i f : Nat) : Bool :=
  let s2 := (2 ^ 31 + f) * (2 ^ 31 + f) * (if lsb then 1 else 2)
  225 * 2 ^ 87 < s2 * ((64 + i) * 2 ^ 25) && s2 * ((65 + i) * 2 ^ 25 - 1) < 289 * 2 ^ 87

/-- The reciprocal-square-root seed's fraction: what the table holds where it is 4-bit accurate, as R461 says it is, else
a value of the accurate range (log 6). -/
def rsqrtsSeed (i : BitVec 7) : Nat :=
  let f := (Config.rsqrtsRom i).toNat
  if rsqrtsAccurate i.msb (i.toNat % 64) f then f
  else if i.msb then 2147483647 - (i.toNat % 64) * 19797000 else 889516852 - (i.toNat % 64) * 13898700

/-- `RSQRTS Fx` (45_alu_float.md R461): AN is set only for a negative zero. -/
def opRsqrts (mode1 : W32) (x : W40) : AluOut :=
  let c := condWord mode1 x
  match classify c with
  | .nan => fltOut all1F false false false false true false
  | .zero s => fltOut (infWord s) false true s false false false
  | .inf s => if s then fltOut all1F false false false false true false
      else fltOut (zeroWord false) true false false false false false
  | .num s e _ =>
      if s then fltOut all1F false false false false true false
      else fltOut (packF false (126 - ((e : Int) - 127) / 2).toNat (rsqrtsSeed (c.extractLsb' 25 7)))
        false false false false false false

/-- `Fx COPYSIGN Fy` (45_alu_float.md R462). -/
def opCopysign (mode1 : W32) (x y : W40) : AluOut :=
  let a := condWord mode1 x
  let b := condWord mode1 y
  if classify a = .nan || classify b = .nan then nanOut
  else passOut (classify a).isZero (withSign a b.msb) false

/-- Whether a conditioned word orders below another, -Zero below +Zero (45_alu_float.md R463). -/
def fltBelow (a b : W40) : Bool :=
  let p := classify a
  let q := classify b
  decide (p.rank < q.rank) || (decide (p.rank = q.rank) && a.msb && !b.msb)

/-- `MIN(Fx, Fy)` (45_alu_float.md R463). -/
def opFmin (mode1 : W32) (x y : W40) : AluOut :=
  let a := condWord mode1 x
  let b := condWord mode1 y
  if classify a = .nan || classify b = .nan then nanOut
  else
    let w := if fltBelow b a then b else a
    passOut (classify w).isZero w false

/-- `MAX(Fx, Fy)` (45_alu_float.md R464). -/
def opFmax (mode1 : W32) (x y : W40) : AluOut :=
  let a := condWord mode1 x
  let b := condWord mode1 y
  if classify a = .nan || classify b = .nan then nanOut
  else
    let w := if fltBelow a b then b else a
    passOut (classify w).isZero w false

/-- `CLIP Fx BY Fy` (45_alu_float.md R465). -/
def opFclip (mode1 : W32) (x y : W40) : AluOut :=
  let a := condWord mode1 x
  let b := condWord mode1 y
  if classify a = .nan || classify b = .nan then nanOut
  else
    let w := if (classify a).mag < (classify b).mag then a else withSign b a.msb
    passOut (classify w).isZero w false

/-- `Fa = Fx + Fy, Fs = Fx - Fy`: both results, the flags ORed (48_multifunction.md R575). -/
def opDualFlt (mode1 : W32) (x y : W40) : W40 × W40 × AluFlags × W32 :=
  let p := opFadd mode1 x y
  let m := opFsub mode1 x y
  (p.val, m.val, p.fl.or m.fl, p.stky ||| m.stky)

end Sys2Proof.Machine
end

