-- ==== Sys2Proof/Machine/MultiplierUnit.lean ====
section
/-!
DEFINITION. Machine/MultiplierUnit.lean: what the multiplier computes (46_multiplier.md): products, accumulation,
rounding, saturation, result register transfers and the floating-point product.
-/
namespace Sys2Proof

/-- The result register a part belongs to. -/
def MrPart.home : MrPart → Mr
  | .mr0f | .mr1f | .mr2f => .f
  | .mr0b | .mr1b | .mr2b => .b

end Sys2Proof

namespace Sys2Proof.Machine

/-- What a fixed-point multiplier operation delivers: all 80 bits, the flags, the sticky bits set. -/
structure MulOut where
  val : W80
  fl : MulFlags
  stky : W32
deriving DecidableEq, Repr

/-- A fixed-point operand as an integer: signed or unsigned. -/
def mulInput (signed : Bool) (w : W32) : Int := if signed then w.toInt else (w.toNat : Int)

/-- `Prod`: doubled when both operands are signed fractions (46_multiplier.md R492). -/
def product (m : MulMod) (x y : W32) : W80 :=
  let p := mulInput m.xSigned x * mulInput m.ySigned y
  BitVec.ofInt 80 (if m.frac && m.xSigned && m.ySigned then 2 * p else p)

/-- `RndMR`: to nearest at bit 32, a tie to even; the low bits by OPEN-2 (46_multiplier.md R493). -/
def roundMr (r : W80) : W80 :=
  let hi := r.extractLsb' 32 48
  let lo := r.extractLsb' 0 32
  let up := (0x80000000#32).ult lo || (lo == 0x80000000 && hi.getLsbD 0)
  (if up then hi + 1 else hi) ++ (if Config.mulRndKeepsLow then lo else 0#32)

/-- Every bit of `r` from bit `n` up is `b`. -/
def upperAll (r : W80) (n : Nat) (b : Bool) : Bool := r >>> n == (if b then BitVec.allOnes 80 >>> n else 0)

/-- The flags of a fixed-point result: sign, overflow of its format, underflow of a fraction (46_multiplier.md R495). -/
def mulFlags (r : W80) (signed frac : Bool) : MulFlags :=
  let mv := if signed then !(upperAll r (if frac then 63 else 31) false || upperAll r (if frac then 63 else 31) true)
    else !upperAll r (if frac then 64 else 32) false
  let mu := frac && r.extractLsb' 0 32 != 0 && (upperAll r 32 false || (signed && upperAll r 32 true))
  ⟨r.msb, mv, mu, false⟩

/-- STKY.MOS on overflow (46_multiplier.md R495). -/
def mulSticky (mv : Bool) : W32 := bitAt 6 mv

/-- A fixed-point result with its flags. -/
def mulResult (r : W80) (signed frac : Bool) : MulOut :=
  ⟨r, mulFlags r signed frac, mulSticky (mulFlags r signed frac).mv⟩

/-- A product or accumulation, rounded when the format asks for it (46_multiplier.md R498 to R508). -/
def mulDeliver (m : MulMod) (r : W80) : MulOut :=
  mulResult (if m.round then roundMr r else r) (m.xSigned || m.ySigned) m.frac

/-- `Rx * Ry` (46_multiplier.md R498 to R500). -/
def opMul (m : MulMod) (x y : W32) : MulOut := mulDeliver m (product m x y)
/-- `MR + Rx * Ry` (46_multiplier.md R501 to R504). -/
def opMulPlus (m : MulMod) (mr : W80) (x y : W32) : MulOut := mulDeliver m (mr + product m x y)
/-- `MR - Rx * Ry` (46_multiplier.md R505 to R508). -/
def opMulMinus (m : MulMod) (mr : W80) (x y : W32) : MulOut := mulDeliver m (mr - product m x y)

/-- The part of a result that goes to a data register, by its format (46_multiplier.md R494). -/
def mulPart (frac : Bool) (r : W80) : W40 := padded (if frac then r.extractLsb' 32 32 else r.extractLsb' 0 32)

/-- The largest and smallest values of a format as 80-bit numbers (46_multiplier.md R509). -/
def satMax (m : SatMod) : W80 :=
  if m.signed then (if m.frac then 0x7FFFFFFFFFFFFFFF else 0x7FFFFFFF)
  else (if m.frac then 0xFFFFFFFFFFFFFFFF else 0xFFFFFFFF)

/-- The smallest value of a signed format. -/
def satMin (m : SatMod) : W80 := ~~~satMax m

/-- `SatMR` (46_multiplier.md R509). -/
def satValue (m : SatMod) (r : W80) : W80 :=
  if m.signed then (if (satMax m).slt r then satMax m else if r.slt (satMin m) then satMin m else r)
  else (if (satMax m).ult r then satMax m else r)

/-- `SAT MR`: a saturated value fits, so MV is cleared (46_multiplier.md R509). -/
def opSat (m : SatMod) (mr : W80) : MulOut :=
  let r := satValue m mr
  ⟨r, { mulFlags r m.signed m.frac with mv := false }, 0⟩

/-- `RND MR`: always fractional (46_multiplier.md R513). -/
def opRnd (signed : Bool) (mr : W80) : MulOut := mulResult (roundMr mr) signed true

/-- What the floating-point product delivers. -/
structure FmulOut where
  val : W40
  fl : MulFlags
  stky : W32
deriving DecidableEq, Repr

/-- A floating-point product with its flags: STKY.MVS, MUS, MIS (46_multiplier.md R519). -/
def fmulOut (w : W40) (v u i : Bool) : FmulOut := ⟨w, ⟨w.msb, v, u, i⟩, bitAt 7 v ||| bitAt 8 u ||| bitAt 9 i⟩

/-- `Fx * Fy`: the exact product, rounded once (46_multiplier.md R519). -/
def opFmul (mode1 : W32) (x y : W40) : FmulOut :=
  let a := inF mode1 x
  let b := inF mode1 y
  let s := a.sign ^^ b.sign
  match a, b with
  | .nan, _ => fmulOut all1F false false true
  | _, .nan => fmulOut all1F false false true
  | .inf _, .zero _ => fmulOut all1F false false true
  | .zero _, .inf _ => fmulOut all1F false false true
  | .inf _, _ => fmulOut (infWord s) false false false
  | _, .inf _ => fmulOut (infWord s) false false false
  | .zero _, _ => fmulOut (zeroWord s) false false false
  | _, .zero _ => fmulOut (zeroWord s) false false false
  | .num _ ea ma, .num _ eb mb =>
      let r := outF mode1 (precision mode1) s (ma * mb) ((ea : Int) + (eb : Int) - 316)
      fmulOut r.word r.ovf r.unf false

/-- The part of MRF or MRB a transfer reads, as a data register receives it (46_multiplier.md R520). -/
def mrRead (p : MrPart) (mr : W80) : W40 :=
  match p with
  | .mr0f | .mr0b => padded (mr.extractLsb' 0 32)
  | .mr1f | .mr1b => padded (mr.extractLsb' 32 32)
  | .mr2f | .mr2b => padded ((mr.extractLsb' 64 16).signExtend 32)

/-- MRF or MRB after a transfer writes a part of it (46_multiplier.md R520). -/
def mrWrite (p : MrPart) (mr : W80) (w : W32) : W80 :=
  match p with
  | .mr0f | .mr0b => mr.extractLsb' 32 48 ++ w
  | .mr1f | .mr1b => w.signExtend 48 ++ mr.extractLsb' 0 32
  | .mr2f | .mr2b => w.extractLsb' 0 16 ++ mr.extractLsb' 0 64

end Sys2Proof.Machine
end

