-- ==== Sys2Proof/Machine/ShifterUnit.lean ====
section
/-!
DEFINITION. Machine/ShifterUnit.lean: what the shifter computes (47_shifter.md), as functions of the 32-bit operands.
-/
namespace Sys2Proof.Machine

/-- What a shifter operation delivers: the 32-bit result and the flags. -/
structure ShfOut where
  val : W32
  fl : ShfFlags
deriving DecidableEq, Repr

/-- The Y operand: a shift or bit position, or the position and length of a field (47_shifter.md R531). -/
structure ShfY where
  s : Int
  bit6 : Nat
  len6 : Nat
deriving DecidableEq, Repr

/-- The Y operand in a register (47_shifter.md R531 (a)). -/
def ShfY.ofReg (y : W32) : ShfY := ⟨y.toInt, (y.extractLsb' 0 6).toNat, (y.extractLsb' 6 6).toNat⟩

/-- The Y operand of an immediate shift (47_shifter.md R531 (b)). -/
def ShfY.ofImm (dataEx : BitVec 4) (data : BitVec 8) : ShfY :=
  ⟨data.toInt, (data.extractLsb' 0 6).toNat, (dataEx ++ data.extractLsb' 6 2).toNat⟩

/-- A shift count as large as makes a difference: a shift by 64 does what any larger one does. -/
def shiftAmount (s : Int) : Nat := Nat.min s.natAbs 64

/-- The value of LSHIFT (47_shifter.md R534). -/
def lshiftVal (x : W32) (s : Int) : W32 := if 0 ≤ s then x <<< shiftAmount s else x >>> shiftAmount s
/-- The value of ASHIFT (47_shifter.md R536). -/
def ashiftVal (x : W32) (s : Int) : W32 := if 0 ≤ s then x <<< shiftAmount s else x.sshiftRight (shiftAmount s)

/-- `LSHIFT Rx` (47_shifter.md R534). -/
def opLshift (x : W32) (y : ShfY) : ShfOut :=
  let r := lshiftVal x y.s
  ⟨r, ⟨r == 0, decide (y.s > 0), false⟩⟩
/-- `Rn OR LSHIFT Rx`: SZ tests the shifted value (47_shifter.md R535). -/
def opOrLshift (z x : W32) (y : ShfY) : ShfOut :=
  let t := lshiftVal x y.s
  ⟨z ||| t, ⟨t == 0, decide (y.s > 0), false⟩⟩
/-- `ASHIFT Rx` (47_shifter.md R536). -/
def opAshift (x : W32) (y : ShfY) : ShfOut :=
  let r := ashiftVal x y.s
  ⟨r, ⟨r == 0, decide (y.s > 0), false⟩⟩
/-- `Rn OR ASHIFT Rx` (47_shifter.md R537). -/
def opOrAshift (z x : W32) (y : ShfY) : ShfOut :=
  let t := ashiftVal x y.s
  ⟨z ||| t, ⟨t == 0, decide (y.s > 0), false⟩⟩
/-- `ROT Rx` (47_shifter.md R538). -/
def opRot (x : W32) (y : ShfY) : ShfOut :=
  let r := x.rotateLeft (y.s % 32).toNat
  ⟨r, ⟨r == 0, false, false⟩⟩

/-- The bit a position names, none outside 0 to 31. -/
def bitMask (s : Int) : W32 := if 0 ≤ s ∧ s ≤ 31 then 1#32 <<< s.toNat else 0
/-- The position is outside 0 to 31 (47_shifter.md R539). -/
def offScale (s : Int) : Bool := decide (s < 0) || decide (31 < s)

/-- `BCLR Rx` (47_shifter.md R539). -/
def opBclr (x : W32) (y : ShfY) : ShfOut :=
  let r := x &&& ~~~bitMask y.s
  ⟨r, ⟨r == 0, offScale y.s, false⟩⟩
/-- `BSET Rx` (47_shifter.md R540). -/
def opBset (x : W32) (y : ShfY) : ShfOut :=
  let r := x ||| bitMask y.s
  ⟨r, ⟨r == 0, offScale y.s, false⟩⟩
/-- `BTGL Rx` (47_shifter.md R541). -/
def opBtgl (x : W32) (y : ShfY) : ShfOut :=
  let r := x ^^^ bitMask y.s
  ⟨r, ⟨r == 0, offScale y.s, false⟩⟩
/-- The flags of `BTST Rx` (47_shifter.md R542). -/
def opBtst (x : W32) (y : ShfY) : ShfFlags := ⟨x &&& bitMask y.s == 0, offScale y.s, false⟩

/-- The field of `len` low bits of `x` (47_shifter.md R543). -/
def lowField (x : W32) (len : Nat) : Nat := x.toNat % 2 ^ len
/-- The value of FDEP (47_shifter.md R543). -/
def fdepVal (x : W32) (y : ShfY) : W32 := BitVec.ofNat 32 (lowField x y.len6 <<< y.bit6)
/-- The value of FDEP (SE): the bits above the field repeat its top bit (47_shifter.md R545). -/
def fdepSeVal (x : W32) (y : ShfY) : W32 :=
  if decide (0 < y.len6) && x.getLsbD (y.len6 - 1) then fdepVal x y ||| (BitVec.allOnes 32 <<< (y.bit6 + y.len6))
  else fdepVal x y
/-- The field reaches beyond bit 31. -/
def fieldOff (y : ShfY) : Bool := decide (32 < y.len6 + y.bit6)

/-- `FDEP Rx` (47_shifter.md R543). -/
def opFdep (x : W32) (y : ShfY) : ShfOut := ⟨fdepVal x y, ⟨fdepVal x y == 0, fieldOff y, false⟩⟩
/-- `Rn OR FDEP Rx` (47_shifter.md R544). -/
def opOrFdep (z x : W32) (y : ShfY) : ShfOut :=
  let r := z ||| fdepVal x y
  ⟨r, ⟨r == 0, fieldOff y, false⟩⟩
/-- `FDEP Rx (SE)` (47_shifter.md R545). -/
def opFdepSe (x : W32) (y : ShfY) : ShfOut := ⟨fdepSeVal x y, ⟨fdepSeVal x y == 0, fieldOff y, false⟩⟩
/-- `Rn OR FDEP Rx (SE)` (47_shifter.md R546). -/
def opOrFdepSe (z x : W32) (y : ShfY) : ShfOut :=
  let r := z ||| fdepSeVal x y
  ⟨r, ⟨r == 0, fieldOff y, false⟩⟩

/-- The value of FEXT (47_shifter.md R547). -/
def fextVal (x : W32) (y : ShfY) : W32 := BitVec.ofNat 32 ((x.toNat >>> y.bit6) % 2 ^ y.len6)
/-- `FEXT Rx` (47_shifter.md R547). -/
def opFext (x : W32) (y : ShfY) : ShfOut := ⟨fextVal x y, ⟨fextVal x y == 0, fieldOff y, false⟩⟩
/-- `FEXT Rx (SE)` (47_shifter.md R548). -/
def opFextSe (x : W32) (y : ShfY) : ShfOut :=
  let r := if decide (0 < y.len6) && !fieldOff y && x.getLsbD (y.bit6 + y.len6 - 1)
    then fextVal x y ||| (BitVec.allOnes 32 <<< y.len6) else fextVal x y
  ⟨r, ⟨r == 0, fieldOff y, false⟩⟩

/-- The number of leading zeros of a 32-bit number. -/
def leadingZeros (x : W32) : Nat := if x = 0 then 32 else 31 - Nat.log2 x.toNat

/-- The exponent of EXP: minus the number of leading sign bits but one (47_shifter.md R549). -/
def expVal (x : W32) : W32 := -(BitVec.ofNat 32 (leadingZeros (if x.msb then ~~~x else x) - 1))
/-- `EXP Rx` (47_shifter.md R549). -/
def opExp (x : W32) : ShfOut := ⟨expVal x, ⟨expVal x == 0, false, x.msb⟩⟩
/-- `EXP Rx (EX)`: +1 after an ALU overflow (47_shifter.md R550). -/
def opExpEx (x : W32) (av : Bool) : ShfOut :=
  let r := if av then 1 else expVal x
  ⟨r, ⟨r == 0, false, av ^^ x.msb⟩⟩
/-- `LEFTZ Rx` (47_shifter.md R551). -/
def opLeftz (x : W32) : ShfOut := ⟨BitVec.ofNat 32 (leadingZeros x), ⟨x.msb, x == 0, false⟩⟩
/-- `LEFTO Rx` (47_shifter.md R552). -/
def opLefto (x : W32) : ShfOut := ⟨BitVec.ofNat 32 (leadingZeros (~~~x)), ⟨!x.msb, ~~~x == 0, false⟩⟩

/-- `v / 2^k` to nearest, a tie to even (47_shifter.md R553). -/
def nearestEven (v k : Nat) : Nat :=
  let q := v >>> k
  let r := v % 2 ^ k
  if 2 * r > 2 ^ k || (2 * r == 2 ^ k && q % 2 == 1) then q + 1 else q

/-- The packed magnitude and overflow of FPACK (47_shifter.md R553). -/
def fpackVal (exp fr : Nat) : Nat × Bool :=
  if 135 < exp then (0x7FFF, true)
  else if 120 < exp then
    let m := nearestEven (2 ^ 23 + fr) 12
    let pe := if m = 4096 then exp - 119 else exp - 120
    if 15 < pe then (0x7FFF, true) else (pe * 2048 + m % 2048, false)
  else if 109 < exp then (nearestEven (2 ^ 23 + fr) (133 - exp), false)
  else (0, false)

/-- `FPACK Fx` (47_shifter.md R553). -/
def opFpack (w : W32) : ShfOut :=
  let p := fpackVal (w.extractLsb' 23 8).toNat (w.extractLsb' 0 23).toNat
  ⟨0#16 ++ BitVec.ofBool w.msb ++ BitVec.ofNat 15 p.1, ⟨false, p.2, false⟩⟩

/-- The IEEE word of a short-word number (47_shifter.md R554). -/
def funpackVal (h : W16) : W32 :=
  let e := (h.extractLsb' 11 4).toNat
  let f := (h.extractLsb' 0 11).toNat
  let n := 10 - Nat.log2 f
  BitVec.ofBool h.msb ++
    (if e > 0 then BitVec.ofNat 8 (120 + e) ++ BitVec.ofNat 23 (f <<< 12)
     else if f = 0 then 0#31
     else BitVec.ofNat 8 (120 - n) ++ BitVec.ofNat 23 (f <<< (n + 13)))

/-- `FUNPACK Rx` (47_shifter.md R554). -/
def opFunpack (x : W32) : ShfOut := ⟨funpackVal (x.extractLsb' 0 16), ⟨false, false, false⟩⟩

end Sys2Proof.Machine
end

