-- ==== Sys2Proof/Machine/ComputeUnit.lean ====
section
/-!
DEFINITION. Machine/ComputeUnit.lean: one compute field in one processing element: the operands read from the state before
the instruction, the units' results, and what is written (40_compute_move.md R261, R262, 48_multifunction.md R574).
-/
namespace Sys2Proof

/-- The multiplier operands of a multifunction form (48_multifunction.md R570). -/
def MfRegs.xm (q : MfRegs) : Reg := 0#2 ++ q.rxm
/-- The Y multiplier operand: R4 to R7. -/
def MfRegs.ym (q : MfRegs) : Reg := 1#2 ++ q.rym
/-- The X ALU operand: R8 to R11. -/
def MfRegs.xa (q : MfRegs) : Reg := 2#2 ++ q.rxa
/-- The Y ALU operand: R12 to R15. -/
def MfRegs.ya (q : MfRegs) : Reg := 3#2 ++ q.rya

/-- A dual add and subtract whose results go to one register (48_multifunction.md R562, U31). -/
def Compute.dualClash : Compute → Bool
  | .dualFix rs ra _ _ => rs == ra
  | .dualFlt rs ra _ _ => rs == ra
  | .mfDualFix rs q => rs == q.ra
  | .mfDualFlt rs q => rs == q.ra
  | _ => false

/-- The data registers a compute can write. -/
def Compute.dests : Compute → List Reg
  | .none => []
  | .aluBin _ rn _ _ => [rn]
  | .aluUn _ rn _ => [rn]
  | .aluCmp _ _ _ => []
  | .mulRn _ _ rn _ _ => [rn]
  | .mulMr _ _ _ _ _ => []
  | .satRn _ _ rn => [rn]
  | .satMr _ _ => []
  | .rndRn _ _ rn => [rn]
  | .rndMr _ _ => []
  | .clrMr _ => []
  | .mulF rn _ _ => [rn]
  | .mrToReg _ rk => [rk]
  | .regToMr _ _ => []
  | .shBin _ rn _ _ => [rn]
  | .shUn _ rn _ => [rn]
  | .btst _ _ => []
  | .dualFix rs ra _ _ => [rs, ra]
  | .dualFlt rs ra _ _ => [rs, ra]
  | .mfFix m _ q => (match m with | .mrfPlus | .mrfMinus => [q.ra] | _ => [q.rm, q.ra])
  | .mfFlt _ q => [q.rm, q.ra]
  | .mfDualFix rs q => [q.rm, q.ra, rs]
  | .mfDualFlt rs q => [q.rm, q.ra, rs]

end Sys2Proof

namespace Sys2Proof.Machine

/-- What a compute reads in one processing element. -/
structure PeIn where
  mode1 : W32
  elem : ProcElem
  astat : W32
deriving DecidableEq, Repr

/-- A 40-bit operand. -/
def PeIn.reg (c : PeIn) (n : Reg) : W40 := c.elem.reg c.mode1 n
/-- The fixed-point field of an operand (44_alu_fixed.md R400). -/
def PeIn.fix (c : PeIn) (n : Reg) : W32 := (c.reg n).extractLsb' 8 32
/-- MRF or MRB. -/
def PeIn.mr (c : PeIn) (k : Mr) : W80 := c.elem.mr c.mode1 k

/-- What a compute writes in one processing element: registers in rising precedence, a multiplier result register,
ASTAT, and the sticky bits to set. -/
structure PeOut where
  writes : List (Reg × W40)
  mr : Option (Mr × W80)
  astat : W32
  stky : W32
deriving DecidableEq, Repr

/-- Nothing written (30_encoding.md R253). -/
def PeOut.none (c : PeIn) : PeOut := ⟨[], .none, c.astat, 0⟩

/-- An ALU result to RN. -/
def aluTo (c : PeIn) (rn : Reg) (o : AluOut) : PeOut := ⟨[(rn, o.val)], .none, putAlu c.astat o.fl, o.stky⟩
/-- A comparison: no register, CACC shifted. -/
def cmpTo (c : PeIn) (o : CmpOut) : PeOut := ⟨[], .none, shiftCacc (putAlu c.astat o.fl) o.gt, o.stky⟩
/-- A fixed-point multiplier result to RN. -/
def mulTo (c : PeIn) (frac : Bool) (rn : Reg) (o : MulOut) : PeOut :=
  ⟨[(rn, mulPart frac o.val)], .none, putMul c.astat o.fl, o.stky⟩
/-- A fixed-point multiplier result to MRF or MRB. -/
def mulToMr (c : PeIn) (d : Mr) (o : MulOut) : PeOut := ⟨[], some (d, o.val), putMul c.astat o.fl, o.stky⟩
/-- A floating-point product to RN. -/
def fmulTo (c : PeIn) (rn : Reg) (o : FmulOut) : PeOut := ⟨[(rn, o.val)], .none, putMul c.astat o.fl, o.stky⟩
/-- A shifter result to RN. -/
def shfTo (c : PeIn) (rn : Reg) (o : ShfOut) : PeOut := ⟨[(rn, padded o.val)], .none, putShf c.astat o.fl, 0⟩
/-- Two ALU results with their ORed flags. -/
def dualTo (c : PeIn) (ra rs : Reg) (o : W40 × W40 × AluFlags × W32) : PeOut :=
  ⟨[(ra, o.1), (rs, o.2.1)], .none, putAlu c.astat o.2.2.1, o.2.2.2⟩

/-- A multiplier and an ALU part together: the ALU's registers win, the flags do not overlap (48_multifunction.md R574,
R562). The ALU part starts from the ASTAT the multiplier part leaves. -/
def PeOut.andThen (m : PeOut) (alu : PeIn → PeOut) (c : PeIn) : PeOut :=
  let a := alu { c with astat := m.astat }
  ⟨m.writes ++ a.writes, m.mr, a.astat, m.stky ||| a.stky⟩

/-- The two-input ALU operations (44_alu_fixed.md R407 to R425, 45_alu_float.md R446 to R465). -/
def aluBin (c : PeIn) (op : AluBin) (x y : Reg) : AluOut :=
  match op with
  | .add => opAdd c.mode1 (c.fix x) (c.fix y)
  | .sub => opSub c.mode1 (c.fix x) (c.fix y)
  | .addCi => opAddCi c.mode1 (c.fix x) (c.fix y) (carryIn c.astat)
  | .subCi => opSubCi c.mode1 (c.fix x) (c.fix y) (carryIn c.astat)
  | .avg => opAvg c.mode1 (c.fix x) (c.fix y)
  | .and => opAnd (c.fix x) (c.fix y)
  | .or => opOr (c.fix x) (c.fix y)
  | .xor => opXor (c.fix x) (c.fix y)
  | .min => opMin (c.fix x) (c.fix y)
  | .max => opMax (c.fix x) (c.fix y)
  | .clip => opClip (c.fix x) (c.fix y)
  | .fadd => opFadd c.mode1 (c.reg x) (c.reg y)
  | .fsub => opFsub c.mode1 (c.reg x) (c.reg y)
  | .fabsAdd => opFabsAdd c.mode1 (c.reg x) (c.reg y)
  | .fabsSub => opFabsSub c.mode1 (c.reg x) (c.reg y)
  | .favg => opFavg c.mode1 (c.reg x) (c.reg y)
  | .scalb => opScalb c.mode1 (c.reg x) (c.fix y)
  | .fixBy => opFixBy c.mode1 (c.reg x) (c.fix y)
  | .truncBy => opTruncBy c.mode1 (c.reg x) (c.fix y)
  | .floatBy => opFloatBy c.mode1 (c.fix x) (c.fix y)
  | .copysign => opCopysign c.mode1 (c.reg x) (c.reg y)
  | .fmin => opFmin c.mode1 (c.reg x) (c.reg y)
  | .fmax => opFmax c.mode1 (c.reg x) (c.reg y)
  | .fclip => opFclip c.mode1 (c.reg x) (c.reg y)

/-- The one-input ALU operations (44_alu_fixed.md R412 to R422, 45_alu_float.md R451 to R461). -/
def aluUn (c : PeIn) (op : AluUn) (x : Reg) : AluOut :=
  match op with
  | .plusCi => opPlusCi c.mode1 (c.fix x) (carryIn c.astat)
  | .plusCiM1 => opPlusCiM1 c.mode1 (c.fix x) (carryIn c.astat)
  | .inc => opInc c.mode1 (c.fix x)
  | .dec => opDec c.mode1 (c.fix x)
  | .neg => opNeg c.mode1 (c.fix x)
  | .abs => opAbs c.mode1 (c.fix x)
  | .pass => opPass (c.fix x)
  | .not => opNot (c.fix x)
  | .fneg => opFneg c.mode1 (c.reg x)
  | .fabs => opFabs c.mode1 (c.reg x)
  | .fpass => opFpass c.mode1 (c.reg x)
  | .frnd => opFrnd c.mode1 (c.reg x)
  | .mant => opMant c.mode1 (c.reg x)
  | .logb => opLogb c.mode1 (c.reg x)
  | .fix => opFix c.mode1 (c.reg x)
  | .trunc => opTrunc c.mode1 (c.reg x)
  | .float => opFloat c.mode1 (c.fix x)
  | .recips => opRecips c.mode1 (c.reg x)
  | .rsqrts => opRsqrts c.mode1 (c.reg x)

/-- The comparisons (44_alu_fixed.md R406, R428, 45_alu_float.md R450). -/
def aluCmp (c : PeIn) (op : AluCmp) (x y : Reg) : CmpOut :=
  match op with
  | .comp => opComp (c.fix x) (c.fix y)
  | .compu => opCompu (c.fix x) (c.fix y)
  | .fcomp => opFcomp c.mode1 (c.reg x) (c.reg y)

/-- A fixed-point product, alone or combined with MRF or MRB (46_multiplier.md R498 to R508). -/
def mulAcc (c : PeIn) (a : Accum) (m : MulMod) (x y : Reg) : MulOut :=
  match a with
  | .none => opMul m (c.fix x) (c.fix y)
  | .plus k => opMulPlus m (c.mr k) (c.fix x) (c.fix y)
  | .minus k => opMulMinus m (c.mr k) (c.fix x) (c.fix y)

/-- The accumulation that MRF or MRB itself takes part in. -/
def accOf (d : Mr) : AccOp → Accum
  | .set => .none
  | .plus => .plus d
  | .minus => .minus d

/-- The two-input shifter operations; `z` is the old content of RN (47_shifter.md R534 to R548). -/
def shBin (op : ShBin) (z x : W32) (y : ShfY) : ShfOut :=
  match op with
  | .lshift => opLshift x y
  | .orLshift => opOrLshift z x y
  | .ashift => opAshift x y
  | .orAshift => opOrAshift z x y
  | .rot => opRot x y
  | .bclr => opBclr x y
  | .bset => opBset x y
  | .btgl => opBtgl x y
  | .fdep => opFdep x y
  | .orFdep => opOrFdep z x y
  | .fdepSe => opFdepSe x y
  | .orFdepSe => opOrFdepSe z x y
  | .fext => opFext x y
  | .fextSe => opFextSe x y

/-- The one-input shifter operations (47_shifter.md R549 to R554). -/
def shUn (c : PeIn) (op : ShUn) (x : Reg) : ShfOut :=
  match op with
  | .exp => opExp (c.fix x)
  | .expEx => opExpEx (c.fix x) (c.astat.getLsbD 1)
  | .leftz => opLeftz (c.fix x)
  | .lefto => opLefto (c.fix x)
  | .fpack => opFpack (c.fix x)
  | .funpack => opFunpack (c.fix x)

/-- The immediate shifts of Type 6 (47_shifter.md R531 (b)). -/
def shImmPe (op : ShImm) (dataEx : BitVec 4) (data : BitVec 8) (rn rx : Reg) (c : PeIn) : PeOut :=
  let y := ShfY.ofImm dataEx data
  match op with
  | .bin o => shfTo c rn (shBin o (c.fix rn) (c.fix rx) y)
  | .btst => ⟨[], .none, putShf c.astat (opBtst (c.fix rx) y), 0⟩

/-- The formats of the multifunction products: (SSFR) to a register, (SSF) to MRF (48_multifunction.md R572). -/
def ssf (round : Bool) : MulMod := ⟨true, true, true, round⟩

/-- The multiplier part of a fixed-point multifunction form (48_multifunction.md R576 to R590). -/
def mfMulPe (c : PeIn) (m : MfMul) (q : MfRegs) : PeOut :=
  match m with
  | .rm => mulTo c true q.rm (mulAcc c .none (ssf true) q.xm q.ym)
  | .mrfPlus => mulToMr c .f (mulAcc c (.plus .f) (ssf false) q.xm q.ym)
  | .rmPlus => mulTo c true q.rm (mulAcc c (.plus .f) (ssf true) q.xm q.ym)
  | .mrfMinus => mulToMr c .f (mulAcc c (.minus .f) (ssf false) q.xm q.ym)
  | .rmMinus => mulTo c true q.rm (mulAcc c (.minus .f) (ssf true) q.xm q.ym)

/-- The ALU part of a fixed-point multifunction form. -/
def mfAluOp : MfAlu → AluBin
  | .add => .add | .sub => .sub | .avg => .avg

/-- The ALU part of a floating-point multifunction form (48_multifunction.md R591 to R598). -/
def mfFltPe (c : PeIn) (a : MfFlt) (q : MfRegs) : AluOut :=
  match a with
  | .add => aluBin c .fadd q.xa q.ya
  | .sub => aluBin c .fsub q.xa q.ya
  | .float => aluBin c .floatBy q.xa q.ya
  | .fix => aluBin c .fixBy q.xa q.ya
  | .avg => aluBin c .favg q.xa q.ya
  | .abs => aluUn c .fabs q.xa
  | .max => aluBin c .fmax q.xa q.ya
  | .min => aluBin c .fmin q.xa q.ya

/-- What a compute operation does in one processing element. -/
def computePe (k : Compute) (c : PeIn) : PeOut :=
  match k with
  | .none => PeOut.none c
  | .aluBin op rn rx ry => aluTo c rn (aluBin c op rx ry)
  | .aluUn op rn rx => aluTo c rn (aluUn c op rx)
  | .aluCmp op rx ry => cmpTo c (aluCmp c op rx ry)
  | .mulRn a m rn rx ry => mulTo c m.frac rn (mulAcc c a m rx ry)
  | .mulMr d a m rx ry => mulToMr c d (mulAcc c (accOf d a) m rx ry)
  | .satRn s m rn => mulTo c m.frac rn (opSat m (c.mr s))
  | .satMr d m => mulToMr c d (opSat m (c.mr d))
  | .rndRn s g rn => mulTo c true rn (opRnd g (c.mr s))
  | .rndMr d g => mulToMr c d (opRnd g (c.mr d))
  | .clrMr d => ⟨[], some (d, 0), c.astat, 0⟩
  | .mulF rn rx ry => fmulTo c rn (opFmul c.mode1 (c.reg rx) (c.reg ry))
  | .mrToReg p rk => ⟨[(rk, mrRead p (c.mr p.home))], .none, putMul c.astat ⟨false, false, false, false⟩, 0⟩
  | .regToMr p rk =>
      ⟨[], some (p.home, mrWrite p (c.mr p.home) (c.fix rk)), putMul c.astat ⟨false, false, false, false⟩, 0⟩
  | .shBin op rn rx ry => shfTo c rn (shBin op (c.fix rn) (c.fix rx) (ShfY.ofReg (c.fix ry)))
  | .shUn op rn rx => shfTo c rn (shUn c op rx)
  | .btst rx ry => ⟨[], .none, putShf c.astat (opBtst (c.fix rx) (ShfY.ofReg (c.fix ry))), 0⟩
  | .dualFix rs ra rx ry => dualTo c ra rs (opDualFix c.mode1 (c.fix rx) (c.fix ry))
  | .dualFlt rs ra rx ry => dualTo c ra rs (opDualFlt c.mode1 (c.reg rx) (c.reg ry))
  | .mfFix m a q => (mfMulPe c m q).andThen (fun d => aluTo d q.ra (aluBin c (mfAluOp a) q.xa q.ya)) c
  | .mfFlt a q =>
      (fmulTo c q.rm (opFmul c.mode1 (c.reg q.xm) (c.reg q.ym))).andThen (fun d => aluTo d q.ra (mfFltPe c a q)) c
  | .mfDualFix rs q =>
      (mfMulPe c .rm q).andThen (fun d => dualTo d q.ra rs (opDualFix c.mode1 (c.fix q.xa) (c.fix q.ya))) c
  | .mfDualFlt rs q =>
      (fmulTo c q.rm (opFmul c.mode1 (c.reg q.xm) (c.reg q.ym))).andThen
        (fun d => dualTo d q.ra rs (opDualFlt c.mode1 (c.reg q.xa) (c.reg q.ya))) c

/-- `p` with the registers of a compute written (10_state.md R22: a later entry has the higher precedence). -/
def ProcElem.take (p : ProcElem) (mode1 : W32) (o : PeOut) : ProcElem :=
  let q := o.writes.foldl (fun q w => q.setReg mode1 w.1 w.2) p
  match o.mr with
  | some (k, v) => q.setMr mode1 k v
  | none => q

end Sys2Proof.Machine
end

