-- ==== Sys2Proof/Machine/ComputePart.lean ====
section
/-!
DEFINITION. Machine/ComputePart.lean: the compute part of an instruction on the processing elements it runs on
(40_compute_move.md R262), the latencies it is subject to (70_reset_and_hazards.md R800), and the moves between universal
registers (40_compute_move.md R266).
-/
namespace Sys2Proof

/-- The data registers a compute reads. -/
def Compute.sources : Compute → List Reg
  | .none => []
  | .aluBin _ _ rx ry => [rx, ry]
  | .aluUn _ _ rx => [rx]
  | .aluCmp _ rx ry => [rx, ry]
  | .mulRn _ _ _ rx ry => [rx, ry]
  | .mulMr _ _ _ rx ry => [rx, ry]
  | .satRn _ _ _ => []
  | .satMr _ _ => []
  | .rndRn _ _ _ => []
  | .rndMr _ _ => []
  | .clrMr _ => []
  | .mulF _ rx ry => [rx, ry]
  | .mrToReg _ _ => []
  | .regToMr _ rk => [rk]
  | .shBin _ _ rx ry => [rx, ry]
  | .shUn _ _ rx => [rx]
  | .btst rx ry => [rx, ry]
  | .dualFix _ _ rx ry => [rx, ry]
  | .dualFlt _ _ rx ry => [rx, ry]
  | .mfFix _ _ q => [q.xm, q.ym, q.xa, q.ya]
  | .mfFlt _ q => [q.xm, q.ym, q.xa, q.ya]
  | .mfDualFix _ q => [q.xm, q.ym, q.xa, q.ya]
  | .mfDualFlt _ q => [q.xm, q.ym, q.xa, q.ya]

/-- The MODE1 bits a two-input ALU operation reads: ALUSAT for fixed-point arithmetic, TRUNC and RND32 for floating
point, all three for the conversions to fixed point, TRUNC for the fixed-point average (70_reset_and_hazards.md R800,
10_state.md R47). -/
def AluBin.mode1 : AluBin → BitVec 32
  | .add | .sub | .addCi | .subCi | .min | .max | .clip | .and | .or | .xor => 0x2000
  | .avg => 0xA000
  | .fixBy | .truncBy => 0x1A000
  | _ => 0x18000

/-- The same of a one-input ALU operation. -/
def AluUn.mode1 : AluUn → BitVec 32
  | .plusCi | .plusCiM1 | .inc | .dec | .neg | .abs | .pass | .not => 0x2000
  | .fix | .trunc | .logb => 0x1A000
  | _ => 0x18000

/-- The same of a comparison. -/
def AluCmp.mode1 : AluCmp → BitVec 32
  | .comp | .compu => 0x2000
  | .fcomp => 0x18000

/-- The same of an accumulation: SRCU where it reads MRF or MRB. -/
def Accum.mode1 : Accum → BitVec 32
  | .none => 0
  | _ => 4

/-- The MODE1 bits that govern the units of a compute (70_reset_and_hazards.md R800). -/
def Compute.unitMode1 : Compute → BitVec 32
  | .none => 0
  | .aluBin op _ _ _ => op.mode1
  | .aluUn op _ _ => op.mode1
  | .aluCmp op _ _ => op.mode1
  | .mulRn a _ _ _ _ => a.mode1
  | .mulMr _ _ _ _ _ => 4
  | .satRn _ _ _ => 4
  | .satMr _ _ => 4
  | .rndRn _ _ _ => 4
  | .rndMr _ _ => 4
  | .clrMr _ => 4
  | .mulF _ _ _ => 0x18000
  | .mrToReg _ _ => 4
  | .regToMr _ _ => 4
  | .shBin _ _ _ _ => 0
  | .shUn _ _ _ => 0
  | .btst _ _ => 0
  | .dualFix _ _ _ _ => 0x2000
  | .dualFlt _ _ _ _ => 0x18000
  | .mfFix m a _ => (match m with | .rm => 0 | _ => 4) ||| (match a with | .avg => 0xA000 | _ => 0x2000)
  | .mfFlt a _ => (match a with | .fix => 0x1A000 | _ => 0x18000)
  | .mfDualFix _ _ => 0x2000
  | .mfDualFlt _ _ => 0x18000

/-- The ASTAT bits a compute reads: AC for the carry input, CACC for a comparison (70_reset_and_hazards.md R800). -/
def Compute.astatUse : Compute → BitVec 32
  | .aluBin .addCi _ _ _ => 0x8
  | .aluBin .subCi _ _ _ => 0x8
  | .aluUn .plusCi _ _ => 0x8
  | .aluUn .plusCiM1 _ _ => 0x8
  | .aluCmp _ _ _ => 0xFF000000
  | _ => 0

end Sys2Proof

namespace Sys2Proof.Machine

/-- What a compute of PEx or PEy reads. -/
def State.peIn (s : State) (y : Bool) : PeIn := ⟨s.reg.mode1, s.pe y, s.astat y⟩

/-- The results of a compute in PEx or PEy committed; `t` still holds the flags of the start of the step. -/
def State.putPe (s t : State) (y : Bool) (o : PeOut) : State :=
  (((t.setPe y ((t.pe y).take s.reg.mode1 o)).setAstat y o.astat).noteFlips y (t.astat y ^^^ o.astat)).orStky y o.stky

/-- The compute `f` runs in PEx when `ex` and in PEy when `ey` (40_compute_move.md R262). -/
def State.runPes (s t : State) (f : PeIn → PeOut) (ex ey : Bool) : State :=
  let t1 := if ex then s.putPe t false (f (s.peIn false)) else t
  if ey then s.putPe t1 true (f (s.peIn true)) else t1

/-- The SRRFL and SRRFH bits that data registers depend on (10_state.md R23). -/
def groupMask (ns : List Reg) : W32 := ns.foldl (fun m n => m ||| selectMask (.r n)) 0

/-- Which elements a condition lets run: PEx, and PEy in SIMD mode (40_compute_move.md R262); with `els` where it is false
(41_program_flow.md R303). -/
def State.peGate (s : State) (c : Cond) (els : Bool) : Bool × Bool :=
  (s.cond false c != els, s.simd && (s.cond true c != els))

/-- The compute part of an instruction on the elements `g`, with its latencies (40_compute_move.md R262,
70_reset_and_hazards.md R800) and the dual add and subtract with one destination (48_multifunction.md R562). -/
def State.computePart (s t : State) (k : Compute) (g : Bool × Bool) : Run State :=
  if k == .none || !(g.1 || g.2) then .ok t
  else do
    s.useMode1 (0x00200000 ||| k.unitMode1 ||| groupMask (k.sources ++ k.dests))
    need (!(g.1 && s.changed.astatx &&& k.astatUse != 0)) .latencyHazard
    need (!(g.2 && s.changed.astaty &&& k.astatUse != 0)) .latencyHazard
    need (!k.dualClash) .dualAluSameDestination
    .ok (s.runPes t (computePe k) g.1 g.2)

/-- The data registers an immediate shift writes: none for BTST (47_shifter.md R542). -/
def shImmDests (op : ShImm) (rn : Reg) : List Reg :=
  match op with
  | .bin _ => [rn]
  | .btst => []

/-- The immediate shift of Type 6 on the elements `g` (40_compute_move.md R276). -/
def State.shiftPart (s t : State) (op : ShImm) (dataEx : BitVec 4) (data : BitVec 8) (rn rx : Reg) (g : Bool × Bool) :
    Run State :=
  if !(g.1 || g.2) then .ok t
  else do
    s.useMode1 (0x00200000 ||| groupMask (shImmDests op rn ++ [rx]))
    .ok (s.runPes t (shImmPe op dataEx data rn rx) g.1 g.2)

/-! ### Moves -/

/-- The halves of a move that a condition lets through: PEx's condition for the explicit half, PEy's for the implicit one
in SIMD mode (40_compute_move.md R265). -/
def State.moveGate (s : State) (c : Cond) : Gate := ⟨s.cond false c, s.cond (s.simd) c, c != .always⟩

/-- One half of a register move: `dst <- src`, read from `s`, written to `t` (40_compute_move.md R263). -/
def State.copyReg (s t : State) (dst src : UReg) : Run State := do
  s.mayRead src
  s.mayWrite dst
  t.write40 dst (s.read40 src) (wideSource src)

/-- The source of the implicit half: the complement, or a source without one itself (40_compute_move.md R266 (2); DEDUCED of
the combined PX against 10_state.md R26, log 62, and of a DAG register against 20_memory.md R175, log 77). -/
def implicitSource (src : UReg) : UReg := src.comp.getD src

/-- A move between universal registers, with its implicit half in SIMD mode where the destination has a complement
(40_compute_move.md R266). -/
def State.uregMove (s t : State) (dst src : UReg) (g : Gate) : Run State := do
  s.useMode1 0x00200000
  let t1 ← if g.x then s.copyReg t dst src else .ok t
  match (if s.simd && g.y then dst.comp else none) with
  | some c => s.copyReg t1 c (implicitSource src)
  | none => .ok t1

end Sys2Proof.Machine
end

