-- ==== Sys2Proof/Machine/ComputeMove.lean ====
section
/-!
DEFINITION. Machine/ComputeMove.lean: Group I, compute and move, Types 1 to 7 (40_compute_move.md R260 to R277).
-/
namespace Sys2Proof.Machine

/-- A compute row alone: Type 2 without IF (40_compute_move.md R271). -/
def runCompute (k : Compute) (s : State) : Host.Outcome State Fault Refusal :=
  outcome s do
    let t0 ← s.begin
    let t ← s.computePart t0 k (true, s.simd)
    s.advance t

/-- Type 1: compute with a DM and a PM move of data registers (40_compute_move.md R270). -/
def execDualMove (dmWrite : Bool) (dmI dmM : DagNum) (dmReg : Reg) (pmWrite : Bool) (pmI pmM : DagNum) (pmReg : Reg)
    (k : Compute) (s : State) : Host.Outcome State Fault Refusal :=
  outcome s do
    let t0 ← s.begin
    let t ← s.computePart t0 k (true, s.simd)
    let u ← s.dualAccess t dmWrite dmI dmM dmReg pmWrite pmI pmM pmReg
    s.advance u

/-- Type 2: conditional compute (40_compute_move.md R271). -/
def execCondCompute (c : Cond) (k : Compute) (s : State) : Host.Outcome State Fault Refusal :=
  outcome s do
    s.condReady c
    let t0 ← s.begin
    let t ← s.computePart t0 k (s.peGate c false)
    s.advance t

/-- A compute with a move between a register and memory, on one condition (40_compute_move.md R272). -/
def runMove (c : Cond) (k : Compute) (m : MemMove) (s : State) : Host.Outcome State Fault Refusal :=
  outcome s do
    s.condReady c
    let t0 ← s.begin
    let t ← s.computePart t0 k (s.peGate c false)
    let u ← s.move t m (s.moveGate c) k.dests
    s.advance u

/-- Type 3: compute with a move between a universal register and memory (40_compute_move.md R272). -/
def execUregMem (post : Bool) (i m : DagNum) (c : Cond) (dag2 write lw : Bool) (u : UReg) (k : Compute) (s : State) :
    Host.Outcome State Fault Refusal :=
  let n := Modifier.reg (dagNumber dag2 m)
  runMove c k
    { op := if write then .store (.reg u) else .load u, pm := dag2
      mode := if post then .post (dagNumber dag2 i) n else .pre (dagNumber dag2 i) n, lw := lw } s

/-- Type 4: the same with a data register and a 6-bit modifier (40_compute_move.md R273). -/
def execDregMemImm (i : DagNum) (dag2 write post : Bool) (c : Cond) (data : BitVec 6) (d : Reg) (k : Compute) (s : State) :
    Host.Outcome State Fault Refusal :=
  let n := Modifier.imm (data.signExtend 32)
  runMove c k
    { op := if write then .store (.reg (.r d)) else .load (.r d), pm := dag2
      mode := if post then .post (dagNumber dag2 i) n else .pre (dagNumber dag2 i) n, lw := false } s

/-- Type 5, transfer: compute with a register move (40_compute_move.md R274). -/
def execUregMove (src : UReg) (c : Cond) (dst : UReg) (k : Compute) (s : State) : Host.Outcome State Fault Refusal :=
  outcome s do
    s.condReady c
    s.apart (s.moveGate c) [dst] k.dests
    let t0 ← s.begin
    let t ← s.computePart t0 k (s.peGate c false)
    let u ← s.uregMove t dst src (s.moveGate c)
    s.advance u

/-- The swap of Rx and Sy, each half under its own gate (40_compute_move.md R275). -/
def State.swapRegs (s t : State) (y x : Reg) (g : Gate) : Run State := do
  s.useMode1 0x00200000
  let t1 ← if g.x then s.copyReg t (.r x) (.s y) else .ok t
  if g.y then s.copyReg t1 (.s y) (.r x) else .ok t1

/-- Type 5, swap: `Rx <-> Sy` (40_compute_move.md R275). -/
def execSwap (y : Reg) (c : Cond) (x : Reg) (k : Compute) (s : State) : Host.Outcome State Fault Refusal :=
  outcome s do
    s.condReady c
    s.apart (s.moveGate c) [.r x, .s y] k.dests
    let t0 ← s.begin
    let t ← s.computePart t0 k (s.peGate c false)
    let u ← s.swapRegs t y x (s.moveGate c)
    s.advance u

/-- Type 6 with a post-modify move of a data register (40_compute_move.md R276). -/
def execShiftImmMem (i m : DagNum) (c : Cond) (dag2 write : Bool) (dataEx : BitVec 4) (d : Reg) (op : ShImm)
    (data : BitVec 8) (rn rx : Reg) (s : State) : Host.Outcome State Fault Refusal :=
  outcome s do
    s.condReady c
    let t0 ← s.begin
    let t ← s.shiftPart t0 op dataEx data rn rx (s.peGate c false)
    let u ← s.move t
      { op := if write then .store (.reg (.r d)) else .load (.r d), pm := dag2
        mode := .post (dagNumber dag2 i) (.reg (dagNumber dag2 m)), lw := false } (s.moveGate c) (shImmDests op rn)
    s.advance u

/-- Type 6 without a move (40_compute_move.md R276). -/
def execShiftImm (c : Cond) (dataEx : BitVec 4) (op : ShImm) (data : BitVec 8) (rn rx : Reg) (s : State) :
    Host.Outcome State Fault Refusal :=
  outcome s do
    s.condReady c
    let t0 ← s.begin
    let t ← s.shiftPart t0 op dataEx data rn rx (s.peGate c false)
    s.advance t

/-- An index register modified by an M register, around its buffer whenever L is not 0 (20_memory.md R173). -/
def State.modifyByReg (s t : State) (dag2 : Bool) (i m : DagNum) : Run State := do
  s.mayRead (.m (dagNumber dag2 m))
  s.modifyIndex t (dagNumber dag2 i) (s.dagReg .m (dagNumber dag2 m)) true

/-- Type 7: compute with MODIFY; in SIMD mode the modify happens if either condition holds (40_compute_move.md R277). -/
def execModify (dag2 : Bool) (c : Cond) (i m : DagNum) (k : Compute) (s : State) : Host.Outcome State Fault Refusal :=
  outcome s do
    s.condReady c
    let t0 ← s.begin
    let t ← s.computePart t0 k (s.peGate c false)
    s.useMode1 0x00200000
    let u ← if s.condAny c then s.modifyByReg t dag2 i m else .ok t
    s.advance u

/-- No compute: the all-zero compute field (30_encoding.md R253). -/
def execNoCompute (s : State) : Host.Outcome State Fault Refusal := runCompute .none s

end Sys2Proof.Machine
end

