-- ==== Sys2Proof/Machine/AluFixed.lean ====
section
/-!
DEFINITION. Machine/AluFixed.lean: the fixed-point ALU operations (44_alu_fixed.md), each as the Type 2 instruction
without IF that carries it (30_encoding.md R203): the operation runs in PEx, and in PEy in SIMD mode.
-/
namespace Sys2Proof.Machine

/-- `Rn = Rx + Ry` (44_alu_fixed.md R407). -/
def execAdd (rn rx ry : Reg) (s : State) : Host.Outcome State Fault Refusal :=
  runCompute (.aluBin .add rn rx ry) s

/-- `Rn = Rx - Ry` (44_alu_fixed.md R408). -/
def execSub (rn rx ry : Reg) (s : State) : Host.Outcome State Fault Refusal :=
  runCompute (.aluBin .sub rn rx ry) s

/-- `Rn = Rx + Ry + CI` (44_alu_fixed.md R409). -/
def execAddCi (rn rx ry : Reg) (s : State) : Host.Outcome State Fault Refusal :=
  runCompute (.aluBin .addCi rn rx ry) s

/-- `Rn = Rx - Ry + CI - 1` (44_alu_fixed.md R410). -/
def execSubCi (rn rx ry : Reg) (s : State) : Host.Outcome State Fault Refusal :=
  runCompute (.aluBin .subCi rn rx ry) s

/-- `Rn = (Rx + Ry)/2` (44_alu_fixed.md R411). -/
def execAvg (rn rx ry : Reg) (s : State) : Host.Outcome State Fault Refusal :=
  runCompute (.aluBin .avg rn rx ry) s

/-- `COMP(Rx, Ry)` (44_alu_fixed.md R406). -/
def execComp (rx ry : Reg) (s : State) : Host.Outcome State Fault Refusal :=
  runCompute (.aluCmp .comp rx ry) s

/-- `COMPU(Rx, Ry)` (44_alu_fixed.md R428). -/
def execCompu (rx ry : Reg) (s : State) : Host.Outcome State Fault Refusal :=
  runCompute (.aluCmp .compu rx ry) s

/-- `Rn = Rx + CI` (44_alu_fixed.md R412). -/
def execPlusCi (rn rx : Reg) (s : State) : Host.Outcome State Fault Refusal :=
  runCompute (.aluUn .plusCi rn rx) s

/-- `Rn = Rx + CI - 1` (44_alu_fixed.md R413). -/
def execPlusCiM1 (rn rx : Reg) (s : State) : Host.Outcome State Fault Refusal :=
  runCompute (.aluUn .plusCiM1 rn rx) s

/-- `Rn = Rx + 1` (44_alu_fixed.md R414). -/
def execInc (rn rx : Reg) (s : State) : Host.Outcome State Fault Refusal :=
  runCompute (.aluUn .inc rn rx) s

/-- `Rn = Rx - 1` (44_alu_fixed.md R415). -/
def execDec (rn rx : Reg) (s : State) : Host.Outcome State Fault Refusal :=
  runCompute (.aluUn .dec rn rx) s

/-- `Rn = -Rx` (44_alu_fixed.md R416). -/
def execNeg (rn rx : Reg) (s : State) : Host.Outcome State Fault Refusal :=
  runCompute (.aluUn .neg rn rx) s

/-- `Rn = ABS Rx` (44_alu_fixed.md R417). -/
def execAbs (rn rx : Reg) (s : State) : Host.Outcome State Fault Refusal :=
  runCompute (.aluUn .abs rn rx) s

/-- `Rn = PASS Rx` (44_alu_fixed.md R418). -/
def execPass (rn rx : Reg) (s : State) : Host.Outcome State Fault Refusal :=
  runCompute (.aluUn .pass rn rx) s

/-- `Rn = Rx AND Ry` (44_alu_fixed.md R419). -/
def execAnd (rn rx ry : Reg) (s : State) : Host.Outcome State Fault Refusal :=
  runCompute (.aluBin .and rn rx ry) s

/-- `Rn = Rx OR Ry` (44_alu_fixed.md R420). -/
def execOr (rn rx ry : Reg) (s : State) : Host.Outcome State Fault Refusal :=
  runCompute (.aluBin .or rn rx ry) s

/-- `Rn = Rx XOR Ry` (44_alu_fixed.md R421). -/
def execXor (rn rx ry : Reg) (s : State) : Host.Outcome State Fault Refusal :=
  runCompute (.aluBin .xor rn rx ry) s

/-- `Rn = NOT Rx` (44_alu_fixed.md R422). -/
def execNot (rn rx : Reg) (s : State) : Host.Outcome State Fault Refusal :=
  runCompute (.aluUn .not rn rx) s

/-- `Rn = MIN(Rx, Ry)` (44_alu_fixed.md R423). -/
def execMin (rn rx ry : Reg) (s : State) : Host.Outcome State Fault Refusal :=
  runCompute (.aluBin .min rn rx ry) s

/-- `Rn = MAX(Rx, Ry)` (44_alu_fixed.md R424). -/
def execMax (rn rx ry : Reg) (s : State) : Host.Outcome State Fault Refusal :=
  runCompute (.aluBin .max rn rx ry) s

/-- `Rn = CLIP Rx BY Ry` (44_alu_fixed.md R425). -/
def execClip (rn rx ry : Reg) (s : State) : Host.Outcome State Fault Refusal :=
  runCompute (.aluBin .clip rn rx ry) s

end Sys2Proof.Machine
end

