-- ==== Sys2Proof/Machine/AluFloat.lean ====
section
/-!
DEFINITION. Machine/AluFloat.lean: the floating-point ALU operations (45_alu_float.md), each as the Type 2 instruction
without IF that carries it (30_encoding.md R203): the operation runs in PEx, and in PEy in SIMD mode.
-/
namespace Sys2Proof.Machine

/-- `Fn = Fx + Fy` (45_alu_float.md R446). -/
def execFadd (rn rx ry : Reg) (s : State) : Host.Outcome State Fault Refusal :=
  runCompute (.aluBin .fadd rn rx ry) s

/-- `Fn = Fx - Fy` (45_alu_float.md R447). -/
def execFsub (rn rx ry : Reg) (s : State) : Host.Outcome State Fault Refusal :=
  runCompute (.aluBin .fsub rn rx ry) s

/-- `Fn = ABS (Fx + Fy)` (45_alu_float.md R448). -/
def execFabsAdd (rn rx ry : Reg) (s : State) : Host.Outcome State Fault Refusal :=
  runCompute (.aluBin .fabsAdd rn rx ry) s

/-- `Fn = ABS (Fx - Fy)` (45_alu_float.md R448). -/
def execFabsSub (rn rx ry : Reg) (s : State) : Host.Outcome State Fault Refusal :=
  runCompute (.aluBin .fabsSub rn rx ry) s

/-- `Fn = (Fx + Fy)/2` (45_alu_float.md R449). -/
def execFavg (rn rx ry : Reg) (s : State) : Host.Outcome State Fault Refusal :=
  runCompute (.aluBin .favg rn rx ry) s

/-- `COMP(Fx, Fy)` (45_alu_float.md R450). -/
def execFcomp (rx ry : Reg) (s : State) : Host.Outcome State Fault Refusal :=
  runCompute (.aluCmp .fcomp rx ry) s

/-- `Fn = -Fx` (45_alu_float.md R451). -/
def execFneg (rn rx : Reg) (s : State) : Host.Outcome State Fault Refusal :=
  runCompute (.aluUn .fneg rn rx) s

/-- `Fn = ABS Fx` (45_alu_float.md R452). -/
def execFabs (rn rx : Reg) (s : State) : Host.Outcome State Fault Refusal :=
  runCompute (.aluUn .fabs rn rx) s

/-- `Fn = PASS Fx` (45_alu_float.md R453). -/
def execFpass (rn rx : Reg) (s : State) : Host.Outcome State Fault Refusal :=
  runCompute (.aluUn .fpass rn rx) s

/-- `Fn = RND Fx` (45_alu_float.md R454). -/
def execFrnd (rn rx : Reg) (s : State) : Host.Outcome State Fault Refusal :=
  runCompute (.aluUn .frnd rn rx) s

/-- `Fn = SCALB Fx BY Ry` (45_alu_float.md R455). -/
def execScalb (rn rx ry : Reg) (s : State) : Host.Outcome State Fault Refusal :=
  runCompute (.aluBin .scalb rn rx ry) s

/-- `Rn = MANT Fx` (45_alu_float.md R456). -/
def execMant (rn rx : Reg) (s : State) : Host.Outcome State Fault Refusal :=
  runCompute (.aluUn .mant rn rx) s

/-- `Rn = LOGB Fx` (45_alu_float.md R457). -/
def execLogb (rn rx : Reg) (s : State) : Host.Outcome State Fault Refusal :=
  runCompute (.aluUn .logb rn rx) s

/-- `Rn = FIX Fx` (45_alu_float.md R458). -/
def execFix (rn rx : Reg) (s : State) : Host.Outcome State Fault Refusal :=
  runCompute (.aluUn .fix rn rx) s

/-- `Rn = FIX Fx BY Ry` (45_alu_float.md R458). -/
def execFixBy (rn rx ry : Reg) (s : State) : Host.Outcome State Fault Refusal :=
  runCompute (.aluBin .fixBy rn rx ry) s

/-- `Rn = TRUNC Fx` (45_alu_float.md R458). -/
def execTrunc (rn rx : Reg) (s : State) : Host.Outcome State Fault Refusal :=
  runCompute (.aluUn .trunc rn rx) s

/-- `Rn = TRUNC Fx BY Ry` (45_alu_float.md R458). -/
def execTruncBy (rn rx ry : Reg) (s : State) : Host.Outcome State Fault Refusal :=
  runCompute (.aluBin .truncBy rn rx ry) s

/-- `Fn = FLOAT Rx` (45_alu_float.md R459). -/
def execFloat (rn rx : Reg) (s : State) : Host.Outcome State Fault Refusal :=
  runCompute (.aluUn .float rn rx) s

/-- `Fn = FLOAT Rx BY Ry` (45_alu_float.md R459). -/
def execFloatBy (rn rx ry : Reg) (s : State) : Host.Outcome State Fault Refusal :=
  runCompute (.aluBin .floatBy rn rx ry) s

/-- `Fn = RECIPS Fx` (45_alu_float.md R460). -/
def execRecips (rn rx : Reg) (s : State) : Host.Outcome State Fault Refusal :=
  runCompute (.aluUn .recips rn rx) s

/-- `Fn = RSQRTS Fx` (45_alu_float.md R461). -/
def execRsqrts (rn rx : Reg) (s : State) : Host.Outcome State Fault Refusal :=
  runCompute (.aluUn .rsqrts rn rx) s

/-- `Fn = Fx COPYSIGN Fy` (45_alu_float.md R462). -/
def execCopysign (rn rx ry : Reg) (s : State) : Host.Outcome State Fault Refusal :=
  runCompute (.aluBin .copysign rn rx ry) s

/-- `Fn = MIN(Fx, Fy)` (45_alu_float.md R463). -/
def execFmin (rn rx ry : Reg) (s : State) : Host.Outcome State Fault Refusal :=
  runCompute (.aluBin .fmin rn rx ry) s

/-- `Fn = MAX(Fx, Fy)` (45_alu_float.md R464). -/
def execFmax (rn rx ry : Reg) (s : State) : Host.Outcome State Fault Refusal :=
  runCompute (.aluBin .fmax rn rx ry) s

/-- `Fn = CLIP Fx BY Fy` (45_alu_float.md R465). -/
def execFclip (rn rx ry : Reg) (s : State) : Host.Outcome State Fault Refusal :=
  runCompute (.aluBin .fclip rn rx ry) s

end Sys2Proof.Machine
end

