-- ==== Sys2Proof/Machine/ImmediateMove.lean ====
section
/-!
DEFINITION. Machine/ImmediateMove.lean: Group III, immediate moves, Types 14 to 17 (42_immediate_move.md R350 to R354).
-/
namespace Sys2Proof.Machine

/-- An unconditional move (42_immediate_move.md R350). -/
def everyPe : Gate := ⟨true, true, false⟩

/-- An unconditional memory move without compute. -/
def runAccess (m : MemMove) (s : State) : Host.Outcome State Fault Refusal :=
  outcome s do
    let t0 ← s.begin
    let t ← s.move t0 m everyPe []
    s.advance t

/-- Type 14: a register and a directly addressed location (42_immediate_move.md R351). -/
def execUregAbs (dag2 write lw : Bool) (u : UReg) (addr : W32) (s : State) : Host.Outcome State Fault Refusal :=
  runAccess { op := if write then .store (.reg u) else .load u, pm := dag2, mode := .direct addr, lw := lw } s

/-- Type 15: a register and the location at `I + data`, I unchanged (42_immediate_move.md R352). -/
def execUregPre (dag2 : Bool) (i : DagNum) (write lw : Bool) (u : UReg) (data : W32) (s : State) :
    Host.Outcome State Fault Refusal :=
  runAccess
    { op := if write then .store (.reg u) else .load u, pm := dag2, mode := .pre (dagNumber dag2 i) (.imm data), lw := lw } s

/-- Type 16: immediate data to memory (42_immediate_move.md R353). -/
def execStoreImm (i m : DagNum) (dag2 : Bool) (data : W32) (s : State) : Host.Outcome State Fault Refusal :=
  runAccess
    { op := .store (.imm data), pm := dag2, mode := .post (dagNumber dag2 i) (.reg (dagNumber dag2 m)), lw := false } s

/-- Immediate data to a register and, in SIMD mode, to its complement (42_immediate_move.md R354). -/
def State.putImmediate (s t : State) (u : UReg) (v : W32) : Run State := do
  s.useMode1 0x00200000
  s.mayWrite u
  let t1 ← t.write32 u v
  match (if s.simd then u.comp else none) with
  | some c => t1.write32 c v
  | none => .ok t1

/-- Type 17: immediate data to a register (42_immediate_move.md R354). -/
def execLoadImm (u : UReg) (data : W32) (s : State) : Host.Outcome State Fault Refusal :=
  outcome s do
    let t0 ← s.begin
    let t ← s.putImmediate t0 u data
    s.advance t

end Sys2Proof.Machine
end

