-- ==== Sys2Proof/Machine/ProgramFlow.lean ====
section
/-!
DEFINITION. Machine/ProgramFlow.lean: Group II, branches, returns and loops, Types 8 to 13 (41_program_flow.md R300 to
R337).
-/
namespace Sys2Proof.Machine

/-! ### Branches -/

/-- The target `n + RELADDR` (41_program_flow.md R301). -/
def State.relTarget (s : State) (rel : W24) : Run W24 := .ok (s.seq.pc + rel)

/-- The target `(I + M)[23:0]` through DAG2, without update or wrap (41_program_flow.md R301). -/
def State.indTarget (s : State) (i m : DagNum) : Run W24 := do
  s.mayRead (.i (dagNumber true i))
  s.mayRead (.m (dagNumber true m))
  .ok ((s.dagReg .i (dagNumber true i) + s.dagReg .m (dagNumber true m)).setWidth 24)

/-- The branch that an instruction takes: delayed or not; `ret` for a return. -/
def branchTo (db ret : Bool) (a : W24) : Flow := if db then .delayed a ret else .jump a

/-- A taken branch does not stand in a delay slot (41_program_flow.md R302, D13). -/
def State.slotFree (s : State) : Run Unit := need (s.seq.dbSlots == 0) .delaySlotViolation

/-- The (LA) modifier: the active loop is abandoned, and the target is not the end of a condition-based outer loop
(41_program_flow.md R304, R335). -/
def State.abortLoop (t : State) (a : W24) : Run State := do
  let u ← t.popLoop
  let v ← u.popPc
  need (!(v.looping && v.loopType == 0 && v.loopEnd == a)) .nestedLoopEnd
  .ok v

/-- A JUMP on the written state `t` (41_program_flow.md R310): not taken, the flow goes on. -/
def State.jumpIf (s t : State) (c : Cond) (la db ci : Bool) (target : Run W24) : Run State := do
  s.branchPlace false
  if s.condBoth c then
    s.slotFree
    let a ← target
    s.flow t fun _ u => do
      if la then s.pcStackReady
      let u1 ← if la then u.abortLoop a else .ok u
      let u2 ← if ci then u1.leave else .ok u1
      need (u2.entryAllowed a) .loopEndEntry
      .ok (u2, branchTo db false a)
  else s.advance t

/-- A CALL on the written state `t` (41_program_flow.md R311): the return address is the next address in the flow, or the
one after the two delay slots. DESIGN CHOICE (log 103): an immediate CALL that R334 allows in a two-instruction
condition-based loop pushes as any other, and is no ShortLoopStackAccess (U17). -/
def State.callIf (s t : State) (c : Cond) (db : Bool) (target : Run W24) : Run State := do
  s.branchPlace (!db)
  if s.condBoth c then
    s.slotFree
    s.pcStackReady
    need (!s.seq.stackOverflow) .stackOverflowState
    let a ← target
    s.flow t fun nf u => do
      let u1 := u.pushPc (if db then nf else s.seq.daddr)
      need (u1.entryAllowed a) .loopEndEntry
      .ok (u1, branchTo db false a)
  else s.advance t

/-- A JUMP or CALL with a compute, with the compute's own gate (41_program_flow.md R303). -/
def withGate (c : Cond) (els : Bool) (k : Compute) (s : State) (branch : State → Run State) :
    Host.Outcome State Fault Refusal :=
  outcome s do
    s.condReady c
    let t0 ← s.begin
    let t ← s.computePart t0 k (s.peGate c els)
    branch t

/-- Type 8, JUMP to an address (41_program_flow.md R310). -/
def execJumpAbs (la : Bool) (c : Cond) (db ci : Bool) (addr : W24) (s : State) : Host.Outcome State Fault Refusal :=
  withGate c false .none s fun t => s.jumpIf t c la db ci (.ok addr)

/-- Type 8, JUMP relative to PC (41_program_flow.md R310). -/
def execJumpRel (la : Bool) (c : Cond) (db ci : Bool) (rel : W24) (s : State) : Host.Outcome State Fault Refusal :=
  withGate c false .none s fun t => s.jumpIf t c la db ci (s.relTarget rel)

/-- Type 8, CALL of an address (41_program_flow.md R311). -/
def execCallAbs (c : Cond) (db : Bool) (addr : W24) (s : State) : Host.Outcome State Fault Refusal :=
  withGate c false .none s fun t => s.callIf t c db (.ok addr)

/-- Type 8, CALL relative to PC (41_program_flow.md R311). -/
def execCallRel (c : Cond) (db : Bool) (rel : W24) (s : State) : Host.Outcome State Fault Refusal :=
  withGate c false .none s fun t => s.callIf t c db (s.relTarget rel)

/-- Type 9, indirect JUMP with compute (41_program_flow.md R312). -/
def execJumpInd (la : Bool) (c : Cond) (i m : DagNum) (db els ci : Bool) (k : Compute) (s : State) :
    Host.Outcome State Fault Refusal :=
  withGate c els k s fun t => s.jumpIf t c la db ci (s.indTarget i m)

/-- Type 9, short relative JUMP with compute (41_program_flow.md R312). -/
def execJumpRel6 (la : Bool) (c : Cond) (rel : BitVec 6) (db els ci : Bool) (k : Compute) (s : State) :
    Host.Outcome State Fault Refusal :=
  withGate c els k s fun t => s.jumpIf t c la db ci (s.relTarget (rel.signExtend 24))

/-- Type 9, indirect CALL with compute (41_program_flow.md R313). -/
def execCallInd (c : Cond) (i m : DagNum) (db els : Bool) (k : Compute) (s : State) : Host.Outcome State Fault Refusal :=
  withGate c els k s fun t => s.callIf t c db (s.indTarget i m)

/-- Type 9, short relative CALL with compute (41_program_flow.md R313). -/
def execCallRel6 (c : Cond) (rel : BitVec 6) (db els : Bool) (k : Compute) (s : State) :
    Host.Outcome State Fault Refusal :=
  withGate c els k s fun t => s.callIf t c db (s.relTarget (rel.signExtend 24))

/-- The gates of the ELSE transfer of Type 10: each element where its condition is false (41_program_flow.md R314). -/
def State.elseGate (s : State) (c : Cond) : Gate := ⟨!s.cond false c, !s.cond s.simd c, true⟩

/-- Type 10 (41_program_flow.md R314): the JUMP, or where the condition is false the compute and the post-modify transfer
of a data register. -/
def jumpElse (write : Bool) (dmI dmM : DagNum) (c : Cond) (target : State → Run W24) (d : Reg) (k : Compute) (s : State) :
    Host.Outcome State Fault Refusal :=
  outcome s do
    s.condReady c
    let t0 ← s.begin
    if s.condBoth c then s.jumpIf t0 c false false false (target s)
    else
      s.branchPlace false
      let t ← s.computePart t0 k (s.peGate c true)
      let u ← s.move t
        { op := if write then .store (.reg (.r d)) else .load (.r d), pm := false
          mode := .post (dagNumber false dmI) (.reg (dagNumber false dmM)), lw := false } (s.elseGate c) k.dests
      s.advance u

/-- Type 10, indirect JUMP, else compute and transfer (41_program_flow.md R314). -/
def execJumpIndElse (write : Bool) (dmI dmM : DagNum) (c : Cond) (i m : DagNum) (d : Reg) (k : Compute) (s : State) :
    Host.Outcome State Fault Refusal :=
  jumpElse write dmI dmM c (fun s => s.indTarget i m) d k s

/-- Type 10, short relative JUMP, else compute and transfer (41_program_flow.md R314). -/
def execJumpRelElse (write : Bool) (dmI dmM : DagNum) (c : Cond) (rel : BitVec 6) (d : Reg) (k : Compute) (s : State) :
    Host.Outcome State Fault Refusal :=
  jumpElse write dmI dmM c (fun s => s.relTarget (rel.signExtend 24)) d k s

/-! ### Returns -/

/-- A return on the written state `t`: the address on top of the PC stack, popped, then what `after` does
(41_program_flow.md R306). -/
def State.returnIf (s t : State) (c : Cond) (db : Bool) (after : W24 → State → Run State) : Run State := do
  s.branchPlace false
  if s.condBoth c then
    s.slotFree
    s.pcStackReady
    s.flow t fun _ u => do
      let a := u.topPc
      let u1 ← u.popPc
      let u2 ← after a u1
      .ok (u2, branchTo db true a)
  else s.advance t

/-- Type 11, RTS (41_program_flow.md R315). -/
def execRts (c : Cond) (db els lr : Bool) (k : Compute) (s : State) : Host.Outcome State Fault Refusal :=
  withGate c els k s fun t => s.returnIf t c db fun a u => do
    need (lr || u.entryAllowed a) .loopReentryWithoutLR
    .ok u

/-- Type 11, RTI, the return from an interrupt (41_program_flow.md R316): the interrupt is left after the compute has
written its flags (D17). -/
def execRti (c : Cond) (db els : Bool) (k : Compute) (s : State) : Host.Outcome State Fault Refusal :=
  withGate c els k s fun t => s.returnIf t c db fun _ u => u.leave

/-! ### Loops -/

/-- The type field of a loop of `len` instructions (41_program_flow.md R322). -/
def loopKind (term : Cond) (len : W24) : BitVec 2 :=
  if term != .lce then 0 else if len == 1 then 1 else if len == 2 then 2 else 3

/-- A new loop ends too close to the end of the loop around it (41_program_flow.md R335, U23). -/
def State.endsTooClose (t : State) (e : W24) : Bool :=
  t.looping &&
    (e == t.loopEnd || (t.loopType == 0 && t.loopEnd.toNat < e.toNat + 2 && e.toNat ≤ t.loopEnd.toNat))

/-- The window after DO UNTIL (41_program_flow.md R322). -/
def loopWindow (b e len : W24) : Flow :=
  if len == 1 then .doLoop b b else if len == 2 then .doLoop e b else .doLoop (b + 1) (b + 2)

/-- DO UNTIL: the loop set up (41_program_flow.md R320 to R322); `count` for the form that writes LCNTR. DEDUCED (log 64): the
end is compared with the loop on top after the pops of this step (R335). -/
def State.doUntil (s : State) (term : Cond) (rel : W24) (count : Option W32) : Run State := do
  s.stackPlace true
  s.pcStackReady
  s.useMode1 0x00200000
  need (!(term == .lce && s.seq.loopDepth ≥ 6)) .loopCounterStackFull
  let b := s.seq.pc + 1
  let e := s.seq.pc + rel
  need (b.toNat ≤ e.toNat) .illegalLoopEnd
  let t0 ← s.begin
  s.flow t0 fun _ u => do
    need (!u.endsTooClose e) .nestedLoopEnd
    let u1 := match count with
      | some n => u.setCount u.seq.loopDepth n
      | none => u
    let u2 := u1.pushLoop (loopKind term (e - b + 1) ++ 0#1 ++ term.code ++ e) u1.lcntr
    .ok (u2.pushPc b, loopWindow b e (e - b + 1))

/-- Type 12, `LCNTR = data16, DO UNTIL LCE` (41_program_flow.md R320). -/
def execDoImm (count : W16) (rel : W24) (s : State) : Host.Outcome State Fault Refusal :=
  outcome s (s.doUntil .lce rel (some (count.setWidth 32)))

/-- Type 12, `LCNTR = ureg, DO UNTIL LCE` (41_program_flow.md R320). -/
def execDoUreg (u : UReg) (rel : W24) (s : State) : Host.Outcome State Fault Refusal :=
  outcome s do
    s.mayRead u
    s.doUntil .lce rel (some ((s.read40 u).extractLsb' 8 32))

/-- Type 13, DO UNTIL a termination condition (41_program_flow.md R321). -/
def execDoUntil (term : Cond) (rel : W24) (s : State) : Host.Outcome State Fault Refusal :=
  outcome s (s.doUntil term rel none)

end Sys2Proof.Machine
end

