-- ==== Sys2Proof/Machine/Misc.lean ====
section
/-!
DEFINITION. Machine/Misc.lean: Group IV, Types 18 to 22 and 25: system register bits, index modify and bit-reverse, the
stacks, NOP, IDLE, CJUMP and RFRAME (43_misc.md R370 to R389).
-/
namespace Sys2Proof.Machine

/-! ### Type 18 -/

/-- The complementary system register (10_state.md R24). -/
def sregComp (k : SReg) : Option SReg :=
  match (UReg.sys k).comp with
  | some (.sys c) => some c
  | _ => none

/-- A system register as a read-modify-write of an instruction from `s` reads it; `t` is the state it writes to, where the
stacks of a loop that ends are popped already. Reading and writing are one (43_misc.md R370; DEDUCED, log 90). -/
def State.readBack (s t : State) (k : SReg) : W32 := ({ s with reg := t.reg, stackBits := t.stackBits }).readSys k

/-- BIT SET, CLR and TGL: the register, and in SIMD mode its complement, replaced by `f` of itself (43_misc.md R370). DESIGN
CHOICE (log 100): right after a change of PEYEN only a register with a complement is a use of it. -/
def bitWrite (k : SReg) (f : W32 → W32) (s : State) : Host.Outcome State Fault Refusal :=
  outcome s do
    if (sregComp k).isSome then s.useMode1 0x00200000
    let t0 ← s.begin
    let t ← t0.writeSys k (f (s.readBack t0 k))
    let u ← match (if s.simd then sregComp k else none) with
      | some d => t.writeSys d (f (s.readBack t0 d))
      | none => .ok t
    s.advance u

/-- ASTAT with the bit test flag BTF at `b` (10_state.md R37). -/
def putBtf (astat : W32) (b : Bool) : W32 := putBits astat 0x00040000 (bitAt 18 b)

/-- What BIT TST and BIT XOR leave in ASTATy.BTF: in SIMD mode the test of the complement, or without one a free bit
(U25); in SISD mode the bit stays (D19). -/
def State.testY (s : State) (k : SReg) (f : W32 → Bool) : W32 :=
  if s.simd then
    putBtf s.reg.astaty (match sregComp k with | some d => f (s.readSys d) | none => (s.free 11).getLsbD 0)
  else s.reg.astaty

/-- BIT TST and BIT XOR: BTF of ASTATx, and of ASTATy in SIMD mode, from the test `f` (43_misc.md R370, D19, D20). -/
def bitTest (k : SReg) (f : W32 → Bool) (s : State) : Host.Outcome State Fault Refusal :=
  outcome s do
    s.useMode1 0x00200000
    let t ← s.begin
    s.advance { t with
      reg := { t.reg with astatx := putBtf s.reg.astatx (f (s.readSys k)), astaty := s.testY k f }
      recent := { t.recent with btf := true } }

/-- Type 18, BIT SET (43_misc.md R371). -/
def execBitSet (k : SReg) (data : W32) (s : State) : Host.Outcome State Fault Refusal := bitWrite k (· ||| data) s

/-- Type 18, BIT CLR (43_misc.md R374). -/
def execBitClr (k : SReg) (data : W32) (s : State) : Host.Outcome State Fault Refusal := bitWrite k (· &&& ~~~data) s

/-- Type 18, BIT TGL (43_misc.md R379). -/
def execBitTgl (k : SReg) (data : W32) (s : State) : Host.Outcome State Fault Refusal := bitWrite k (· ^^^ data) s

/-- Type 18, BIT TST: all the bits of `data` are set (43_misc.md R372). -/
def execBitTst (k : SReg) (data : W32) (s : State) : Host.Outcome State Fault Refusal :=
  bitTest k (fun v => v &&& data == data) s

/-- Type 18, BIT XOR: the register equals `data` (43_misc.md R373). -/
def execBitXor (k : SReg) (data : W32) (s : State) : Host.Outcome State Fault Refusal := bitTest k (· == data) s

/-! ### Type 19 -/

/-- Type 19, MODIFY with an immediate (43_misc.md R377). -/
def execModifyImm (dag2 : Bool) (i : DagNum) (data : W32) (s : State) : Host.Outcome State Fault Refusal :=
  outcome s do
    s.useMode1 0x00200000
    let t0 ← s.begin
    let t ← s.modifyIndex t0 (dagNumber dag2 i) data true
    s.advance t

/-- The circular update of BITREV gives the plain sum: there is no buffer, or the sum stays inside (43_misc.md R378). -/
def bitrevPlain (i b l m : W32) : Bool := l == 0 || circUpdate i b l m == i + m

/-- Type 19, BITREV: the plain sum bit-reversed, unless an active buffer (L not 0, CBUFEN = 1) would give another sum
(43_misc.md R378, 93_implementation_defined.md U26, log 37). Where the sums differ it reads CBUFEN
(70_reset_and_hazards.md R800). -/
def execBitrev (dag2 : Bool) (i : DagNum) (data : W32) (s : State) : Host.Outcome State Fault Refusal :=
  outcome s do
    let n := dagNumber dag2 i
    s.useMode1 0x00200000
    s.mayRead (.i n)
    let plain := bitrevPlain (s.dagReg .i n) (s.dagReg .b n) (s.dagReg .l n) data
    s.useMode1 (if plain then 0 else 0x01000000)
    need (plain || !cbufen s.reg.mode1) .bitrevCircular
    let t0 ← s.begin
    s.advance (t0.setDagReg .i n (rev32 (s.dagReg .i n + data)))

/-! ### Type 20 -/

/-- The cache emptied, if asked (43_misc.md R376). -/
def State.flushIf (s : State) (b : Bool) : State :=
  if b then s.mapSeq fun q => { q with cache := .replicate 16 [] } else s

/-- Pushes of a Type 20 word, in any set (43_misc.md R375, R384, R386, R388). -/
def pushAll (loop sts pc flush : Bool) (s : State) : Host.Outcome State Fault Refusal :=
  outcome s do
    s.stackPlace true
    if pc then s.pcStackReady
    need (!(sts && s.changed.mmask != 0)) .latencyHazard
    let t0 ← s.begin
    s.flow t0 fun _ u =>
      let u1 := if loop then u.pushLoop 0 u.lcntr else u
      let u2 := if sts then (u1.pushSts s.reg.mmask).noteStatus u1 else u1
      let u3 := if pc then u2.pushPc ((s.free 10).setWidth 24) else u2
      .ok (u3.flushIf flush, .next)

/-- Pops of a Type 20 word, in any set (43_misc.md R375, R385, R387, R389). -/
def popAll (loop sts pc flush : Bool) (s : State) : Host.Outcome State Fault Refusal :=
  outcome s do
    s.stackPlace true
    if pc then s.pcStackReady
    let t0 ← s.begin
    s.flow t0 fun _ u => do
      let u1 ← if loop then u.popLoop else .ok u
      let u2 ← if sts then u1.popSts else .ok u1
      let u3 ← if pc then u2.popPc else .ok u2
      .ok (u3.flushIf flush, .next)

/-- Type 20, PUSH LOOP, with the other pushes of the word (43_misc.md R384). -/
def execPushLoop (sts pc flush : Bool) (s : State) : Host.Outcome State Fault Refusal := pushAll true sts pc flush s

/-- Type 20, POP LOOP, with the other pops of the word (43_misc.md R385). -/
def execPopLoop (sts pc flush : Bool) (s : State) : Host.Outcome State Fault Refusal := popAll true sts pc flush s

/-- Type 20, PUSH STS (43_misc.md R386). -/
def execPushSts (pc flush : Bool) (s : State) : Host.Outcome State Fault Refusal := pushAll false true pc flush s

/-- Type 20, POP STS (43_misc.md R387). -/
def execPopSts (pc flush : Bool) (s : State) : Host.Outcome State Fault Refusal := popAll false true pc flush s

/-- Type 20, PUSH PCSTK (43_misc.md R388). -/
def execPushPc (flush : Bool) (s : State) : Host.Outcome State Fault Refusal := pushAll false false true flush s

/-- Type 20, POP PCSTK (43_misc.md R389). -/
def execPopPc (flush : Bool) (s : State) : Host.Outcome State Fault Refusal := popAll false false true flush s

/-- Type 20, FLUSH CACHE (43_misc.md R376). -/
def execFlushCache (s : State) : Host.Outcome State Fault Refusal :=
  outcome s do
    let t0 ← s.begin
    s.advance (t0.flushIf true)

/-! ### Types 21 and 22 -/

/-- Type 21, NOP (43_misc.md R382). -/
def execNop (s : State) : Host.Outcome State Fault Refusal :=
  outcome s do
    let t0 ← s.begin
    s.advance t0

/-- Type 22, IDLE (43_misc.md R383). -/
def execIdle (s : State) : Host.Outcome State Fault Refusal :=
  outcome s do
    s.slotFree
    let t0 ← s.begin
    s.advance (t0.mapSeq fun q => { q with idle := true })

/-! ### Type 25 -/

/-- CJUMP: `R2 = I6` (in SIMD mode `S2 = I6` too), `I6 = I7`, and a delayed jump (43_misc.md R380). -/
def cjump (target : State → W24) (s : State) : Host.Outcome State Fault Refusal :=
  outcome s do
    s.branchPlace false
    s.slotFree
    s.useMode1 0x00200000
    s.mayRead (.i 6)
    s.mayWrite (.r 2)
    let v := s.dagReg .i 6 ++ 0#8
    let t0 ← s.begin
    let t := t0.setDreg false 2 v
    let u := if s.simd then t.setDreg true 2 v else t
    s.flow (u.setDagReg .i 6 (s.dagReg .i 7)) fun _ u => do
      need (u.entryAllowed (target s)) .loopEndEntry
      .ok (u, .delayed (target s) false)

/-- Type 25, CJUMP to an address (43_misc.md R380). -/
def execCjumpAbs (addr : W24) (s : State) : Host.Outcome State Fault Refusal := cjump (fun _ => addr) s

/-- Type 25, CJUMP relative to PC (43_misc.md R380). -/
def execCjumpRel (rel : W24) (s : State) : Host.Outcome State Fault Refusal := cjump (fun s => s.seq.pc + rel) s

/-- Type 25, RFRAME: `I7 = I6, I6 = DM(0,I6)` (43_misc.md R381); in SIMD mode the spec does not say which word I6 ends
with (U29). DESIGN CHOICE (log 56): where I6 names a long word, which loads I6 and I7 both, the word loaded into I7 stands,
not I6. -/
def execRframe (s : State) : Host.Outcome State Fault Refusal :=
  outcome s do
    s.useMode1 0x00200000
    need (!s.simd) .rframeSimd
    s.mayRead (.i 6)
    let t0 ← s.begin
    let t ← s.move (t0.setDagReg .i 7 (s.dagReg .i 6))
      { op := .load (.i 6), pm := false, mode := .pre 6 (.imm 0), lw := false } ⟨true, true, false⟩ []
    s.advance t

end Sys2Proof.Machine
end

