-- ==== Sys2Proof/Machine/Multifunction.lean ====
section
/-!
DEFINITION. Machine/Multifunction.lean: the multifunction operations (48_multifunction.md), each as the Type 2 instruction
without IF that carries it (30_encoding.md R203): the operation runs in PEx, and in PEy in SIMD mode.
-/
namespace Sys2Proof.Machine

/-- `Ra = Rx + Ry, Rs = Rx - Ry` (48_multifunction.md R571). -/
def execDualFix (rs ra rx ry : Reg) (s : State) : Host.Outcome State Fault Refusal :=
  runCompute (.dualFix rs ra rx ry) s

/-- `Fa = Fx + Fy, Fs = Fx - Fy` (48_multifunction.md R575). -/
def execDualFlt (rs ra rx ry : Reg) (s : State) : Host.Outcome State Fault Refusal :=
  runCompute (.dualFlt rs ra rx ry) s

/-- `Rm = R3-0 * R7-4 (SSFR), Ra = R11-8 + R15-12` (48_multifunction.md R576). -/
def execMfMulAdd (q : MfRegs) (s : State) : Host.Outcome State Fault Refusal :=
  runCompute (.mfFix .rm .add q) s

/-- `Rm = R3-0 * R7-4 (SSFR), Ra = R11-8 - R15-12` (48_multifunction.md R577). -/
def execMfMulSub (q : MfRegs) (s : State) : Host.Outcome State Fault Refusal :=
  runCompute (.mfFix .rm .sub q) s

/-- `Rm = R3-0 * R7-4 (SSFR), Ra = (R11-8 + R15-12)/2` (48_multifunction.md R578). -/
def execMfMulAvg (q : MfRegs) (s : State) : Host.Outcome State Fault Refusal :=
  runCompute (.mfFix .rm .avg q) s

/-- `MRF = MRF + R3-0 * R7-4 (SSF), Ra = R11-8 + R15-12` (48_multifunction.md R579). -/
def execMfMrfPlusAdd (q : MfRegs) (s : State) : Host.Outcome State Fault Refusal :=
  runCompute (.mfFix .mrfPlus .add q) s

/-- `MRF = MRF + R3-0 * R7-4 (SSF), Ra = R11-8 - R15-12` (48_multifunction.md R580). -/
def execMfMrfPlusSub (q : MfRegs) (s : State) : Host.Outcome State Fault Refusal :=
  runCompute (.mfFix .mrfPlus .sub q) s

/-- `MRF = MRF + R3-0 * R7-4 (SSF), Ra = (R11-8 + R15-12)/2` (48_multifunction.md R581). -/
def execMfMrfPlusAvg (q : MfRegs) (s : State) : Host.Outcome State Fault Refusal :=
  runCompute (.mfFix .mrfPlus .avg q) s

/-- `Rm = MRF + R3-0 * R7-4 (SSFR), Ra = R11-8 + R15-12` (48_multifunction.md R582). -/
def execMfRmPlusAdd (q : MfRegs) (s : State) : Host.Outcome State Fault Refusal :=
  runCompute (.mfFix .rmPlus .add q) s

/-- `Rm = MRF + R3-0 * R7-4 (SSFR), Ra = R11-8 - R15-12` (48_multifunction.md R583). -/
def execMfRmPlusSub (q : MfRegs) (s : State) : Host.Outcome State Fault Refusal :=
  runCompute (.mfFix .rmPlus .sub q) s

/-- `Rm = MRF + R3-0 * R7-4 (SSFR), Ra = (R11-8 + R15-12)/2` (48_multifunction.md R584). -/
def execMfRmPlusAvg (q : MfRegs) (s : State) : Host.Outcome State Fault Refusal :=
  runCompute (.mfFix .rmPlus .avg q) s

/-- `MRF = MRF - R3-0 * R7-4 (SSF), Ra = R11-8 + R15-12` (48_multifunction.md R585). -/
def execMfMrfMinusAdd (q : MfRegs) (s : State) : Host.Outcome State Fault Refusal :=
  runCompute (.mfFix .mrfMinus .add q) s

/-- `MRF = MRF - R3-0 * R7-4 (SSF), Ra = R11-8 - R15-12` (48_multifunction.md R586). -/
def execMfMrfMinusSub (q : MfRegs) (s : State) : Host.Outcome State Fault Refusal :=
  runCompute (.mfFix .mrfMinus .sub q) s

/-- `MRF = MRF - R3-0 * R7-4 (SSF), Ra = (R11-8 + R15-12)/2` (48_multifunction.md R587). -/
def execMfMrfMinusAvg (q : MfRegs) (s : State) : Host.Outcome State Fault Refusal :=
  runCompute (.mfFix .mrfMinus .avg q) s

/-- `Rm = MRF - R3-0 * R7-4 (SSFR), Ra = R11-8 + R15-12` (48_multifunction.md R588). -/
def execMfRmMinusAdd (q : MfRegs) (s : State) : Host.Outcome State Fault Refusal :=
  runCompute (.mfFix .rmMinus .add q) s

/-- `Rm = MRF - R3-0 * R7-4 (SSFR), Ra = R11-8 - R15-12` (48_multifunction.md R589). -/
def execMfRmMinusSub (q : MfRegs) (s : State) : Host.Outcome State Fault Refusal :=
  runCompute (.mfFix .rmMinus .sub q) s

/-- `Rm = MRF - R3-0 * R7-4 (SSFR), Ra = (R11-8 + R15-12)/2` (48_multifunction.md R590). -/
def execMfRmMinusAvg (q : MfRegs) (s : State) : Host.Outcome State Fault Refusal :=
  runCompute (.mfFix .rmMinus .avg q) s

/-- `Fm = F3-0 * F7-4, Fa = F11-8 + F15-12` (48_multifunction.md R591). -/
def execMfFmulAdd (q : MfRegs) (s : State) : Host.Outcome State Fault Refusal :=
  runCompute (.mfFlt .add q) s

/-- `Fm = F3-0 * F7-4, Fa = F11-8 - F15-12` (48_multifunction.md R592). -/
def execMfFmulSub (q : MfRegs) (s : State) : Host.Outcome State Fault Refusal :=
  runCompute (.mfFlt .sub q) s

/-- `Fm = F3-0 * F7-4, Fa = FLOAT R11-8 BY R15-12` (48_multifunction.md R593). -/
def execMfFmulFloat (q : MfRegs) (s : State) : Host.Outcome State Fault Refusal :=
  runCompute (.mfFlt .float q) s

/-- `Fm = F3-0 * F7-4, Ra = FIX F11-8 BY R15-12` (48_multifunction.md R594). -/
def execMfFmulFix (q : MfRegs) (s : State) : Host.Outcome State Fault Refusal :=
  runCompute (.mfFlt .fix q) s

/-- `Fm = F3-0 * F7-4, Fa = (F11-8 + F15-12)/2` (48_multifunction.md R595). -/
def execMfFmulAvg (q : MfRegs) (s : State) : Host.Outcome State Fault Refusal :=
  runCompute (.mfFlt .avg q) s

/-- `Fm = F3-0 * F7-4, Fa = ABS F11-8` (48_multifunction.md R596). -/
def execMfFmulAbs (q : MfRegs) (s : State) : Host.Outcome State Fault Refusal :=
  runCompute (.mfFlt .abs q) s

/-- `Fm = F3-0 * F7-4, Fa = MAX (F11-8, F15-12)` (48_multifunction.md R597). -/
def execMfFmulMax (q : MfRegs) (s : State) : Host.Outcome State Fault Refusal :=
  runCompute (.mfFlt .max q) s

/-- `Fm = F3-0 * F7-4, Fa = MIN (F11-8, F15-12)` (48_multifunction.md R598). -/
def execMfFmulMin (q : MfRegs) (s : State) : Host.Outcome State Fault Refusal :=
  runCompute (.mfFlt .min q) s

/-- `Rm = R3-0 * R7-4 (SSFR), Ra = R11-8 + R15-12, Rs = R11-8 - R15-12` (48_multifunction.md R599). -/
def execMfDualFix (rs : Reg) (q : MfRegs) (s : State) : Host.Outcome State Fault Refusal :=
  runCompute (.mfDualFix rs q) s

/-- `Fm = F3-0 * F7-4, Fa = F11-8 + F15-12, Fs = F11-8 - F15-12` (48_multifunction.md R561). -/
def execMfDualFlt (rs : Reg) (q : MfRegs) (s : State) : Host.Outcome State Fault Refusal :=
  runCompute (.mfDualFlt rs q) s

end Sys2Proof.Machine
end

