-- ==== Sys2Proof/Machine/Multiplier.lean ====
section
/-!
DEFINITION. Machine/Multiplier.lean: the multiplier operations and transfers (46_multiplier.md), each as the Type 2 instruction
without IF that carries it (30_encoding.md R203): the operation runs in PEx, and in PEy in SIMD mode.
-/
namespace Sys2Proof.Machine

/-- `Rn = Rx * Ry mod2` (46_multiplier.md R498). -/
def execMulRn (m : MulMod) (rn rx ry : Reg) (s : State) : Host.Outcome State Fault Refusal :=
  runCompute (.mulRn .none m rn rx ry) s

/-- `MRF = Rx * Ry mod2` (46_multiplier.md R499). -/
def execMulMrf (m : MulMod) (rx ry : Reg) (s : State) : Host.Outcome State Fault Refusal :=
  runCompute (.mulMr .f .set m rx ry) s

/-- `MRB = Rx * Ry mod2` (46_multiplier.md R500). -/
def execMulMrb (m : MulMod) (rx ry : Reg) (s : State) : Host.Outcome State Fault Refusal :=
  runCompute (.mulMr .b .set m rx ry) s

/-- `Rn = MRF + Rx * Ry mod2` (46_multiplier.md R501). -/
def execRnMrfPlus (m : MulMod) (rn rx ry : Reg) (s : State) : Host.Outcome State Fault Refusal :=
  runCompute (.mulRn (.plus .f) m rn rx ry) s

/-- `Rn = MRB + Rx * Ry mod2` (46_multiplier.md R502). -/
def execRnMrbPlus (m : MulMod) (rn rx ry : Reg) (s : State) : Host.Outcome State Fault Refusal :=
  runCompute (.mulRn (.plus .b) m rn rx ry) s

/-- `MRF = MRF + Rx * Ry mod2` (46_multiplier.md R503). -/
def execMrfPlus (m : MulMod) (rx ry : Reg) (s : State) : Host.Outcome State Fault Refusal :=
  runCompute (.mulMr .f .plus m rx ry) s

/-- `MRB = MRB + Rx * Ry mod2` (46_multiplier.md R504). -/
def execMrbPlus (m : MulMod) (rx ry : Reg) (s : State) : Host.Outcome State Fault Refusal :=
  runCompute (.mulMr .b .plus m rx ry) s

/-- `Rn = MRF - Rx * Ry mod2` (46_multiplier.md R505). -/
def execRnMrfMinus (m : MulMod) (rn rx ry : Reg) (s : State) : Host.Outcome State Fault Refusal :=
  runCompute (.mulRn (.minus .f) m rn rx ry) s

/-- `Rn = MRB - Rx * Ry mod2` (46_multiplier.md R506). -/
def execRnMrbMinus (m : MulMod) (rn rx ry : Reg) (s : State) : Host.Outcome State Fault Refusal :=
  runCompute (.mulRn (.minus .b) m rn rx ry) s

/-- `MRF = MRF - Rx * Ry mod2` (46_multiplier.md R507). -/
def execMrfMinus (m : MulMod) (rx ry : Reg) (s : State) : Host.Outcome State Fault Refusal :=
  runCompute (.mulMr .f .minus m rx ry) s

/-- `MRB = MRB - Rx * Ry mod2` (46_multiplier.md R508). -/
def execMrbMinus (m : MulMod) (rx ry : Reg) (s : State) : Host.Outcome State Fault Refusal :=
  runCompute (.mulMr .b .minus m rx ry) s

/-- `Rn = SAT MRF mod1` (46_multiplier.md R509). -/
def execRnSatMrf (m : SatMod) (rn : Reg) (s : State) : Host.Outcome State Fault Refusal :=
  runCompute (.satRn .f m rn) s

/-- `Rn = SAT MRB mod1` (46_multiplier.md R510). -/
def execRnSatMrb (m : SatMod) (rn : Reg) (s : State) : Host.Outcome State Fault Refusal :=
  runCompute (.satRn .b m rn) s

/-- `MRF = SAT MRF mod1` (46_multiplier.md R511). -/
def execSatMrf (m : SatMod) (s : State) : Host.Outcome State Fault Refusal :=
  runCompute (.satMr .f m) s

/-- `MRB = SAT MRB mod1` (46_multiplier.md R512). -/
def execSatMrb (m : SatMod) (s : State) : Host.Outcome State Fault Refusal :=
  runCompute (.satMr .b m) s

/-- `Rn = RND MRF mod1` (46_multiplier.md R513). -/
def execRnRndMrf (signed : Bool) (rn : Reg) (s : State) : Host.Outcome State Fault Refusal :=
  runCompute (.rndRn .f signed rn) s

/-- `Rn = RND MRB mod1` (46_multiplier.md R514). -/
def execRnRndMrb (signed : Bool) (rn : Reg) (s : State) : Host.Outcome State Fault Refusal :=
  runCompute (.rndRn .b signed rn) s

/-- `MRF = RND MRF mod1` (46_multiplier.md R515). -/
def execRndMrf (signed : Bool) (s : State) : Host.Outcome State Fault Refusal :=
  runCompute (.rndMr .f signed) s

/-- `MRB = RND MRB mod1` (46_multiplier.md R516). -/
def execRndMrb (signed : Bool) (s : State) : Host.Outcome State Fault Refusal :=
  runCompute (.rndMr .b signed) s

/-- `MRF = 0` (46_multiplier.md R517). -/
def execClrMrf (s : State) : Host.Outcome State Fault Refusal :=
  runCompute (.clrMr .f) s

/-- `MRB = 0` (46_multiplier.md R518). -/
def execClrMrb (s : State) : Host.Outcome State Fault Refusal :=
  runCompute (.clrMr .b) s

/-- `Fn = Fx * Fy` (46_multiplier.md R519). -/
def execMulF (rn rx ry : Reg) (s : State) : Host.Outcome State Fault Refusal :=
  runCompute (.mulF rn rx ry) s

/-- `Rk = MRxF | MRxB` (46_multiplier.md R520). -/
def execMrToReg (p : MrPart) (rk : Reg) (s : State) : Host.Outcome State Fault Refusal :=
  runCompute (.mrToReg p rk) s

/-- `MRxF | MRxB = Rk` (46_multiplier.md R520). -/
def execRegToMr (p : MrPart) (rk : Reg) (s : State) : Host.Outcome State Fault Refusal :=
  runCompute (.regToMr p rk) s

end Sys2Proof.Machine
end

