-- ==== Sys2Proof/Machine/Shifter.lean ====
section
/-!
DEFINITION. Machine/Shifter.lean: the shifter operations (47_shifter.md), each as the Type 2 instruction
without IF that carries it (30_encoding.md R203): the operation runs in PEx, and in PEy in SIMD mode.
-/
namespace Sys2Proof.Machine

/-- `Rn = LSHIFT Rx BY Ry|<data8>` (47_shifter.md R534). -/
def execLshift (rn rx ry : Reg) (s : State) : Host.Outcome State Fault Refusal :=
  runCompute (.shBin .lshift rn rx ry) s

/-- `Rn = Rn OR LSHIFT Rx BY Ry|<data8>` (47_shifter.md R535). -/
def execOrLshift (rn rx ry : Reg) (s : State) : Host.Outcome State Fault Refusal :=
  runCompute (.shBin .orLshift rn rx ry) s

/-- `Rn = ASHIFT Rx BY Ry|<data8>` (47_shifter.md R536). -/
def execAshift (rn rx ry : Reg) (s : State) : Host.Outcome State Fault Refusal :=
  runCompute (.shBin .ashift rn rx ry) s

/-- `Rn = Rn OR ASHIFT Rx BY Ry|<data8>` (47_shifter.md R537). -/
def execOrAshift (rn rx ry : Reg) (s : State) : Host.Outcome State Fault Refusal :=
  runCompute (.shBin .orAshift rn rx ry) s

/-- `Rn = ROT Rx BY Ry|<data8>` (47_shifter.md R538). -/
def execRot (rn rx ry : Reg) (s : State) : Host.Outcome State Fault Refusal :=
  runCompute (.shBin .rot rn rx ry) s

/-- `Rn = BCLR Rx BY Ry|<data8>` (47_shifter.md R539). -/
def execBclr (rn rx ry : Reg) (s : State) : Host.Outcome State Fault Refusal :=
  runCompute (.shBin .bclr rn rx ry) s

/-- `Rn = BSET Rx BY Ry|<data8>` (47_shifter.md R540). -/
def execBset (rn rx ry : Reg) (s : State) : Host.Outcome State Fault Refusal :=
  runCompute (.shBin .bset rn rx ry) s

/-- `Rn = BTGL Rx BY Ry|<data8>` (47_shifter.md R541). -/
def execBtgl (rn rx ry : Reg) (s : State) : Host.Outcome State Fault Refusal :=
  runCompute (.shBin .btgl rn rx ry) s

/-- `BTST Rx BY Ry|<data8>` (47_shifter.md R542). -/
def execBtst (rx ry : Reg) (s : State) : Host.Outcome State Fault Refusal :=
  runCompute (.btst rx ry) s

/-- `Rn = FDEP Rx BY Ry|<bit6>:<len6>` (47_shifter.md R543). -/
def execFdep (rn rx ry : Reg) (s : State) : Host.Outcome State Fault Refusal :=
  runCompute (.shBin .fdep rn rx ry) s

/-- `Rn = Rn OR FDEP Rx BY Ry|<bit6>:<len6>` (47_shifter.md R544). -/
def execOrFdep (rn rx ry : Reg) (s : State) : Host.Outcome State Fault Refusal :=
  runCompute (.shBin .orFdep rn rx ry) s

/-- `Rn = FDEP Rx BY Ry|<bit6>:<len6> (SE)` (47_shifter.md R545). -/
def execFdepSe (rn rx ry : Reg) (s : State) : Host.Outcome State Fault Refusal :=
  runCompute (.shBin .fdepSe rn rx ry) s

/-- `Rn = Rn OR FDEP Rx BY Ry|<bit6>:<len6> (SE)` (47_shifter.md R546). -/
def execOrFdepSe (rn rx ry : Reg) (s : State) : Host.Outcome State Fault Refusal :=
  runCompute (.shBin .orFdepSe rn rx ry) s

/-- `Rn = FEXT Rx BY Ry|<bit6>:<len6>` (47_shifter.md R547). -/
def execFext (rn rx ry : Reg) (s : State) : Host.Outcome State Fault Refusal :=
  runCompute (.shBin .fext rn rx ry) s

/-- `Rn = FEXT Rx BY Ry|<bit6>:<len6> (SE)` (47_shifter.md R548). -/
def execFextSe (rn rx ry : Reg) (s : State) : Host.Outcome State Fault Refusal :=
  runCompute (.shBin .fextSe rn rx ry) s

/-- `Rn = EXP Rx` (47_shifter.md R549). -/
def execExp (rn rx : Reg) (s : State) : Host.Outcome State Fault Refusal :=
  runCompute (.shUn .exp rn rx) s

/-- `Rn = EXP Rx (EX)` (47_shifter.md R550). -/
def execExpEx (rn rx : Reg) (s : State) : Host.Outcome State Fault Refusal :=
  runCompute (.shUn .expEx rn rx) s

/-- `Rn = LEFTZ Rx` (47_shifter.md R551). -/
def execLeftz (rn rx : Reg) (s : State) : Host.Outcome State Fault Refusal :=
  runCompute (.shUn .leftz rn rx) s

/-- `Rn = LEFTO Rx` (47_shifter.md R552). -/
def execLefto (rn rx : Reg) (s : State) : Host.Outcome State Fault Refusal :=
  runCompute (.shUn .lefto rn rx) s

/-- `Rn = FPACK Fx` (47_shifter.md R553). -/
def execFpack (rn rx : Reg) (s : State) : Host.Outcome State Fault Refusal :=
  runCompute (.shUn .fpack rn rx) s

/-- `Fn = FUNPACK Rx` (47_shifter.md R554). -/
def execFunpack (rn rx : Reg) (s : State) : Host.Outcome State Fault Refusal :=
  runCompute (.shUn .funpack rn rx) s

end Sys2Proof.Machine
end

