-- ==== Sys2Proof/Machine/Dispatch.lean ====
section
/-!
DEFINITION. Machine/Dispatch.lean: one arm per constructor of Instr, each one call of the instruction's meaning.
-/
namespace Sys2Proof.Machine

/-- What an instruction does: steps 2 to 6 of the step procedure (41_program_flow.md R300). -/
def exec (i : Instr) (s : State) : Host.Outcome State Fault Refusal :=
  match i with
  | .dualMove dmWrite dmI dmM dmReg pmWrite pmI pmM pmReg k => Sys2Proof.Machine.execDualMove dmWrite dmI dmM dmReg pmWrite pmI pmM pmReg k s
  | .condCompute c k => Sys2Proof.Machine.execCondCompute c k s
  | .uregMem post ix m c dag2 write lw u k => Sys2Proof.Machine.execUregMem post ix m c dag2 write lw u k s
  | .dregMemImm ix dag2 write post c data d k => Sys2Proof.Machine.execDregMemImm ix dag2 write post c data d k s
  | .uregMove src c dst k => Sys2Proof.Machine.execUregMove src c dst k s
  | .swap y c x k => Sys2Proof.Machine.execSwap y c x k s
  | .shiftImmMem ix m c dag2 write dataEx d op data rn rx => Sys2Proof.Machine.execShiftImmMem ix m c dag2 write dataEx d op data rn rx s
  | .shiftImm c dataEx op data rn rx => Sys2Proof.Machine.execShiftImm c dataEx op data rn rx s
  | .modify dag2 c ix m k => Sys2Proof.Machine.execModify dag2 c ix m k s
  | .jumpAbs la c db ci addr => Sys2Proof.Machine.execJumpAbs la c db ci addr s
  | .jumpRel la c db ci rel => Sys2Proof.Machine.execJumpRel la c db ci rel s
  | .callAbs c db addr => Sys2Proof.Machine.execCallAbs c db addr s
  | .callRel c db rel => Sys2Proof.Machine.execCallRel c db rel s
  | .jumpInd la c ix m db els ci k => Sys2Proof.Machine.execJumpInd la c ix m db els ci k s
  | .jumpRel6 la c rel db els ci k => Sys2Proof.Machine.execJumpRel6 la c rel db els ci k s
  | .callInd c ix m db els k => Sys2Proof.Machine.execCallInd c ix m db els k s
  | .callRel6 c rel db els k => Sys2Proof.Machine.execCallRel6 c rel db els k s
  | .jumpIndElse write dmI dmM c ix m d k => Sys2Proof.Machine.execJumpIndElse write dmI dmM c ix m d k s
  | .jumpRelElse write dmI dmM c rel d k => Sys2Proof.Machine.execJumpRelElse write dmI dmM c rel d k s
  | .rts c db els lr k => Sys2Proof.Machine.execRts c db els lr k s
  | .rti c db els k => Sys2Proof.Machine.execRti c db els k s
  | .doImm count rel => Sys2Proof.Machine.execDoImm count rel s
  | .doUreg u rel => Sys2Proof.Machine.execDoUreg u rel s
  | .doUntil term rel => Sys2Proof.Machine.execDoUntil term rel s
  | .uregAbs dag2 write lw u addr => Sys2Proof.Machine.execUregAbs dag2 write lw u addr s
  | .uregPre dag2 ix write lw u data => Sys2Proof.Machine.execUregPre dag2 ix write lw u data s
  | .storeImm ix m dag2 data => Sys2Proof.Machine.execStoreImm ix m dag2 data s
  | .loadImm u data => Sys2Proof.Machine.execLoadImm u data s
  | .bitSet sr data => Sys2Proof.Machine.execBitSet sr data s
  | .bitClr sr data => Sys2Proof.Machine.execBitClr sr data s
  | .bitTgl sr data => Sys2Proof.Machine.execBitTgl sr data s
  | .bitTst sr data => Sys2Proof.Machine.execBitTst sr data s
  | .bitXor sr data => Sys2Proof.Machine.execBitXor sr data s
  | .modifyImm dag2 ix data => Sys2Proof.Machine.execModifyImm dag2 ix data s
  | .bitrev dag2 ix data => Sys2Proof.Machine.execBitrev dag2 ix data s
  | .pushLoop sts pc flush => Sys2Proof.Machine.execPushLoop sts pc flush s
  | .popLoop sts pc flush => Sys2Proof.Machine.execPopLoop sts pc flush s
  | .pushSts pc flush => Sys2Proof.Machine.execPushSts pc flush s
  | .popSts pc flush => Sys2Proof.Machine.execPopSts pc flush s
  | .pushPc flush => Sys2Proof.Machine.execPushPc flush s
  | .popPc flush => Sys2Proof.Machine.execPopPc flush s
  | .flushCache => Sys2Proof.Machine.execFlushCache s
  | .nop => Sys2Proof.Machine.execNop s
  | .idle => Sys2Proof.Machine.execIdle s
  | .cjumpAbs addr => Sys2Proof.Machine.execCjumpAbs addr s
  | .cjumpRel rel => Sys2Proof.Machine.execCjumpRel rel s
  | .rframe => Sys2Proof.Machine.execRframe s
  | .add rn rx ry => Sys2Proof.Machine.execAdd rn rx ry s
  | .sub rn rx ry => Sys2Proof.Machine.execSub rn rx ry s
  | .addCi rn rx ry => Sys2Proof.Machine.execAddCi rn rx ry s
  | .subCi rn rx ry => Sys2Proof.Machine.execSubCi rn rx ry s
  | .avg rn rx ry => Sys2Proof.Machine.execAvg rn rx ry s
  | .comp rx ry => Sys2Proof.Machine.execComp rx ry s
  | .compu rx ry => Sys2Proof.Machine.execCompu rx ry s
  | .plusCi rn rx => Sys2Proof.Machine.execPlusCi rn rx s
  | .plusCiM1 rn rx => Sys2Proof.Machine.execPlusCiM1 rn rx s
  | .inc rn rx => Sys2Proof.Machine.execInc rn rx s
  | .dec rn rx => Sys2Proof.Machine.execDec rn rx s
  | .neg rn rx => Sys2Proof.Machine.execNeg rn rx s
  | .abs rn rx => Sys2Proof.Machine.execAbs rn rx s
  | .pass rn rx => Sys2Proof.Machine.execPass rn rx s
  | .and rn rx ry => Sys2Proof.Machine.execAnd rn rx ry s
  | .or rn rx ry => Sys2Proof.Machine.execOr rn rx ry s
  | .xor rn rx ry => Sys2Proof.Machine.execXor rn rx ry s
  | .not rn rx => Sys2Proof.Machine.execNot rn rx s
  | .min rn rx ry => Sys2Proof.Machine.execMin rn rx ry s
  | .max rn rx ry => Sys2Proof.Machine.execMax rn rx ry s
  | .clip rn rx ry => Sys2Proof.Machine.execClip rn rx ry s
  | .fadd rn rx ry => Sys2Proof.Machine.execFadd rn rx ry s
  | .fsub rn rx ry => Sys2Proof.Machine.execFsub rn rx ry s
  | .fabsAdd rn rx ry => Sys2Proof.Machine.execFabsAdd rn rx ry s
  | .fabsSub rn rx ry => Sys2Proof.Machine.execFabsSub rn rx ry s
  | .favg rn rx ry => Sys2Proof.Machine.execFavg rn rx ry s
  | .fcomp rx ry => Sys2Proof.Machine.execFcomp rx ry s
  | .fneg rn rx => Sys2Proof.Machine.execFneg rn rx s
  | .fabs rn rx => Sys2Proof.Machine.execFabs rn rx s
  | .fpass rn rx => Sys2Proof.Machine.execFpass rn rx s
  | .frnd rn rx => Sys2Proof.Machine.execFrnd rn rx s
  | .scalb rn rx ry => Sys2Proof.Machine.execScalb rn rx ry s
  | .mant rn rx => Sys2Proof.Machine.execMant rn rx s
  | .logb rn rx => Sys2Proof.Machine.execLogb rn rx s
  | .fix rn rx => Sys2Proof.Machine.execFix rn rx s
  | .fixBy rn rx ry => Sys2Proof.Machine.execFixBy rn rx ry s
  | .trunc rn rx => Sys2Proof.Machine.execTrunc rn rx s
  | .truncBy rn rx ry => Sys2Proof.Machine.execTruncBy rn rx ry s
  | .float rn rx => Sys2Proof.Machine.execFloat rn rx s
  | .floatBy rn rx ry => Sys2Proof.Machine.execFloatBy rn rx ry s
  | .recips rn rx => Sys2Proof.Machine.execRecips rn rx s
  | .rsqrts rn rx => Sys2Proof.Machine.execRsqrts rn rx s
  | .copysign rn rx ry => Sys2Proof.Machine.execCopysign rn rx ry s
  | .fmin rn rx ry => Sys2Proof.Machine.execFmin rn rx ry s
  | .fmax rn rx ry => Sys2Proof.Machine.execFmax rn rx ry s
  | .fclip rn rx ry => Sys2Proof.Machine.execFclip rn rx ry s
  | .mulRn m rn rx ry => Sys2Proof.Machine.execMulRn m rn rx ry s
  | .mulMrf m rx ry => Sys2Proof.Machine.execMulMrf m rx ry s
  | .mulMrb m rx ry => Sys2Proof.Machine.execMulMrb m rx ry s
  | .rnMrfPlus m rn rx ry => Sys2Proof.Machine.execRnMrfPlus m rn rx ry s
  | .rnMrbPlus m rn rx ry => Sys2Proof.Machine.execRnMrbPlus m rn rx ry s
  | .mrfPlus m rx ry => Sys2Proof.Machine.execMrfPlus m rx ry s
  | .mrbPlus m rx ry => Sys2Proof.Machine.execMrbPlus m rx ry s
  | .rnMrfMinus m rn rx ry => Sys2Proof.Machine.execRnMrfMinus m rn rx ry s
  | .rnMrbMinus m rn rx ry => Sys2Proof.Machine.execRnMrbMinus m rn rx ry s
  | .mrfMinus m rx ry => Sys2Proof.Machine.execMrfMinus m rx ry s
  | .mrbMinus m rx ry => Sys2Proof.Machine.execMrbMinus m rx ry s
  | .rnSatMrf m rn => Sys2Proof.Machine.execRnSatMrf m rn s
  | .rnSatMrb m rn => Sys2Proof.Machine.execRnSatMrb m rn s
  | .satMrf m => Sys2Proof.Machine.execSatMrf m s
  | .satMrb m => Sys2Proof.Machine.execSatMrb m s
  | .rnRndMrf signed rn => Sys2Proof.Machine.execRnRndMrf signed rn s
  | .rnRndMrb signed rn => Sys2Proof.Machine.execRnRndMrb signed rn s
  | .rndMrf signed => Sys2Proof.Machine.execRndMrf signed s
  | .rndMrb signed => Sys2Proof.Machine.execRndMrb signed s
  | .clrMrf => Sys2Proof.Machine.execClrMrf s
  | .clrMrb => Sys2Proof.Machine.execClrMrb s
  | .mulF rn rx ry => Sys2Proof.Machine.execMulF rn rx ry s
  | .mrToReg p rk => Sys2Proof.Machine.execMrToReg p rk s
  | .regToMr p rk => Sys2Proof.Machine.execRegToMr p rk s
  | .lshift rn rx ry => Sys2Proof.Machine.execLshift rn rx ry s
  | .orLshift rn rx ry => Sys2Proof.Machine.execOrLshift rn rx ry s
  | .ashift rn rx ry => Sys2Proof.Machine.execAshift rn rx ry s
  | .orAshift rn rx ry => Sys2Proof.Machine.execOrAshift rn rx ry s
  | .rot rn rx ry => Sys2Proof.Machine.execRot rn rx ry s
  | .bclr rn rx ry => Sys2Proof.Machine.execBclr rn rx ry s
  | .bset rn rx ry => Sys2Proof.Machine.execBset rn rx ry s
  | .btgl rn rx ry => Sys2Proof.Machine.execBtgl rn rx ry s
  | .btst rx ry => Sys2Proof.Machine.execBtst rx ry s
  | .fdep rn rx ry => Sys2Proof.Machine.execFdep rn rx ry s
  | .orFdep rn rx ry => Sys2Proof.Machine.execOrFdep rn rx ry s
  | .fdepSe rn rx ry => Sys2Proof.Machine.execFdepSe rn rx ry s
  | .orFdepSe rn rx ry => Sys2Proof.Machine.execOrFdepSe rn rx ry s
  | .fext rn rx ry => Sys2Proof.Machine.execFext rn rx ry s
  | .fextSe rn rx ry => Sys2Proof.Machine.execFextSe rn rx ry s
  | .exp rn rx => Sys2Proof.Machine.execExp rn rx s
  | .expEx rn rx => Sys2Proof.Machine.execExpEx rn rx s
  | .leftz rn rx => Sys2Proof.Machine.execLeftz rn rx s
  | .lefto rn rx => Sys2Proof.Machine.execLefto rn rx s
  | .fpack rn rx => Sys2Proof.Machine.execFpack rn rx s
  | .funpack rn rx => Sys2Proof.Machine.execFunpack rn rx s
  | .dualFix rs ra rx ry => Sys2Proof.Machine.execDualFix rs ra rx ry s
  | .dualFlt rs ra rx ry => Sys2Proof.Machine.execDualFlt rs ra rx ry s
  | .mfMulAdd q => Sys2Proof.Machine.execMfMulAdd q s
  | .mfMulSub q => Sys2Proof.Machine.execMfMulSub q s
  | .mfMulAvg q => Sys2Proof.Machine.execMfMulAvg q s
  | .mfMrfPlusAdd q => Sys2Proof.Machine.execMfMrfPlusAdd q s
  | .mfMrfPlusSub q => Sys2Proof.Machine.execMfMrfPlusSub q s
  | .mfMrfPlusAvg q => Sys2Proof.Machine.execMfMrfPlusAvg q s
  | .mfRmPlusAdd q => Sys2Proof.Machine.execMfRmPlusAdd q s
  | .mfRmPlusSub q => Sys2Proof.Machine.execMfRmPlusSub q s
  | .mfRmPlusAvg q => Sys2Proof.Machine.execMfRmPlusAvg q s
  | .mfMrfMinusAdd q => Sys2Proof.Machine.execMfMrfMinusAdd q s
  | .mfMrfMinusSub q => Sys2Proof.Machine.execMfMrfMinusSub q s
  | .mfMrfMinusAvg q => Sys2Proof.Machine.execMfMrfMinusAvg q s
  | .mfRmMinusAdd q => Sys2Proof.Machine.execMfRmMinusAdd q s
  | .mfRmMinusSub q => Sys2Proof.Machine.execMfRmMinusSub q s
  | .mfRmMinusAvg q => Sys2Proof.Machine.execMfRmMinusAvg q s
  | .mfFmulAdd q => Sys2Proof.Machine.execMfFmulAdd q s
  | .mfFmulSub q => Sys2Proof.Machine.execMfFmulSub q s
  | .mfFmulFloat q => Sys2Proof.Machine.execMfFmulFloat q s
  | .mfFmulFix q => Sys2Proof.Machine.execMfFmulFix q s
  | .mfFmulAvg q => Sys2Proof.Machine.execMfFmulAvg q s
  | .mfFmulAbs q => Sys2Proof.Machine.execMfFmulAbs q s
  | .mfFmulMax q => Sys2Proof.Machine.execMfFmulMax q s
  | .mfFmulMin q => Sys2Proof.Machine.execMfFmulMin q s
  | .mfDualFix rs q => Sys2Proof.Machine.execMfDualFix rs q s
  | .mfDualFlt rs q => Sys2Proof.Machine.execMfDualFlt rs q s
  | .noCompute => Sys2Proof.Machine.execNoCompute s

end Sys2Proof.Machine
end

