-- ==== Sys2Proof/Machine/Dma.lean ====
section
/-!
DEFINITION. Machine/Dma.lean: the I/O processor's own steps: which request is served, one internal transfer, one load of a
transfer control block, completion, and the external transfers of the external port channels (61_io_devices.md R680 to
R701, 70_reset_and_hazards.md R783).
-/
namespace Sys2Proof.Machine

/-- An event may happen only if `ok` (93_implementation_defined.md section 1, "refuse"). -/
def offered (ok : Bool) : Run Unit := if ok then .ok () else .error (.refuse .eventNotOffered)

/-! ### The external port channels -/

/-- The external port buffer of a channel. -/
def epOf (c : Fin 14) : Option (Fin 4) := if 10 ≤ c.val then some (Fin.ofNat 4 (c.val - 10)) else none

/-- PMODE, the packing mode (61_io_devices.md R683). -/
def State.pmode (s : State) (n : Fin 4) : BitVec 3 := s.iop.dmac[n].extractLsb' 6 3

/-- The channel loads the boot program: its modifiers count as 1 (70_reset_and_hazards.md R783). -/
def State.bootChannel (s : State) (c : Fin 14) : Bool :=
  s.seq.booting &&
    (match s.pins.boot with
     | .eprom => c == 10
     | .host => c == 10
     | .link => c == 8
     | .noboot => false)

/-! ### Packing (61_io_devices.md R696, R707) -/

/-- One external piece `u` into the packer that holds `parts`: what it holds then, and the word completed. DESIGN CHOICE
(log 87): the dummy third piece that flushes an odd word of mode 011 completes one more word. -/
def packIn (mode : BitVec 3) (mswf : Bool) (parts : List W32) (u : W32) : List W32 × Option W64 :=
  let h (v : W32) : W16 := v.setWidth 16
  match mode.toNat, parts with
  | 1, [p] => ([], some ((if mswf then h p ++ h u else h u ++ h p).setWidth 64))
  | 2, [p, q] => ([], some ((if mswf then h p ++ h q ++ h u else h u ++ h q ++ h p).setWidth 64))
  | 3, [p] => ([p, u], some ((p ++ h u).setWidth 64))
  | 3, [_, q] => ([], some ((u ++ q.extractLsb' 16 16).setWidth 64))
  | 4, _ => ([], some (u.setWidth 64))
  | _, ps => (ps ++ [u], none)

/-- The next piece from the unpacker that holds `parts` in front of the queue: the piece, what the unpacker holds then, and
the words left. `last` says that no word will follow, so that an odd last word of mode 011 is flushed with the free value.
-/
def packOut (mode : BitVec 3) (mswf : Bool) (parts : List W32) (queue : List W64) (last : Bool) (free : W32) :
    Option (W32 × List W32 × List W64) :=
  let h (v : W64) (k : Nat) : W32 := (v.extractLsb' (16 * k) 16).setWidth 32
  match mode.toNat, parts, queue with
  | 1, p :: _, q => some (p, [], q)
  | 1, [], v :: q => some (if mswf then (h v 1, [h v 0], q) else (h v 0, [h v 1], q))
  | 2, p :: ps, q => some (p, ps, q)
  | 2, [], v :: q => some (if mswf then (h v 2, [h v 1, h v 0], q) else (h v 0, [h v 1, h v 2], q))
  | 3, [p], q => some (p, [], q)
  | 3, p :: _ :: _, v :: q => some (v.extractLsb' 0 16 ++ p.extractLsb' 0 16, [v.extractLsb' 16 32], q)
  | 3, p :: _ :: _, [] => if last then some (free.extractLsb' 0 16 ++ p.extractLsb' 0 16, [free], []) else none
  | 3, [], v :: q => some (v.extractLsb' 16 32, [h v 0, 0], q)
  | 4, _, v :: q => some (v.setWidth 32, [], q)
  | _, _, _ => none

/-! ### Requests and their order -/

/-- The oldest register write in the slave write FIFO can be made: not into a full buffer that holds it off (61_io_devices.md R708,
R720). -/
def State.slaveReady (s : State) : Bool :=
  match s.iop.slaveFifo with
  | [] => false
  | w :: _ =>
    match (iopReg w.addr).bind IopReg.buffer? with
    | some c => s.bhd || s.iop.chan[c].queue.length < capacity c
    | none => true

/-- The I/O processor sees the channel run: the instruction just done did not start it (70_reset_and_hazards.md R802). -/
def State.seen (s : State) (c : Fin 14) : Bool := !s.recent.started.getLsbD c.val

/-- `Request(c)`: the channel wants an internal transfer (61_io_devices.md R688, R694). -/
def State.wants (s : State) (c : Fin 14) : Bool :=
  let k := s.ctl c
  let h := s.iop.chan[c]
  let held := match epOf c with
    | some n => s.ehm n == 6 || (s.ehm n == 2 && k.tran && h.ec == 0)
    | none => false
  s.seen c && k.on && h.active && !h.chainPending && !held &&
    (if k.tran then h.queue.length < capacity c && (k.twoD || h.c != 0 || !h.begun) else !h.queue.isEmpty)

/-- The link channels in their present order of priority (61_io_devices.md R689). -/
def State.linkOrder (s : State) : List (Fin 14) :=
  (List.range 6).map fun i => Fin.ofNat 14 (4 + (s.iop.lkTop.val + i) % 6)

/-- The external port channels in their present order of priority (61_io_devices.md R689). -/
def State.epOrder (s : State) : List (Fin 14) :=
  (List.range 4).map fun i => Fin.ofNat 14 (10 + (s.iop.epTop.val + i) % 4)

/-- The two groups in their present order (61_io_devices.md R689). -/
def State.groupOrder (s : State) : List (Fin 14) :=
  if s.iop.syscon.getLsbD 21 && !s.iop.linkTurn then s.epOrder ++ s.linkOrder else s.linkOrder ++ s.epOrder

/-- What one step of the I/O processor does (61_io_devices.md R680). -/
inductive Job where
  /-- an internal transfer -/
  | move (c : Fin 14)
  /-- a load of a transfer control block -/
  | load (c : Fin 14)
  /-- an access of an external master -/
  | access
deriving DecidableEq, Repr

/-- The requests that come before the accesses of an external master: serial transfers, then loads of control blocks
(61_io_devices.md R689 (1), (2)). -/
def State.urgent (s : State) : Option Job :=
  match ([0, 1, 2, 3] : List (Fin 14)).find? s.wants with
  | some c => some (.move c)
  | none =>
    ((([0, 1, 2, 3] : List (Fin 14)) ++ s.groupOrder).find? fun c => s.seen c && s.iop.chan[c].chainPending).map .load

/-- The pending request of highest priority (61_io_devices.md R689). -/
def State.job (s : State) : Option Job :=
  match s.urgent with
  | some j => some j
  | none =>
    if s.slaveReady || !s.iop.directFifo.isEmpty then some .access
    else (s.groupOrder.find? s.wants).map .move

/-- Priority after a transfer of a channel: a rotating group goes on to the next channel, and the other group has the next
turn (61_io_devices.md R689). -/
def Iop.rotate (i : Iop) (c : Fin 14) : Iop :=
  if c.val < 4 then i
  else if c.val < 10 then
    { i with linkTurn := false, lkTop := if i.syscon.getLsbD 20 then Fin.ofNat 6 (c.val - 4 + 1) else i.lkTop }
  else { i with linkTurn := true, epTop := if i.syscon.getLsbD 19 then Fin.ofNat 4 (c.val - 10 + 1) else i.epTop }

/-! ### Completion -/

/-- What the completion of a block does (61_io_devices.md R699, R700). -/
def State.complete (s : State) (c : Fin 14) : State :=
  let k := s.ctl c
  let h := s.iop.chan[c]
  let outer := match epOf c with
    | some n => s.ehm n == 6
    | none => false
  if !k.chen || !k.den then (s.mapChan c fun h => { h with active := false, chainStatus := false }).occur (chanIrq c)
  else if h.cp.extractLsb' 0 18 == 0 then
    (s.mapChan c fun h => { h with active := false, chainStatus := false }).occur (chanIrq c)
  else (s.mapChan c fun h => { h with chainPending := true }).occurIf (h.cp.getLsbD 18 || outer) (chanIrq c)

/-- `Done(c)` of a channel that drives the external bus itself (61_io_devices.md R700). -/
def State.masterDone (s : State) (c : Fin 14) : Bool :=
  let h := s.iop.chan[c]
  h.c == 0 && h.begun && h.ec == 0 && (!(s.ctl c).tran || (h.queue.isEmpty && h.parts.isEmpty))

/-- `Done(c)` after an internal transfer; `row` says that a two-dimensional block ended (61_io_devices.md R700, R701). -/
def State.moveDone (s : State) (c : Fin 14) (row : Bool) : Bool :=
  match epOf c with
  | some n => if s.ehm n == 1 || s.ehm n == 3 then s.masterDone c else s.iop.chan[c].c == 0
  | none => if (s.ctl c).twoD then row else s.iop.chan[c].c == 0

/-! ### An internal transfer -/

/-- The normal-word address an internal index names (61_io_devices.md R682). -/
def dmaAddr (ii : BitVec 18) : W32 := 0x40000#32 + ii.setWidth 32

/-- The first column of the word an internal index names (20_memory.md R124, R125). -/
def dmaCol (word48 : Bool) (ii : BitVec 18) : Run Nat :=
  if word48 then
    match wordCol (dmaAddr ii) with
    | some f => .ok f
    | none => .error (.fault .unmappedAccess)
  else .ok (normalCol (dmaAddr ii))

/-- The registers of a channel after one internal transfer in two dimensions: the rest of the row, or the next row; true when
the last row ended (61_io_devices.md R701). DESIGN CHOICE (log 65): GP counts in its 18 bits, so that GP = 0 stands for 2^18
rows. -/
def Channel.step2 (h : Channel) : Channel × Bool :=
  let h1 := { h with ii := h.ii + h.im.signExtend 18, c := h.c - 1, begun := true }
  if h1.c == 0 then
    let h2 := { h1 with c := h1.da, ii := h1.ii + h1.db.signExtend 18, gp := h1.gp - 1 }
    (h2, h2.gp == 0)
  else (h1, false)

/-- The registers of a channel after one internal transfer (61_io_devices.md R688). -/
def Channel.step1 (h : Channel) (boot : Bool) : Channel :=
  { h with ii := h.ii + (if boot then 1 else h.im.signExtend 18), c := h.c - 1, begun := true }

/-- One internal transfer (61_io_devices.md R688, R690; 62_link_serial_multiproc.md R731, R755). -/
def State.dmaMove (s : State) (c : Fin 14) : Run State := do
  let k := s.ctl c
  let h := s.iop.chan[c]
  let f ← dmaCol k.word48 h.ii
  let n := if k.word48 then 6 else 4
  let t ←
    if k.tran then .ok (s.enqueue c (BitVec.ofNat 64 (s.mem.load (colKey f) n)))
    else
      match h.queue with
      | [] => .error (.refuse .eventNotOffered)
      | v :: _ =>
        let w := if k.word48 then v else (narrow v (s.free 3)).setWidth 64
        .ok ({ s with mem := s.mem.store (colKey f) n w.toNat }.dequeue c v)
  let (h2, row) := if k.twoD then t.iop.chan[c].step2 else (t.iop.chan[c].step1 (s.bootChannel c), false)
  let u := (t.mapChan c fun _ => h2).mapIop fun i => i.rotate c
  .ok (if u.moveDone c row then u.complete c else u)

/-! ### A load of a transfer control block -/

/-- One load of a transfer control block (61_io_devices.md R698, D45). DESIGN CHOICE (log 79): the addresses of its words wrap
within the 18 bits of the pointer, as those of IIx do. -/
def State.chainLoad (s : State) (c : Fin 14) : State :=
  let base := s.iop.chan[c].cp.extractLsb' 0 18
  let w (k : Nat) : W32 := BitVec.ofNat 32 (s.mem.load (colKey (normalCol (dmaAddr (base - BitVec.ofNat 18 k)))) 4)
  let k := s.ctl c
  s.mapChan c fun h =>
    let h1 := { h with
      ii := (w 0).setWidth 18, im := (w 1).setWidth 16, c := (w 2).setWidth 16, cp := (w 3).setWidth 19
      gp := (w 4).setWidth 18, chainPending := false, active := true, begun := false }
    if 10 ≤ c.val then { h1 with ei := w 5, em := w 6, ec := w 7 }
    else if k.twoD then { h1 with da := h1.c, db := (w 5).setWidth 16 }
    else h1

/-! ### External transfers of the external port channels -/

/-- What a DMA access of the external bus reaches (61_io_devices.md R691, 20_memory.md R126, R127). -/
inductive Reach where
  | memory
  | remote
  /-- this processor's own internal memory -/
  | own
deriving DecidableEq, Repr

/-- The target of a DMA access at an external address. A read of the broadcast region reads this processor's own memory, but
the I/O bus does not reach its registers (10_state.md R100, 20_memory.md R126). DESIGN CHOICE (log 52): this processor's own
space, direct or through its range of the multiprocessor space, is no target of the external side of a DMA
(UnmappedAccess). -/
def State.dmaReach (s : State) (a : W32) (read : Bool) : Run Reach :=
  let inside (r : Reach) : Run Reach :=
    match form a with
    | .hole => .error (.fault .unmappedAccess)
    | .long => .error (.fault .illegalAccessWidth)
    | .short => .error (.fault .illegalAccessWidth)
    | .iop => if r == .own then .error (.fault .unmappedAccess) else .ok r
    | .normal => .ok r
  match target s.pins.id a with
  | .ext => do
    need (bankOk s.iop.syscon s.iop.wait a read) .reservedModeCode
    .ok .memory
  | .other => inside .remote
  | .all => inside (if read then .own else .remote)
  | .own _ => .error (.fault .unmappedAccess)

/-- `ExtRead`: `bytes` bytes at an external address (61_io_devices.md R691). -/
def State.extLoad (s : State) (a : W32) (bytes : Nat) : Run (W64 × State) := do
  match ← s.dmaReach a true with
  | .memory => .ok (BitVec.ofNat 64 (s.mem.load (extKey a) bytes), s.touchExt a)
  | .remote => .ok (BitVec.ofNat 64 ((Config.freeLong (s.freeIdx + 4)).toNat % 256 ^ bytes), s)
  | .own => .ok (BitVec.ofNat 64 (s.mem.load (colKey (normalCol (if bytes = 8 then evenAddr a else a))) bytes), s)

/-- `ExtWrite`: `bytes` bytes at an external address (61_io_devices.md R691). -/
def State.extStore (s : State) (a : W32) (bytes : Nat) (v : W64) : Run State := do
  match ← s.dmaReach a false with
  | .memory => .ok ({ s with mem := s.mem.store (extKey a) bytes v.toNat }.touchExt a)
  | _ => .ok (s.output (.remoteStore a (8 * bytes) v))

/-- The size of an external transfer (61_io_devices.md R691, Table 6-5). -/
inductive ExtSize where
  /-- two 32-bit words -/
  | pair
  /-- one 48-bit word in 64 bits -/
  | word
  /-- one 32-bit word, or one 32-bit piece -/
  | single
  /-- one 16-bit piece -/
  | half
deriving DecidableEq, Repr

/-- The size of the next external transfer of a master-mode channel (61_io_devices.md R691, U50). DESIGN CHOICE (log 57): the
depth of Table 6-5 counts normal words, of which a 48-bit word is more than one, so that the second row needs one queued word
or one free place. DESIGN CHOICE (log 86): where only the depth falls short of the first row, the transfer has 32 bits. Of
48-bit words with PMODE 000 those that do not fit the second row go by the third, in 32 bits (log 95). -/
def State.extSize (s : State) (n : Fin 4) : Run ExtSize :=
  let d := s.iop.dmac[n]
  let h := s.iop.chan[epChan n]
  let depth := if d.getLsbD 2 then h.queue.length else 8 - h.queue.length
  let even := !h.ei.getLsbD 0
  match (s.pmode n).toNat with
  | 0 =>
    if d.getLsbD 5 then
      .ok (if even && h.em == 2 then .word else .single)
    else .ok (if even && (h.em == 0 || h.em == 1) && 2 ≤ h.ec.toNat && 2 ≤ depth then .pair else .single)
  | 1 => if d.getLsbD 5 then .error (.fault .dmaParameterMismatch) else .ok .half
  | 2 => .ok .half
  | 3 => .ok .single
  | 4 => if d.getLsbD 5 then .error (.fault .dmaParameterMismatch) else .ok .single
  | _ => .error (.fault .reservedModeCode)

/-- The external registers of a channel after a transfer of `k` counts; the modifier is 1 while booting
(61_io_devices.md R691, 70_reset_and_hazards.md R783). -/
def State.extAdvance (s : State) (c : Fin 14) (k : W32) : State :=
  let boot := s.bootChannel c
  s.mapChan c fun h => { h with ei := h.ei + (if boot then 1 else h.em) * k, ec := h.ec - k }

/-- No internal transfer of this block is still to come. -/
def Channel.spent (h : Channel) : Bool := !h.active || (h.c == 0 && h.begun)

/-- The channel after a piece has left its unpacker, which then holds `ps` in front of the words `q` (61_io_devices.md R696,
R720). -/
def Channel.unpacked (h : Channel) (ps : List W32) (q : List W64) : Channel :=
  { h.leave (h.queue.length - q.length) with parts := ps }

/-- What the unpacker of a channel gives next. -/
def State.nextPiece (s : State) (n : Fin 4) : Option (W32 × List W32 × List W64) :=
  let h := s.iop.chan[epChan n]
  packOut (s.pmode n) (s.iop.dmac[n].getLsbD 9) h.parts h.queue h.spent (s.free 5)

/-- The channel, in master or paced-master mode, has an external transfer to make: words to send, or room for what it receives
(61_io_devices.md R691, R692). -/
def State.extReady (s : State) (n : Fin 4) : Bool :=
  let c := epChan n
  let k := s.ctl c
  let h := s.iop.chan[c]
  s.seen c && k.on && h.active && !h.chainPending && (s.ehm n == 1 || (s.ehm n == 3 && h.requests != 0)) && h.ec != 0 &&
    (if !k.tran then h.queue.length < 8 else if s.pmode n == 0 then !h.queue.isEmpty else (s.nextPiece n).isSome)

/-- The channel has a request on DMARx to grant, in handshake or external-handshake mode (61_io_devices.md R694, R695). -/
def State.grantReady (s : State) (n : Fin 4) : Bool :=
  let c := epChan n
  let k := s.ctl c
  let h := s.iop.chan[c]
  s.seen c && k.on && h.requests != 0 &&
    ((s.ehm n == 6 && h.active && !h.chainPending && h.ec != 0) ||
      (s.ehm n == 2 && (if k.tran then !(h.queue.isEmpty && h.parts.isEmpty) else h.queue.length < 8)))

/-- The channel needs the external bus (62_link_serial_multiproc.md R760). -/
def State.needsBus (s : State) (n : Fin 4) : Bool := s.extReady n || s.grantReady n

/-- One piece from outside into the packer of a channel (61_io_devices.md R696). -/
def State.feed (s : State) (n : Fin 4) (u : W32) : State :=
  let h := s.iop.chan[epChan n]
  let (ps, w) := packIn (s.pmode n) (s.iop.dmac[n].getLsbD 9) h.parts u
  s.mapChan (epChan n) fun h => { h with parts := ps, queue := h.queue ++ w.toList }

/-- The low `w` bits of a free value. -/
def State.freeBits (s : State) (n w : Nat) : W64 := lowPart (Config.freeLong (s.freeIdx + n)) w

/-- A receiving master-mode transfer, and how many counts it takes (61_io_devices.md R691). DESIGN CHOICE (log 95): a 32-bit
transfer of 48-bit words with PMODE 000 makes one word, which is a free value; one that sends takes one word, and what it
carries is free. -/
def State.extReceive (s : State) (n : Fin 4) : Run (State × W32) := do
  let c := epChan n
  let a := s.iop.chan[c].ei
  match ← s.extSize n with
  | .pair => do
    let (v, t) ← s.extLoad a 8
    .ok ((t.enqueue c (v &&& 0xFFFFFFFF)).enqueue c (v >>> 32), 2)
  | .word => do
    let (v, t) ← s.extLoad a 8
    .ok (t.enqueue c (v >>> 16), 1)
  | .single => do
    let (v, t) ← s.extLoad a 4
    let w := if s.iop.dmac[n].getLsbD 5 then s.freeBits 5 48 else v
    .ok (if s.pmode n == 0 then t.enqueue c w else t.feed n (v.setWidth 32), 1)
  | .half => do
    let (v, t) ← s.extLoad a 2
    .ok (t.feed n (v.setWidth 32), 1)

/-- A 48-bit word left-aligned in 64 bits, on DATA63-16. DESIGN CHOICE (log 105): Table 6-5 of 61_io_devices.md R691 says
nothing of DATA15-0, which carry a free value. -/
def State.leftAligned (s : State) (v : W64) : W64 := v.setWidth 48 ++ (s.free 6).setWidth 16

/-- What a transmitting master-mode transfer puts on the bus: the value, its size in bytes, the byte on DATA39-32, the
channel after it, and how many counts it takes (61_io_devices.md R691, R720; of 48-bit words in 32 bits log 95). -/
def State.extPiece (s : State) (n : Fin 4) : Run (W64 × Nat × BitVec 8 × Channel × W32) := do
  let h := s.iop.chan[epChan n]
  let high := h.ei.getLsbD 0 || s.pmode n != 0
  let lane (v : W64) : BitVec 8 := if high then v.setWidth 8 else (s.free 6).setWidth 8
  match ← s.extSize n, h.queue with
  | .pair, v :: w :: _ =>
    .ok (w.setWidth 32 ++ v.setWidth 32, 8, w.setWidth 8, h.leave 2, 2)
  | .word, v :: _ => .ok (s.leftAligned v, 8, v.extractLsb' 16 8, h.leave 1, 1)
  | z, q0 =>
    let bytes := if z == .half then 2 else 4
    if s.pmode n == 0 then
      match q0 with
      | v :: _ =>
        let w := if s.iop.dmac[n].getLsbD 5 then s.freeBits 5 32 else v
        .ok (w, bytes, lane w, h.leave 1, 1)
      | [] => .error (.refuse .eventNotOffered)
    else
      match s.nextPiece n with
      | some (p, ps, q) => .ok (p.setWidth 64, bytes, lane (p.setWidth 64), h.unpacked ps q, 1)
      | none => .error (.refuse .eventNotOffered)

/-- A byte of the boot EPROM read into the packer: six bytes, the least significant first, make a word
(61_io_devices.md R697). -/
def State.bootByte (s : State) (n : Fin 4) : State :=
  let h := s.iop.chan[epChan n]
  let b : W32 := (s.mem.byte (bootKey h.ei)).setWidth 32
  match h.parts with
  | [b0, b1, b2, b3, b4] =>
    let k (v : W32) : BitVec 8 := v.setWidth 8
    let w : W48 := k b ++ k b4 ++ k b3 ++ k b2 ++ k b1 ++ k b0
    s.mapChan (epChan n) fun h => { h with parts := [], queue := h.queue ++ [w.setWidth 64] }
  | _ => s.mapChan (epChan n) fun h => { h with parts := h.parts ++ [b] }

/-- One external transfer of a channel in master or paced-master mode (61_io_devices.md R691, R692, R697). While boot memory
is selected it takes the place of ordinary external memory, under the access mode of unbanked memory (20_memory.md R128,
70_reset_and_hazards.md R830); the other processors' spaces are reached as before. DESIGN CHOICE (log 88): with BSO = 1 no
other transfer with ordinary external memory is allowed, whether or not a channel is reading or writing boot memory. -/
def State.extTransfer (s : State) (n : Fin 4) : Run State := do
  let c := epChan n
  let k := s.ctl c
  let h := s.iop.chan[c]
  let paced := s.ehm n == 3
  offered (s.extReady n && s.busMine)
  let boot := s.bootSelected n && (n == 0) != k.tran
  need (!s.bootSelected n || boot) .bootSelectConflict
  need (!boot || bankModeOk s.iop.wait 4 (!k.tran)) .reservedModeCode
  let (t, z) ←
    if k.tran then do
      let (v, bytes, lane, h2, z) ← s.extPiece n
      let u := s.mapChan c fun _ => h2
      if boot then .ok ({ u with mem := u.mem.put (bootKey h.ei) lane }, z)
      else do
        let w ← u.extStore h.ei bytes v
        .ok (w, z)
    else if boot then .ok (s.bootByte n, 1)
    else s.extReceive n
  let u := (t.extAdvance c z).mapChan c fun h => if paced then { h with requests := h.requests - 1 } else h
  .ok (if u.masterDone c then u.complete c else u)

/-! ### DMA requests and grants (61_io_devices.md R694, R695) -/

/-- The channel of DMAR1 or DMAR2. -/
def dmarOf (ch12 : Bool) : Fin 4 := if ch12 then 2 else 1

/-- A request on DMARx; an eighth without a grant is a fault (61_io_devices.md R694, U35). DESIGN CHOICE (log 111): none is
offered while the channel is disabled or in a mode without DMARx. -/
def State.dmaAsk (s : State) (ch12 : Bool) : Run State := do
  let n := dmarOf ch12
  let c := epChan n
  let e := s.ehm n
  offered ((s.ctl c).on && (e == 2 || e == 3 || e == 6))
  need (s.iop.chan[c].requests < 7) .dmaRequestOverflow
  .ok (s.mapChan c fun h => { h with requests := h.requests + 1 })

/-- How many 48-bit words the grant at this stage completes: four words for three 64-bit transfers
(61_io_devices.md R694, Table 6-8). -/
def quarters (parts : List W32) : Nat := if parts.length = 2 then 2 else 1

/-- Data of a device into the buffer (61_io_devices.md R694). How four 48-bit words lie in three 64-bit transfers is not
stated: they are free values (log 22). DESIGN CHOICE (log 110): a 64-bit transfer waits until two 32-bit words have room. -/
def State.grantIn (s : State) (n : Fin 4) (data : W64) : Run State := do
  let c := epChan n
  let h := s.iop.chan[c]
  if s.pmode n != 0 then
    offered (h.queue.length < 8)
    .ok (s.feed n (data.setWidth 32))
  else if s.iop.dmac[n].getLsbD 5 then
    let k := quarters h.parts
    offered (h.queue.length + k ≤ 8)
    let free (j : Nat) : W64 := s.freeBits (4 + j) 48
    .ok (s.mapChan c fun h => { h with
      parts := if h.parts.length = 2 then [] else h.parts ++ [0]
      queue := h.queue ++ (List.range k).map free })
  else
    offered (h.queue.length + 2 ≤ 8)
    .ok ((s.enqueue c (data &&& 0xFFFFFFFF)).enqueue c (data >>> 32))

/-- Data from the buffer to a device, with the counts taken (61_io_devices.md R694). DESIGN CHOICE (log 110): a 64-bit
transfer waits until two 32-bit words are there. -/
def State.grantOut (s : State) (n : Fin 4) : Run (W64 × Channel × W32) := do
  let h := s.iop.chan[epChan n]
  if s.pmode n != 0 then
    match s.nextPiece n with
    | some (p, ps, q) => .ok (p.setWidth 64, h.unpacked ps q, 1)
    | none => .error (.refuse .eventNotOffered)
  else if s.iop.dmac[n].getLsbD 5 then
    let k := quarters h.parts
    offered (k ≤ h.queue.length)
    .ok (Config.freeLong (s.freeIdx + 4),
      { h.leave k with parts := if h.parts.length = 2 then [] else h.parts ++ [0] }, 1)
  else
    match h.queue with
    | v :: w :: _ => .ok (w.setWidth 32 ++ v.setWidth 32, h.leave 2, 2)
    | _ => .error (.refuse .eventNotOffered)

/-- One transfer between external memory and a device (61_io_devices.md R695). DESIGN CHOICE (log 96): parameters in no row of
Table 6-9 stop with DmaParameterMismatch. The sense of TRAN is PRESUMED (log 34). -/
def State.outerTransfer (s : State) (n : Fin 4) (ch12 : Bool) (data : W64) : Run State := do
  let c := epChan n
  let h := s.iop.chan[c]
  let pm := s.pmode n
  need (!s.bootSelected n) .bootSelectConflict
  need (!s.iop.dmac[n].getLsbD 5 && (pm == 0 || pm == 4)) .dmaParameterMismatch
  let wide := pm == 0 && (h.em == 0 || h.em == 1)
  need (!wide || (!h.ei.getLsbD 0 && 2 ≤ h.ec.toNat)) .dmaParameterMismatch
  let bytes := if wide then 8 else 4
  let t ←
    if s.iop.dmac[n].getLsbD 2 then s.extStore h.ei bytes (if wide then data else data &&& 0xFFFFFFFF)
    else do
      let (v, t) ← s.extLoad h.ei bytes
      .ok (t.output (.grantValue ch12 v))
  let u := t.extAdvance c (if wide then 2 else 1)
  .ok (if u.iop.chan[c].ec == 0 then u.complete c else u)

/-- A grant on DMAGx answers one request: in handshake mode through the buffer, as long as that is not full or not empty,
also when the channel's own transfers are done (a used-up ECx then stays 0); in external-handshake mode between external memory and the device
(61_io_devices.md R694, R695). -/
def State.dmaGrant (s : State) (ch12 : Bool) (data : W64) : Run State := do
  let n := dmarOf ch12
  let c := epChan n
  offered (s.grantReady n && s.busMine)
  let s1 := s.mapChan c fun h => { h with requests := h.requests - 1 }
  if s.ehm n == 6 then s1.outerTransfer n ch12 data
  else if s.ehm n == 2 then
    if (s.ctl c).tran then do
      let (v, h2, z) ← s1.grantOut n
      .ok ((s1.mapChan c fun _ => { h2 with ec := if z.toNat ≤ h2.ec.toNat then h2.ec - z else 0 }).output (.grantValue ch12 v))
    else s1.grantIn n data
  else .error (.refuse .eventNotOffered)

end Sys2Proof.Machine
end

