-- ==== Sys2Proof/Machine/Environment.lean ====
section
/-!
DEFINITION. Machine/Environment.lean: what the pins, the ports, the other bus masters and the timer do between two core
steps (60_exceptions.md R604, R640; 61_io_devices.md R693, R705 to R714, R722; 62_link_serial_multiproc.md R729 to R768).
-/
namespace Sys2Proof.Machine

/-! ### The timer -/

/-- The timer has expired: both interrupts and the TIMEXP pulse (60_exceptions.md R640, R641). -/
def State.expire (s : State) : State := ((s.occur .tmzhi).occur .tmzli).output .timexp

/-- EMUCLK counts core clock cycles, EMUCLK2 its wraps (10_state.md R44). -/
def State.countClock (s : State) : State :=
  s.mapReg fun r => { r with
    emuclk := r.emuclk + 1
    emuclk2 := if r.emuclk == 0xFFFFFFFF then r.emuclk2 + 1 else r.emuclk2 }

/-- The timer's part of one tick; `fresh` says that it is the first one since TIMEN was set with TCOUNT = 0, `draw` decides the
interrupts of the cases the spec leaves open: that tick, and every reload with TPERIOD = 0 (60_exceptions.md R640, U33). -/
def State.timerTick (s : State) (fresh draw : Bool) : State :=
  if s.reg.tcount == 0 then
    let t := s.mapReg fun r => { r with tcount := r.tperiod }
    if (s.reg.tperiod == 0 || fresh) && draw then t.expire else t
  else
    let t := s.mapReg fun r => { r with tcount := r.tcount - 1 }
    if t.reg.tcount == 0 then t.expire else t

/-- The core step from `s` to `t` set TIMEN and left TCOUNT at 0 (60_exceptions.md R640, U33). -/
def State.timerEnabled (s t : State) : Bool :=
  !s.reg.mode2.getLsbD 5 && t.reg.mode2.getLsbD 5 && t.reg.tcount == 0

/-- One tick that the environment adds (60_exceptions.md R640, D38). -/
def State.extraTick (s : State) : State :=
  let t := s.countClock
  if s.reg.mode2.getLsbD 5 then
    let u := t.timerTick s.recent.timerZero (Config.freeBit s.freeIdx)
    { u with recent := { u.recent with timerZero := false } }
  else t

/-! ### The interrupt pins -/

/-- `SamplePins` for one pin (60_exceptions.md R604). -/
def State.sampleIrq (s : State) (n : Nat) (k : Irq) : State :=
  let low := s.pins.irqLow.getLsbD n
  if s.reg.mode2.getLsbD n then s.occurIf (low && !s.seq.irqPrev.getLsbD n) k
  else s.occurIf (low && !s.inService k) k

/-- `SamplePins` (60_exceptions.md R604). -/
def State.samplePins (s : State) : State :=
  (((s.sampleIrq 0 .irq0).sampleIrq 1 .irq1).sampleIrq 2 .irq2).mapSeq fun q => { q with irqPrev := s.pins.irqLow }

/-! ### Link ports -/

/-- The buffers assigned to the port of buffer `b` (62_link_serial_multiproc.md R725). -/
def State.portMates (s : State) (b : Fin 6) : List (Fin 6) := (List.finRange 6).filter fun d => s.linkPort d == s.linkPort b

/-- Buffer `b` is enabled, and its port is neither inactive nor over-assigned (62_link_serial_multiproc.md R725, R732). -/
def State.linkLive (s : State) (b : Fin 6) : Bool :=
  (s.linkGroup b).getLsbD 0 && s.linkPort b != 7 && (s.portMates b).length ≤ 2

/-- The other enabled buffer on the port of `b`: loopback (62_link_serial_multiproc.md R732). -/
def State.linkLooped (s : State) (b : Fin 6) : Bool :=
  (s.portMates b).any fun d => d != b && (s.linkGroup d).getLsbD 0

/-- Word taken (62_link_serial_multiproc.md R729). -/
def State.linkTaken (s : State) (b : Fin 6) : Run State := do
  offered (s.linkLive b && !s.linkLooped b && (s.linkGroup b).getLsbD 3)
  match s.iop.chan[lkChan b].queue with
  | v :: _ => .ok ((s.dequeue (lkChan b) v).output (.linkWord (s.linkPort b).toNat (v.setWidth 48)))
  | [] => .error (.refuse .eventNotOffered)

/-- A receive buffer that has room (62_link_serial_multiproc.md R729). -/
def State.linkRoom (s : State) (b : Fin 6) : Bool :=
  s.linkLive b && !(s.linkGroup b).getLsbD 3 && s.iop.chan[lkChan b].queue.length < 2

/-- LRERR of a buffer (62_link_serial_multiproc.md R730). -/
def State.setLrerr (s : State) (b : Fin 6) (v : Bool) : State :=
  s.mapIop fun i => { i with lrerr := (i.lrerr &&& ~~~(1#6 <<< b.val)) ||| (if v then 1#6 <<< b.val else 0) }

/-- Word arrived (62_link_serial_multiproc.md R729, R730). -/
def State.linkArrived (s : State) (b : Fin 6) (word : W48) : Run State := do
  offered (s.linkRoom b && !s.linkLooped b)
  let v : W64 := if (s.linkGroup b).getLsbD 4 then word.setWidth 64 else (word.setWidth 32).setWidth 64
  .ok ((s.enqueue (lkChan b) v).setLrerr b false)

/-- Partial word (62_link_serial_multiproc.md R730, D49). -/
def State.linkPartial (s : State) (b : Fin 6) : Run State := do
  offered (s.linkRoom b && !s.linkLooped b)
  .ok (s.setLrerr b true)

/-- A word moves through a port in loopback (62_link_serial_multiproc.md R732). DESIGN CHOICE (log 81): between buffers of
different word sizes none moves, and the path widths do not matter. -/
def State.linkLoop (s : State) (t r : Fin 6) : Run State := do
  offered (t != r && s.linkPort t == s.linkPort r && s.linkLive t && (s.linkGroup t).getLsbD 3 && s.linkRoom r &&
    (s.linkGroup t).getLsbD 4 == (s.linkGroup r).getLsbD 4)
  match s.iop.chan[lkChan t].queue with
  | v :: _ => .ok ((s.dequeue (lkChan t) v).enqueue (lkChan r) v)
  | [] => .error (.refuse .eventNotOffered)

/-! ### Serial ports -/

/-- The low `n` bits. -/
def lowBits (v : W32) (n : Nat) : W32 := v &&& (BitVec.ofNat 32 (2 ^ n - 1))

/-- The low `n` bits, the highest of them copied upwards. -/
def signBits (v : W32) (n : Nat) : W32 := (v <<< (32 - n)).sshiftRight (32 - n)

/-- The bits of one transmitted word: compressed if `law` says so, then cut to the word length
(62_link_serial_multiproc.md R747, R748). -/
def txBits (law : Option Bool) (len : Nat) (v : W32) : W32 :=
  match law with
  | some a => lowBits ((compress a v).signExtend 32) len
  | none => lowBits v len

/-- A received word of `len` bits as the receive buffer holds it (62_link_serial_multiproc.md R747, R748). DESIGN CHOICE (log
108): R748 expands the eight LSBs received, and of a word of fewer bits the missing ones are those of the free value `free`. -/
def rxBits (law : Option Bool) (sign : Bool) (len : Nat) (v free : W32) : W32 :=
  match law with
  | some a => expand a ((lowBits v len).setWidth 8 ||| (free.setWidth 8 <<< len))
  | none => if sign then signBits (lowBits v len) len else lowBits v len

/-- The law in multichannel mode for a channel whose select bit is `sel`; none while receive comparison is on
(62_link_serial_multiproc.md R747, R753, R754). -/
def lawIn (ctl : W32) (sel imode : Bool) : Option Bool := if sel && !imode then some (ctl.getLsbD 2) else none

/-- The length of a serial word. -/
def wordLen (ctl : W32) : Nat := (ctl.extractLsb' 4 5).toNat + 1

/-- A complete word into RXx: a third word replaces the second (62_link_serial_multiproc.md R746, R750). -/
def State.rxAppend (s : State) (x : Fin 2) (v : W32) : State :=
  let c := rxChan x
  let q := s.iop.chan[c].queue
  let t :=
    if q.length < 2 then s.enqueue c (v.setWidth 64)
    else (s.mapChan c fun h => { h with queue := h.queue.dropLast ++ [v.setWidth 64] }).mapSport x fun p =>
      { p with rovf := true }
  t.occurIf (!s.iop.sport[x].srctl.getLsbD 18) (if x == 0 then .spr0 else .spr1)

/-- Word received: two make one with PACK (62_link_serial_multiproc.md R746, R747, D51). DESIGN CHOICE (log 68): of a word
longer than 16 bits PACK keeps the low 16. -/
def State.rxWord (s : State) (x : Fin 2) (law : Option Bool) (sign : Bool) (v : W32) : State :=
  let p := s.iop.sport[x]
  let w := rxBits law sign (wordLen p.srctl) v (s.free 9)
  if p.srctl.getLsbD 9 then
    match p.halfReceived with
    | none => s.mapSport x fun p => { p with halfReceived := some (w.setWidth 16) }
    | some a => (s.mapSport x fun p => { p with halfReceived := none }).rxAppend x (w.setWidth 16 ++ a)
  else s.rxAppend x w

/-- Word received outside multichannel mode. -/
def State.rxPlain (s : State) (x : Fin 2) (v : W32) : State :=
  let ctl := s.iop.sport[x].srctl
  s.rxWord x (lawOf ctl) (ctl.getLsbD 1) v

/-- One half of a packed word on its way out, extended for the companding (62_link_serial_multiproc.md R747). -/
def packHalf (w : W32) (high : Bool) : W32 := (w.extractLsb' (if high then 16 else 0) 16).signExtend 32

/-- Word transmitted: the front of TXx, or half of it with PACK; then the next word moves into the shifter
(62_link_serial_multiproc.md R745, R747, R750). -/
def State.txWord (s : State) (x : Fin 2) (law : Option Bool) : Run (W32 × State) :=
  let c := txChan x
  let p := s.iop.sport[x]
  let len := wordLen p.stctl
  match s.iop.chan[c].queue with
  | [] => .error (.refuse .eventNotOffered)
  | v :: rest =>
    let w : W32 := v.setWidth 32
    let last (u : W32) : W32 × State :=
      let t := (s.dequeue c v).mapSport x fun p => { p with halfSent := false, sentOnce := true }
      (u, t.occurIf (!rest.isEmpty && !p.stctl.getLsbD 18) (if x == 0 then .spt0 else .spt1))
    if p.stctl.getLsbD 9 then
      if p.halfSent then .ok (last (txBits law len (packHalf w true)))
      else
        .ok (txBits law len (packHalf w false),
          s.mapSport x fun p => { p with halfSent := true, sentOnce := true })
    else .ok (last (txBits law len w))

/-- Word transmitted, which in loopback is a word received (62_link_serial_multiproc.md R745, R751). -/
def State.sportSent (s : State) (x : Fin 2) : Run State := do
  let p := s.iop.sport[x]
  offered (p.txOn && !p.srctl.getLsbD 23)
  let (w, t) ← s.txWord x (lawOf p.stctl)
  let u := t.output (.serialWord x w)
  .ok (if p.srctl.getLsbD 22 && p.rxOn then u.rxPlain x w else u)

/-- Word received (62_link_serial_multiproc.md R746). -/
def State.sportReceived (s : State) (x : Fin 2) (v : W32) : Run State := do
  let p := s.iop.sport[x]
  offered (p.rxOn && !p.srctl.getLsbD 23 && !p.srctl.getLsbD 22)
  .ok (s.rxPlain x v)

/-- Underflow: TUVF, and the last word again; before any word, a free value (62_link_serial_multiproc.md R745). Which half of
a packed word is sent again the spec does not say: a free bit decides (log 67). -/
def State.txEmpty (s : State) (x : Fin 2) (law : Option Bool) : State :=
  let p := s.iop.sport[x]
  let w : W32 := if p.sentOnce then s.iop.chan[txChan x].last.setWidth 32 else s.free 7
  let u := if p.stctl.getLsbD 9 then packHalf w ((s.free 8).getLsbD 0) else w
  (s.mapSport x fun p => { p with tuvf := true }).output (.serialWord x (txBits law (wordLen p.stctl) u))

/-- Transmit frame sync with TX empty (62_link_serial_multiproc.md R745). DESIGN CHOICE (log 66): in loopback the word sent
again is not received. -/
def State.sportUnderflow (s : State) (x : Fin 2) : Run State := do
  let p := s.iop.sport[x]
  offered (p.txOn && !p.srctl.getLsbD 23 && s.iop.chan[txChan x].queue.isEmpty &&
    (!p.stctl.getLsbD 14 || (p.stctl.getLsbD 15 && p.sentOnce)))
  .ok (s.txEmpty x (lawOf p.stctl))

/-- The receive comparison (62_link_serial_multiproc.md R754). DESIGN CHOICE (log 91): the word is compared as it came, with
zeros above its length. -/
def Sport.accepts (p : Sport) (c : Nat) (w : W32) : Bool :=
  let hit := (w ^^^ p.keywd) &&& ~~~p.keymask == 0
  !p.srctl.getLsbD 15 || !p.mtccs.getLsbD c || hit == p.srctl.getLsbD 20

/-- One slot of a multichannel frame (62_link_serial_multiproc.md R752 to R754). DESIGN CHOICE (log 107): an NCH written below
the current channel ends the frame when the five-bit counter, having gone on through 31, reaches it again. -/
def State.sportSlot (s : State) (x : Fin 2) (v : W32) : Run State := do
  let p := s.iop.sport[x]
  offered (p.srctl.getLsbD 23)
  let c := p.chnl.toNat
  let imode := p.srctl.getLsbD 15
  let txLaw := lawIn p.stctl (p.mtccs.getLsbD c) imode
  let t ←
    if !p.mtcs.getLsbD c then .ok s
    else if s.iop.chan[txChan x].queue.isEmpty then .ok (s.txEmpty x txLaw)
    else do
      let (w, t) ← s.txWord x txLaw
      .ok (t.output (.serialWord x w))
  let rxLaw := lawIn p.srctl (p.mrccs.getLsbD c) imode
  let u := if p.mrcs.getLsbD c && p.accepts c (lowBits v (wordLen p.srctl)) then t.rxWord x rxLaw (p.srctl.getLsbD 1) v else t
  let next := if p.chnl == p.srctl.extractLsb' 24 5 then 0 else p.chnl + 1
  .ok (u.mapSport x fun p => { p with chnl := next })

/-! ### The bus -/

/-- The ID of this DSP as a bus master; 1 in a single-processor system. -/
def Pins.busId (p : Pins) : BitVec 3 := if p.id = 0 then 1 else p.id

/-- Another DSP or the host is bus master (61_io_devices.md R705). -/
def State.extMaster (s : State) : Bool := s.iop.bsyn && !s.master

/-- BUSLK, the bus lock (62_link_serial_multiproc.md R765). -/
def State.busLock (s : State) : Bool := s.reg.mode2.getLsbD 6

/-- The core or a DMA channel with PRIO = 1 needs the bus (62_link_serial_multiproc.md R763). -/
def State.highNeed (s : State) : Bool :=
  s.recent.busWait || (List.finRange 4).any fun n => s.needsBus n && s.iop.dmac[n].getLsbD 15

/-- This DSP asserts its BRx: its core waits for the bus, a DMA channel needs it, or the bus is locked; not once the time-out of
a master has run out without a lock (62_link_serial_multiproc.md R760, R762, R765). -/
def State.brOut (s : State) : Bool :=
  s.busLock || (!(s.master && s.iop.yielding) && (s.recent.busWait || (List.finRange 4).any s.needsBus))

/-- This DSP asserts PA: it is not master and has a need of high priority (62_link_serial_multiproc.md R763). -/
def State.paOut (s : State) : Bool := !s.master && s.highNeed

/-- The BRx line of the DSP with ID `k` is asserted (62_link_serial_multiproc.md R760). -/
def State.brOf (s : State) (k : BitVec 3) : Bool :=
  if k == s.pins.id then s.brOut else k != 0 && s.pins.brIn.getLsbD (k.toNat - 1)

/-- The DSP with ID `k` takes part in the arbitration: while PA is asserted only needs of high priority do. Of the other DSPs
those without one have dropped their requests if one of them asserts PA, and all have if only this DSP asserts it
(62_link_serial_multiproc.md R763). -/
def State.competes (s : State) (k : BitVec 3) : Bool :=
  s.brOf k && (if k == s.pins.id then !s.pins.paIn || s.highNeed else !s.paOut || s.pins.paIn)

/-- The IDs in their order of priority: rising with RPBA = 0, else from the one after the master, in a circle
(62_link_serial_multiproc.md R761). -/
def State.busOrder (s : State) : List (BitVec 3) :=
  (List.range 6).map fun i => BitVec.ofNat 3 (1 + (if s.pins.rpba then s.iop.crbm.toNat + i else i) % 6)

/-- The slave that wins the arbitration (62_link_serial_multiproc.md R761). -/
def State.busWinner (s : State) : Option (BitVec 3) := s.busOrder.find? fun k => k != s.iop.crbm && s.competes k

/-- The master may lose the bus: it does not assert its BRx, or another DSP asserts PA. As master this DSP then keeps the bus for
a need of high priority of its own, and under a bus lock (62_link_serial_multiproc.md R760, R763, R765). What needs another
master has, and whether it holds a lock, this DSP does not see (log 29). -/
def State.mayLose (s : State) : Bool :=
  if s.master then !s.busLock && (!s.brOut || (s.pins.paIn && !s.highNeed))
  else !s.brOf s.iop.crbm || s.pins.paIn || s.paOut

/-- Some other DSP asks for the bus. -/
def State.othersAsk (s : State) : Bool := s.busOrder.any fun k => k != s.pins.id && s.brOf k

/-- The lines of the other DSPs change; when no one asks any more, a master whose time-out has run out keeps the bus
(62_link_serial_multiproc.md R760, R762). -/
def State.setBusPins (s : State) (br : BitVec 6) (pa : Bool) : State :=
  let t := { s with pins := { s.pins with brIn := br, paIn := pa } }
  t.mapIop fun i => { i with yielding := i.yielding && t.othersAsk }

/-- Mastership goes to `m`; BCNT is loaded when this DSP acquires it, and when it gives it up, deasserting its BRx
(62_link_serial_multiproc.md R760, R762). -/
def State.giveBus (s : State) (m : BitVec 3) : State :=
  s.mapIop fun i => { i with
    bsyn := true, crbm := m, yielding := false
    bcnt := if m == s.pins.id || s.master then i.bmax else i.bcnt }

/-- Synchronisation after reset (62_link_serial_multiproc.md R764). -/
def State.synchronised (s : State) (m : BitVec 3) : Run State := do
  offered (s.pins.id != 0 && !s.iop.bsyn && !s.iop.hstm && 1 ≤ m && m ≤ 6)
  .ok (s.giveBus m)

/-- A bus transition, to the slave that wins (62_link_serial_multiproc.md R760 to R765). -/
def State.busTo (s : State) (m : BitVec 3) : Run State := do
  offered (s.pins.id != 0 && s.iop.bsyn && !s.iop.hstm && s.mayLose && s.busWinner == some m)
  .ok (s.giveBus m)

/-- BCNT counts while another DSP asks; at zero this DSP is to give the bus up, deasserting its BRx, which loads BCNT again,
unless a bus lock holds it (62_link_serial_multiproc.md R762, D54). DESIGN CHOICE (log 97): a BCNT of 0 does not count, whatever
BMAX holds, until the next reload. -/
def State.bcntTick (s : State) : Run State := do
  offered (s.pins.id != 0 && s.iop.bsyn && s.master && s.iop.bmax != 0 && s.iop.bcnt != 0 && !s.iop.yielding && s.othersAsk)
  let out := s.iop.bcnt == 1
  .ok (s.mapIop fun i => { i with bcnt := if out && !s.busLock then i.bmax else i.bcnt - 1, yielding := out })

/-- A master that does not need the bus deasserts its BRx, which loads BCNT (62_link_serial_multiproc.md R762). -/
def State.dropRequest (s : State) : Run State := do
  offered (s.pins.id != 0 && s.iop.bsyn && s.master && !s.brOut)
  .ok (s.mapIop fun i => { i with bcnt := i.bmax })

/-- The host becomes master; not during a bus lock (62_link_serial_multiproc.md R765, R766). -/
def State.hostAcquire (s : State) : Run State := do
  offered (!s.iop.hstm && s.iop.bsyn && !(s.master && s.busLock))
  .ok (s.mapIop fun i => { i with hstm := true })

/-- The host gives the bus back (62_link_serial_multiproc.md R766). -/
def State.hostRelease (s : State) : Run State := do
  offered s.iop.hstm
  .ok (s.mapIop fun i => { i with hstm := false })

/-! ### Accesses of an external master -/

/-- The host packing mode. -/
def State.hpm (s : State) : BitVec 3 := s.iop.syscon.extractLsb' 4 3

/-- A register an external master reaches at its address: not an external port buffer, which has events of its own, and not
an emulation register, which only the core reaches (10_state.md R111). -/
def openReg (addr : BitVec 8) : Bool :=
  match iopReg addr with
  | some (.epb _) => false
  | some (.emu _) => false
  | _ => true

/-- The slave write FIFO has room: it takes four asynchronous writes, or two synchronous ones, of registers and of memory
together (61_io_devices.md R708, 70_reset_and_hazards.md R834). -/
def State.slaveRoom (s : State) (sync : Bool) : Bool :=
  s.iop.slaveFifo.length + s.iop.slaveDirect.length < (if sync then 2 else 4)

/-- A write to a register into the slave write FIFO (61_io_devices.md R708). -/
def State.pushSlave (s : State) (sync : Bool) (addr : BitVec 8) (v : W64) : Run State := do
  offered (s.slaveRoom sync && openReg addr)
  .ok (s.mapIop fun i => { i with slaveFifo := i.slaveFifo ++ [⟨addr, v⟩] })

/-- A direct write into the slave write FIFO (61_io_devices.md R708, 70_reset_and_hazards.md R834). -/
def State.pushDirect (s : State) (sync : Bool) (addr : W32) (width : Nat) (v : W64) : Run State := do
  offered (s.slaveRoom sync)
  .ok (s.mapIop fun i => { i with slaveDirect := i.slaveDirect ++ [⟨addr, width, v⟩] })

/-- The oldest direct write in the slave write FIFO goes on into the direct write FIFO, which takes eight (61_io_devices.md R710,
70_reset_and_hazards.md R834; that it passes both is DEDUCED, log 72). -/
def State.latchDirect (s : State) : Run State := do
  offered (s.iop.directFifo.length < 8)
  match s.iop.slaveDirect with
  | w :: rest => .ok (s.mapIop fun i => { i with slaveDirect := rest, directFifo := i.directFifo ++ [w] })
  | [] => .error (.refuse .eventNotOffered)

/-- An external master may write this way: another DSP synchronously, a host either way, but in a single-processor system only
asynchronously (70_reset_and_hazards.md R834, U47). -/
def State.mayWriteIn (s : State) (sync : Bool) : Bool := s.extMaster && (sync || s.iop.hstm) && !(sync && s.pins.id == 0)

/-- A host or another DSP writes a register (61_io_devices.md R708). -/
def State.extWriteIop (s : State) (sync : Bool) (addr : BitVec 8) (v : W32) : Run State := do
  offered (s.mayWriteIn sync)
  s.pushSlave sync addr (v.setWidth 64)

/-- An access of an external master that is made at once: nothing is in the slave write FIFO, which holds it off, and no
request of higher priority is pending (61_io_devices.md R689, R708). -/
def State.slaveTurn (s : State) : Bool := s.iop.slaveFifo.isEmpty && s.iop.slaveDirect.isEmpty && s.urgent.isNone

/-- The same of a read of memory, which the direct writes before it have reached (61_io_devices.md R710). -/
def State.drained (s : State) : Bool := s.slaveTurn && s.iop.directFifo.isEmpty

/-- The value of a register read from outside, with its side effects; a link buffer gives all of a 48-bit word to a host that
packs 48 bits (61_io_devices.md R711, 62_link_serial_multiproc.md R728). DESIGN CHOICE (log 99): HPM decides so for another DSP
too. -/
def State.outsideRead (s : State) (addr : BitVec 8) : Run (W64 × State) :=
  match iopReg addr with
  | none => .error (.fault .unmappedAccess)
  | some (.lbuf b) =>
    if s.hpm == 2 || s.hpm == 3 then s.coreDequeue (lkChan b)
    else do
      let (v, t) ← s.coreDequeue (lkChan b)
      .ok ((narrow v (s.free 3)).setWidth 64, t)
  | some r => do
    let (v, t) ← s.iopRead r (s.free 3)
    .ok (v.setWidth 64, t)

/-- A host or another DSP reads a register (61_io_devices.md R711). -/
def State.extReadIop (s : State) (addr : BitVec 8) : Run State := do
  offered (s.extMaster && s.slaveTurn && openReg addr)
  let (v, t) ← s.outsideRead addr
  .ok (t.output (.iopValue addr v))

/-- Where a direct access of a width goes: the key of its first byte and its bytes (61_io_devices.md R705, R710,
20_memory.md R124, R125). -/
def directKey (a : W32) (width : Nat) : Run (Nat × Nat) :=
  match form a, width with
  | .normal, 32 => .ok (colKey (normalCol a), 4)
  | .normal, 64 => .ok (colKey (normalCol (evenAddr a)), 8)
  | .normal, 48 =>
    match wordCol a with
    | some f => .ok (colKey f, 6)
    | none => .error (.fault .unmappedAccess)
  | .short, 16 => .ok (colKey (shortCol a), 2)
  | .hole, _ => .error (.fault .unmappedAccess)
  | _, _ => .error (.refuse .eventNotOffered)

/-- A direct access may have this width: short words only from a host, 48 bits only where it packs them
(61_io_devices.md R706, R707, R710). -/
def State.directWidth (s : State) (a : W32) (width : Nat) : Bool :=
  match form a with
  | .normal => width == 32 || width == 64 || (width == 48 && s.iop.hstm && (s.hpm == 2 || s.hpm == 3))
  | .short => width == 16 && s.iop.hstm
  | .hole => true
  | _ => false

/-- A host or another DSP writes memory (61_io_devices.md R710, R713). -/
def State.extWriteMem (s : State) (sync : Bool) (a : W32) (width : Nat) (v : W64) : Run State := do
  offered (s.mayWriteIn sync && s.directWidth a width)
  s.pushDirect sync a width v

/-- A direct read (61_io_devices.md R711). -/
def State.extReadMem (s : State) (a : W32) (width : Nat) : Run State := do
  offered (s.extMaster && s.drained && s.directWidth a width)
  let (k, n) ← directKey a width
  .ok (s.output (.memValue a (BitVec.ofNat 64 (s.mem.load k n))))

/-- The bits of a word the host packs. -/
def hostWidth (mode : BitVec 3) : Nat := if mode == 2 || mode == 3 then 48 else 32

/-- A 48-bit host word may go to an address: memory, or a link buffer (61_io_devices.md R707,
62_link_serial_multiproc.md R728). -/
def hostTakes (mode : BitVec 3) (a : W32) : Bool :=
  hostWidth mode == 32 ||
    (match form a with
     | .iop => (match iopReg (a.extractLsb' 0 8) with | some (.lbuf _) => true | _ => false)
     | _ => true)

/-- The host packs its accesses (61_io_devices.md R707). DESIGN CHOICE (log 94): with a reserved code of HPM no packed access is
offered. -/
def State.hostPacks (s : State) : Bool := s.iop.hstm && 1 ≤ s.hpm && s.hpm ≤ 4

/-- A host write of one packed piece; the last one makes the write (61_io_devices.md R707). -/
def State.hostPiece (s : State) (a : W32) (piece : W32) : Run State := do
  offered (s.hostPacks && hostTakes s.hpm a && (s.iop.hostParts.isEmpty || !s.iop.hostReading))
  let (ps, w) := packIn s.hpm (s.iop.syscon.getLsbD 7) s.iop.hostParts piece
  let t := s.mapIop fun i => { i with hostParts := ps, hostReading := false }
  match w with
  | none => .ok t
  | some v =>
    if form a == .iop then t.pushSlave false (a.extractLsb' 0 8) v
    else do
      offered (s.directWidth a (hostWidth s.hpm))
      t.pushDirect false a (hostWidth s.hpm) v

/-- The word a packed host read starts on (61_io_devices.md R707, R711). -/
def State.hostWord (s : State) (a : W32) : Run (W64 × State) :=
  if form a == .iop then do
    offered (openReg (a.extractLsb' 0 8))
    s.outsideRead (a.extractLsb' 0 8)
  else do
    offered (s.directWidth a (hostWidth s.hpm))
    let (k, n) ← directKey a (hostWidth s.hpm)
    .ok (BitVec.ofNat 64 (s.mem.load k n), s)

/-- A host read of one packed piece; a first piece makes the internal read (61_io_devices.md R707). -/
def State.hostRead (s : State) (a : W32) : Run State := do
  let mswf := s.iop.syscon.getLsbD 7
  let parts := s.iop.hostParts
  offered (s.hostPacks && hostTakes s.hpm a && (if form a == .iop then s.slaveTurn else s.drained) &&
    (parts.isEmpty || s.iop.hostReading))
  let give (t : State) (p : W32) (ps : List W32) : State :=
    (t.mapIop fun i => { i with hostParts := ps, hostReading := true }).output (.hostValue a p)
  match packOut s.hpm mswf parts [] false 0 with
  | some (p, ps, _) => .ok (give s p ps)
  | none => do
    let (v, t) ← s.hostWord a
    match packOut s.hpm mswf parts [v] false 0 with
    | some (p, ps, _) => .ok (give t p ps)
    | none => .error (.refuse .eventNotOffered)

/-- A slave write made: the register changes, with its side effects (61_io_devices.md R708, R714). -/
def State.makeSlave (s : State) (w : SlaveWrite) : Run State :=
  match iopReg w.addr with
  | none => .error (.fault .unmappedAccess)
  | some (.lbuf b) => s.coreEnqueue (lkChan b) (s.linkWord (.lbuf b) w.value)
  | some r => s.iopWrite false r (w.value.setWidth 32)

/-- The access an external master is waiting for: the head of one FIFO (61_io_devices.md R710, D46). -/
def State.makeAccess (s : State) (slaveFirst : Bool) : Run State :=
  match s.iop.slaveFifo, s.iop.directFifo with
  | w :: rest, d =>
    if s.slaveReady && (slaveFirst || d.isEmpty) then (s.mapIop fun i => { i with slaveFifo := rest }).makeSlave w
    else direct d
  | [], d => direct d
where
  /-- The head of the direct write FIFO. -/
  direct : List DirectWrite → Run State
    | w :: rest => do
      let (k, n) ← directKey w.addr w.width
      .ok { s.mapIop (fun i => { i with directFifo := rest }) with mem := s.mem.store k n w.value.toNat }
    | [] => .error (.refuse .eventNotOffered)

/-- One step of the I/O processor (61_io_devices.md R680, R689). -/
def State.iopStep (s : State) (slaveFirst : Bool) : Run State :=
  match s.job with
  | some (.move c) => s.dmaMove c
  | some (.load c) => .ok (s.chainLoad c)
  | some .access => s.makeAccess slaveFirst
  | none => .error (.refuse .eventNotOffered)

/-! ### External memory (00_scope.md R7, R16, 61_io_devices.md R722 (a)) -/

/-- The environment sets a word of external data memory: a device, a shared memory or another bus master gives what the next
read of it returns. -/
def State.setExtData (s : State) (a v : W32) : Run State := do
  offered (target s.pins.id a == .ext)
  .ok { s with mem := s.mem.store (extKey a) 4 v.toNat }

/-- The same of an instruction of external memory. -/
def State.setExtCode (s : State) (a : W24) (w : W48) : Run State := do
  offered (a.getLsbD 23)
  .ok { s with mem := s.mem.store (codeKey a) 6 w.toNat }

/-- The same of a byte of boot memory. -/
def State.setBoot (s : State) (a : W32) (b : BitVec 8) : Run State := .ok { s with mem := s.mem.put (bootKey a) b }

/-! ### Slave-mode accesses of the external port buffers (61_io_devices.md R693, R720) -/

/-- A buffer that an external master reaches itself, after the register writes it made before (61_io_devices.md R693). DESIGN
CHOICE (log 106): a reserved PMODE stops the access also while the channel is disabled, where U38 does not name it. -/
def State.slaveBuffer (s : State) (n : Fin 4) (tran : Bool) : Run Unit := do
  offered (s.extMaster && s.slaveTurn && s.ehm n == 0 && s.iop.dmac[n].getLsbD 2 == tran)
  need (s.pmode n ≤ 4) .reservedModeCode

/-- A write of EPBn: a packed piece, or a whole word of 32 or 64 bits; a 48-bit word lies in the upper bits of 64. DESIGN CHOICE
(log 89): it is made at once and does not wait in the slave write FIFO. DESIGN CHOICE (log 110): under DMA 64 bits wait until two
32-bit words have room. -/
def State.epbWrite (s : State) (n : Fin 4) (wide : Bool) (v : W64) : Run State := do
  let c := epChan n
  s.slaveBuffer n false
  let k := s.iop.chan[c].queue.length
  offered (k < 8)
  if s.pmode n != 0 then .ok (s.feed n (v.setWidth 32))
  else if s.iop.dmac[n].getLsbD 5 then
    offered wide
    .ok (s.enqueue c (v >>> 16))
  else if !wide then .ok (s.enqueue c (v &&& 0xFFFFFFFF))
  else if (s.ctl c).on then
    offered (k < 7)
    .ok ((s.enqueue c (v &&& 0xFFFFFFFF)).enqueue c (v >>> 32))
  else .ok (s.enqueue c v)

/-- A read of EPBn (61_io_devices.md R691, R696); of a 48-bit word the low 16 bits of the 64 are free (log 105).
DESIGN CHOICE (log 110): under DMA 64 bits wait until two 32-bit words are there. -/
def State.epbRead (s : State) (n : Fin 4) (wide : Bool) : Run State := do
  let c := epChan n
  s.slaveBuffer n true
  let h := s.iop.chan[c]
  if s.pmode n != 0 then
    match s.nextPiece n with
    | some (p, ps, q) =>
      .ok ((s.mapChan c fun h => h.unpacked ps q).output (.epbValue n (p.setWidth 64)))
    | none => .error (.refuse .eventNotOffered)
  else
    match h.queue with
    | [] => .error (.refuse .eventNotOffered)
    | v :: q =>
      let one := s.dequeue c v
      if s.iop.dmac[n].getLsbD 5 then
        offered wide
        .ok (one.output (.epbValue n (s.leftAligned v)))
      else if !wide then .ok (one.output (.epbValue n ((narrow v (s.free 3)).setWidth 64)))
      else if (s.ctl c).on then
        match q with
        | w :: _ => .ok ((one.dequeue c w).output (.epbValue n (w.setWidth 32 ++ v.setWidth 32)))
        | [] => .error (.refuse .eventNotOffered)
      else .ok (one.output (.epbValue n v))

end Sys2Proof.Machine
end

