-- ==== Sys2Proof/Machine/Reset.lean ====
section
/-!
DEFINITION. Machine/Reset.lean: reset by the pin and by software, in every boot mode (70_reset_and_hazards.md R780 to
R783).
-/
namespace Sys2Proof.Machine

/-- The sequencer after reset: no-boot mode runs from 0x800004, the boot modes idle as after IDLE at 0x40004
(70_reset_and_hazards.md R782, R784). -/
def resetSequencer : BootMode → Sequencer
  | .noboot => Sequencer.atReset 0x800004 0x800005 0x800006 false false
  | _ => Sequencer.atReset 0x040005 0x040006 0x040007 true true

/-- IMASK and LIRPTL after reset (70_reset_and_hazards.md R783). -/
def resetMasks (b : BootMode) (r : SysRegs) : SysRegs :=
  match b with
  | .noboot => r
  | .link => { r with imask := 0x00004003, lirptl := 0x00100000 }
  | _ => { r with imask := 0x00008003 }

/-- The channel that loads the boot program, with its count and its active bit (70_reset_and_hazards.md R783, D44, D58). Of
II, given as 0x00040000, the register holds the low 18 bits, which are 0 (DEDUCED, log 70). -/
def bootLoad (h : Channel) : Channel := { h with c := 0x100, active := true }

/-- DMAC10 of host boot: DEN, DTYPE and an open packing mode (70_reset_and_hazards.md R783, OPEN-4). -/
def hostBootDmac : W32 := 0x21#32 ||| (Config.hostBootPmode.setWidth 32 <<< 6)

/-- What the boot hardware loads into the I/O processor (70_reset_and_hazards.md R783). -/
def resetBoot (b : BootMode) (i : Iop) : Iop :=
  match b with
  | .noboot => i
  | .eprom => { i with
      syscon := 0x00010012
      dmac := i.dmac.set 0 0x000004A1
      chan := i.chan.set 10 { bootLoad i.chan[10] with ei := 0x00800000, ec := 0x600 } }
  | .host => { i with dmac := i.dmac.set 0 hostBootDmac, chan := i.chan.set 10 (bootLoad i.chan[10]) }
  | .link => { i with chan := i.chan.set 8 (bootLoad i.chan[8]) }

/-- The state reset forces around an I/O processor `i`. Memory, the pins and the environment's queues stay
(70_reset_and_hazards.md R780, D56). -/
def State.resetWith (s : State) (i : Iop) : State :=
  { State.reset with
    seq := resetSequencer s.pins.boot
    reg := resetMasks s.pins.boot (SysRegs.atReset s.pins.flagIn)
    mem := s.mem
    iop := resetBoot s.pins.boot i
    pins := { s.pins with flagSync := s.pins.flagIn }
    inputs := s.inputs
    outputs := s.outputs
    freeIdx := s.freeIdx }

/-- Reset by the pin: a single processor is bus master at once, the others synchronise first
(70_reset_and_hazards.md R780, D53), and until then CRBM holds 0 (DESIGN CHOICE, log 69). -/
def State.pinReset (s : State) : State :=
  s.resetWith (if s.pins.id = 0 then Iop.atReset true 1 0 else Iop.atReset false 0 0)

/-- Reset by SYSCON.SRST: bus arbitration keeps its state (70_reset_and_hazards.md R781), a host that is master and a bus
time-out that has run out among it (DEDUCED, log 71). -/
def State.softReset (s : State) : State :=
  s.resetWith { Iop.atReset s.iop.bsyn s.iop.crbm s.iop.bcnt with hstm := s.iop.hstm, yielding := s.iop.yielding }

end Sys2Proof.Machine
end

