-- ==== Sys2Proof/Machine/CoreStep.lean ====
section
/-!
DEFINITION. Machine/CoreStep.lean: one step of the machine: an environment event, or one core step, which is an interrupt
entry, an idle step or one instruction (60_exceptions.md R603, R620, R645; 41_program_flow.md R300).
-/
namespace Sys2Proof.Machine

/-! ### Level sources (60_exceptions.md R603, R613, R614, R619; 61_io_devices.md R720; 62_link_serial_multiproc.md R730) -/

/-- The sticky bits the arithmetic interrupts look at: those a program write just changed may still be the old ones
(60_exceptions.md R614, D39). -/
def State.stickyBits (s : State) : W32 :=
  (s.reg.stkyx ^^^ s.freeIn 14 s.changed.stkyx) |||
    (if s.simd then s.reg.stkyy ^^^ s.freeIn 15 s.changed.stkyy else 0)

/-- `EPCause` (61_io_devices.md R720). -/
def State.epCause (s : State) (n : Fin 4) : Bool :=
  let d := s.iop.dmac[n]
  let k := s.iop.chan[epChan n].queue.length
  !d.getLsbD 0 && d.getLsbD 12 && (if d.getLsbD 2 then k < 8 else 0 < k)

/-- `LinkCause` (62_link_serial_multiproc.md R730). -/
def State.linkCause (s : State) (b : Fin 6) : Bool :=
  let g := s.linkGroup b
  let k := s.iop.chan[lkChan b].queue.length
  g.getLsbD 0 && !g.getLsbD 1 && (if g.getLsbD 3 then k < 2 else 0 < k)

/-- The cause of a level source is present. -/
def State.levelCause (s : State) : Irq → Bool
  | .iicdi => s.reg.stkyx &&& 0x00180000 != 0
  | .fixi => s.stickyBits &&& 0x004 != 0
  | .fltoi => s.stickyBits &&& 0x082 != 0
  | .fltui => s.stickyBits &&& 0x101 != 0
  | .fltii => s.stickyBits &&& 0x220 != 0
  | .lsrq => s.lsrqValue &&& 0xFFF00000 != 0
  | .ep0 => s.epCause 0 | .ep1 => s.epCause 1 | .ep2 => s.epCause 2 | .ep3 => s.epCause 3
  | .lp0 => s.linkCause 0 | .lp1 => s.linkCause 1 | .lp2 => s.linkCause 2
  | .lp3 => s.linkCause 3 | .lp4 => s.linkCause 4 | .lp5 => s.linkCause 5
  | _ => false

/-- The level sources of `s` that are not in service there occur on `t` (60_exceptions.md R603, R620 part B). -/
def State.levels (s t : State) : State :=
  (Irq.all.filter fun k => s.levelCause k && !s.inService k).foldl State.occur t

/-- The invariant of 60_exceptions.md R603: no latch of an interrupt in service with nesting off. -/
def State.holdLatches (t : State) : State := t.mapReg SysRegs.hold

/-! ### Recognition (60_exceptions.md R620) -/

/-- The masks as `Select` sees them: a register that the instruction before changed may still have its old value
(60_exceptions.md R620, D36). -/
def State.masksSeen (s : State) : Masks :=
  let back (v c mask : W32) (n : Nat) : W32 :=
    if c &&& mask = 0 then v else if (s.free 13).getLsbD n then v ^^^ (c &&& mask) else v
  { mode1 := back s.reg.mode1 s.changed.mode1 0x1800 0
    imask := back s.reg.imask s.changed.imask 0xFFFFFFFF 1
    lirptl := back s.reg.lirptl s.changed.lirptl 0x003F0000 2 }

/-- `Select(sigma0(s))`. -/
def State.selected (s : State) : Option Irq := s.select s.masksSeen

/-- The interrupt recognised for this step (60_exceptions.md R620 part A). -/
def State.recognised (s : State) : Option Irq :=
  match s.seq.prevKind with
  | .entry => none
  | .branch => s.selected
  | .idle => s.selected
  | .other => s.seq.prevSel

/-- An entry is held off: between a delayed branch and its target, and right after a write of PCSTKP
(60_exceptions.md R620, 70_reset_and_hazards.md R800). -/
def State.entryHeld (s : State) : Bool := s.seq.dbSlots != 0 || s.recent.pcstkp

/-- The window of a one-instruction condition-based loop whose exit is decided (41_program_flow.md R337). -/
def State.decidedExit (s : State) : Bool := s.seq.daddr == s.seq.pc && s.seq.faddr == s.seq.pc + 1

/-- MMASK as an entry sees it (70_reset_and_hazards.md R800). -/
def State.mmaskSeen (s : State) : W32 :=
  if s.changed.mmask = 0 then s.reg.mmask
  else if (s.free 13).getLsbD 3 then s.reg.mmask ^^^ s.changed.mmask else s.reg.mmask

/-! ### Fetch -/

/-- The instruction is fetched over the external bus. -/
def State.fetchesOut (s : State) : Bool := s.seq.cachedPc.isNone && s.seq.pc.getLsbD 23

/-- The word of the instruction at PC: from the cache where the fetch was served by it, else from memory
(20_memory.md R150, R186; 62_link_serial_multiproc.md R760). DESIGN CHOICE (log 73): a fetch is no access that a change of
MSIZE, WAIT or EBPR by the instruction before makes a hazard. -/
def State.fetch (s : State) : Run W48 :=
  match s.seq.cachedPc, fetchKey s.seq.pc with
  | some w, _ => .ok w
  | none, none => .error (.fault .illegalFetch)
  | none, some k => do
    if s.seq.pc.getLsbD 23 then
      if s.busMine then .ok () else .error .busStall
      need (bankOk s.iop.syscon s.iop.wait (s.seq.pc.setWidth 32) true) .reservedModeCode
    .ok (BitVec.ofNat 48 (s.mem.load k 6))

/-- A completed external fetch in bank 0 is an external access, unless the instruction made a later one
(62_link_serial_multiproc.md R767). -/
def State.noteFetch (s t : State) : State :=
  if s.fetchesOut && !t.recent.elast then t.touchExt (s.seq.pc.setWidth 32) else t

/-! ### The end of a core step -/

/-- The FLAGS bits of input pins take the level sampled a step before (10_state.md R43). -/
def State.sampleFlags (s t : State) : State :=
  let out := flagOutputs s.reg.mode2
  let u := t.mapReg fun r => { r with flags := putBits (s.pins.flagSync.setWidth 32) out r.flags }
  { u with pins := { u.pins with flagSync := s.pins.flagIn } }

/-- The tick of a core step (60_exceptions.md R640): with TIMEN as it was at the end of the step before; a program write of
TCOUNT wins. -/
def State.stepTick (s t : State) : State :=
  let u := t.countClock
  let v := if s.reg.mode2.getLsbD 5 && !t.recent.tcount then u.timerTick s.recent.timerZero (Config.freeBit s.freeIdx) else u
  { v with recent := { v.recent with timerZero := s.timerEnabled t } }

/-- What every core step from `s` ends with, on the state `t` that the entry, the idle step or the instruction left
(60_exceptions.md R603, R620, R640; 10_state.md R43, R106). -/
def State.finish (s t : State) : State :=
  let u := (s.levels (s.sampleFlags (s.stepTick t))).holdLatches
  (u.mapSeq fun q => { q with prevSel := s.selected, waiting := false }).mapIop fun i => { i with pcShdw := s.seq.pc }

/-! ### One core step -/

/-- An idle core step: nothing happens in the core (60_exceptions.md R645). -/
def State.idleStep (s : State) : State := s.pause.mapSeq fun q => { q with prevKind := .idle }

/-- An instruction that has begun and waits: the state is as before, but no interrupt is entered in its place from now on,
and a DMA channel just started has been seen (60_exceptions.md R620, 70_reset_and_hazards.md R802, 92_eei_decisions.md
D48). -/
def State.wait (s : State) : State :=
  { s with seq := { s.seq with waiting := true }, recent := { s.recent with started := 0 } }

/-- The end of an instruction: `t` is what it left. An instruction that waits leaves the state as it is, free values
included, and its core step is not over (92_eei_decisions.md D48). -/
def State.afterExec (s : State) : Host.Outcome State Fault Refusal → Host.Outcome State Fault Refusal
  | .next t => if t.freeIdx = s.freeIdx then .next t.wait else .next (s.finish (s.noteFetch t))
  | .fault f => .fault f
  | .refused r => .refused r

/-- Fetch, decode and execute one instruction (41_program_flow.md R300, 30_encoding.md R201). -/
def State.runInstr (s : State) : Host.Outcome State Fault Refusal :=
  match s.fetch with
  | .error (.fault f) => .fault f
  | .error (.refuse r) => .refused r
  | .error .stall => .next s.wait
  | .error .busStall => .next s.awaitBus.wait
  | .ok w =>
    match decode w with
    | .ok i => s.afterExec (exec i s)
    | .error _ => .fault .illegalInstruction

/-- The entry of an interrupt reads SYSCON.IIVT, and the instruction before changed it: the base of the vector table is in
internal memory or not only in no-boot mode, and VIRPT holds its own vector (60_exceptions.md R606, 70_reset_and_hazards.md
R802). -/
def State.vectorMoved (s : State) (k : Irq) : Bool :=
  k != .virpti && s.pins.boot == .noboot && s.recent.syscon.getLsbD 2

/-- The interrupt entered in this step: none while an instruction waits (60_exceptions.md R620). -/
def State.entering (s : State) : Option Irq :=
  if s.seq.waiting || s.entryHeld then none else s.recognised

/-- One core step (60_exceptions.md R620). -/
def State.coreStep (s : State) : Host.Outcome State Fault Refusal :=
  match s.entering with
  | some k =>
    if s.decidedExit then .fault .shortLoopInterrupt
    else if s.vectorMoved k then .fault .latencyHazard
    else .next (s.finish (s.pause.enter k s.mmaskSeen))
  | none => if s.seq.idle then .next (s.finish s.idleStep) else s.runInstr

/-! ### One step -/

/-- An event that has happened: the free values it may have drawn are used up, and while the core is idle the level sources
are examined (60_exceptions.md R603). -/
def State.afterEvent (t : State) : State :=
  let u := if t.seq.idle then t.levels t else t
  { u.holdLatches with freeIdx := u.freeIdx + freeStride }

/-- What an event does. -/
def State.apply (s : State) : Event → Run State
  | .core => .ok s
  | .tick => .ok s.extraTick
  | .setIrq low => .ok { s with pins := { s.pins with irqLow := low } }
  | .samplePins => .ok s.samplePins
  | .setFlags levels => .ok { s with pins := { s.pins with flagIn := levels } }
  | .setLinkPins ack clk => .ok { s with pins := { s.pins with ackIn := ack, clkIn := clk } }
  | .resetPin => .ok s.pinReset
  | .iopStep slaveFirst => s.iopStep slaveFirst
  | .extTransfer n => s.extTransfer n
  | .dmaRequest ch12 => s.dmaAsk ch12
  | .dmaGrant ch12 data => s.dmaGrant ch12 data
  | .extWriteIop sync addr v => s.extWriteIop sync addr v
  | .extReadIop addr => s.extReadIop addr
  | .extWriteMem sync addr width v => s.extWriteMem sync addr width v
  | .latchDirect => s.latchDirect
  | .extReadMem addr width => s.extReadMem addr width
  | .hostPiece addr piece => s.hostPiece addr piece
  | .hostRead addr => s.hostRead addr
  | .epbWrite n wide piece => s.epbWrite n wide piece
  | .epbRead n wide => s.epbRead n wide
  | .linkTaken b => s.linkTaken b
  | .linkArrived b word => s.linkArrived b word
  | .linkPartial b => s.linkPartial b
  | .linkLoop t r => s.linkLoop t r
  | .sportSent x => s.sportSent x
  | .sportReceived x word => s.sportReceived x word
  | .sportUnderflow x => s.sportUnderflow x
  | .sportSlot x word => s.sportSlot x word
  | .synchronised m => s.synchronised m
  | .setBusPins br pa => .ok (s.setBusPins br pa)
  | .busTo m => s.busTo m
  | .bcntTick => s.bcntTick
  | .dropRequest => s.dropRequest
  | .hostAcquire => s.hostAcquire
  | .hostRelease => s.hostRelease
  | .setExtData a v => s.setExtData a v
  | .setExtCode a w => s.setExtCode a w
  | .setBoot a b => s.setBoot a b

/-- An event as a step of its own; one that would have to wait is not offered (93_implementation_defined.md section 1). -/
def State.eventStep (s : State) (e : Event) : Host.Outcome State Fault Refusal :=
  match s.apply e with
  | .ok t => .next t.afterEvent
  | .error (.fault f) => .fault f
  | .error (.refuse r) => .refused r
  | .error .stall => .refused .eventNotOffered
  | .error .busStall => .refused .eventNotOffered

/-- One step: a pending software reset, the next event of the environment, or a core step (70_reset_and_hazards.md R781,
00_scope.md R16). -/
def State.oneStep (s : State) : Host.Outcome State Fault Refusal :=
  if s.pins.id = 7 then .refused .reservedPins
  else if s.iop.resetPending then .next s.softReset
  else
    match s.inputs with
    | [] => s.coreStep
    | .core :: rest => { s with inputs := rest }.coreStep
    | e :: rest => { s with inputs := rest }.eventStep e

/-- The bytes of a word stored where the next instruction is fetched; where no code can stand, nothing
(20_memory.md R150). -/
def State.placeWord (s : State) (w : W48) : State :=
  match fetchKey s.seq.pc with
  | some k => { s with mem := s.mem.store k 6 w.toNat, seq := { s.seq with cachedPc := none } }
  | none => { s with seq := { s.seq with cachedPc := none } }

end Sys2Proof.Machine
end

