-- ==== Sys2Proof/Safety.lean ====
section
/-!
DEFINITION. Safety.lean: what counts as a safe run, in the terms claims use: the invariants of a state, the conditions
under which an instruction cannot meet a hazard, and what it means that a step leaves a part of the state alone.
-/
namespace Sys2Proof.Machine

/-! ### Invariants -/

/-- The invariant of every state: memory in canonical form; stacks within their depth (10_state.md R30 to R32); two delay
slots at most (41_program_flow.md R300); at most two entries in a set of the cache (10_state.md R45); the interrupts RSTI
and EMUI always enabled (10_state.md R40); the reserved bits of MODE1, also where it is saved, 0 (10_state.md R34, R48). -/
structure State.Wf (s : State) : Prop where
  mem : s.mem.wf = true
  loops : s.seq.loopDepth ≤ 6
  statuses : s.seq.statusStack.length ≤ 15
  slots : s.seq.dbSlots ≤ 2
  pcStack : s.seq.pcstkp = 31 → s.seq.stackOverflow = true
  cache : ∀ i : Fin 16, s.seq.cache[i].length ≤ 2
  imask : s.reg.imask &&& 3 = 3
  mode1 : s.reg.mode1 &&& ~~~mode1Bits = 0
  saved : ∀ e ∈ s.seq.statusStack, e.mode1 &&& ~~~mode1Bits = 0

/-- The invariant of 60_exceptions.md R603: with nesting off, no latch bit of an interrupt in service is set. -/
def State.LatchesHeld (s : State) : Prop :=
  nestm s.reg.mode1 = false →
    s.reg.irptl &&& s.reg.imaskp = 0 ∧ s.reg.lirptl &&& (s.reg.lirptl >>> 24) &&& 0x3F#32 = 0

/-! ### No hazard -/

/-- Nothing that the instruction before did is still in flight (70_reset_and_hazards.md R800 to R802). -/
structure State.Settled (s : State) : Prop where
  changed : s.changed = Changed.none
  pcstkp : s.recent.pcstkp = false
  btf : s.recent.btf = false
  curlcntr : s.recent.curlcntr = false
  syscon : s.recent.syscon = 0
  wait : s.recent.wait = 0
  flushed : s.recent.flushed = 0
  flushedBefore : s.recent.flushedBefore = 0

/-- An instruction can reach its end: nothing is in flight, no stack has overflowed, a loop has its entry on the PC stack,
and the window does not run past the last address. -/
def State.Steady (s : State) : Prop :=
  s.Settled ∧ s.seq.stackOverflow = false ∧ (s.looping = true → s.seq.pcstkp ≠ 0) ∧ s.wrapsPc = false

/-- The state that an instruction writes its results to: the step begun, the loop test made and the stacks of a loop that ends
popped (41_program_flow.md R300, R330, R332). -/
def State.begun (s : State) : State :=
  match s.begin with
  | .ok t => t
  | .error _ => s.start

/-- A steady state outside the loops of one or two instructions (41_program_flow.md R332, R333). -/
def State.Calm (s : State) : Prop := s.Steady ∧ s.inShortLoop = false

/-- A steady state in which the stacks may be used: no loop test is due, no delay slot is left, and no loop of one or two
instructions runs (41_program_flow.md R302, R307, R332). -/
def State.StackReady (s : State) : Prop :=
  s.Calm ∧ s.loopAct = .none ∧ s.seq.dbSlots = 0

/-- The instruction is not among the last three of the active loop (41_program_flow.md R334). -/
def State.AwayFromEnd (s : State) : Prop :=
  s.looping = true → s.seq.pc ≠ s.loopEnd ∧ s.seq.pc ≠ s.loopEnd - 1 ∧ s.seq.pc ≠ s.loopEnd - 2

/-- A steady state in which a branch may be taken: no loop test is due, no delay slot is left, and inside a loop the branch
is not among its last three instructions (41_program_flow.md R302, R334). -/
def State.MayBranch (s : State) : Prop := s.Steady ∧ s.loopAct = .none ∧ s.seq.dbSlots = 0 ∧ s.AwayFromEnd

/-- The sequencer's registers may be written: no delay slot is left and no loop is active (41_program_flow.md R302, R331). -/
def State.FlowWritable (s : State) (u : UReg) : Prop := u.ofFlow = true → s.seq.dbSlots = 0 ∧ s.looping = false

/-- What a taken branch to `a` leaves of the written state `t`: the window at the target, where a loop goes round at its
end; with (DB) the two instructions already fetched come first, and it is noted whether they are the slots of a return
(41_program_flow.md R300, R301, R306). The last passes of short loops that the branch leaves are over (R333). -/
def State.branched (s t : State) (db ret : Bool) (a : W24) : State :=
  if db then
    { t with seq := { t.seq with
        pc := s.seq.daddr, daddr := s.seq.faddr, faddr := a, dbSlots := 2, dbReturn := ret, prevKind := .other
        lastPasses := t.seq.lastPasses.filter fun p =>
          p.depth < t.seq.pcstkp || p.covers t.seq.pcstkp s.seq.daddr
        cachedPc := t.seq.cachedDaddr, cachedDaddr := t.seq.cachedFaddr, cachedFaddr := none } }
  else
    { t with
      changed := Changed.none
      seq := { t.seq with
        pc := a, daddr := t.follow a, faddr := t.follow (t.follow a), dbSlots := 0, prevKind := .branch
        lastPasses := t.seq.lastPasses.filter fun p => p.depth < t.seq.pcstkp || p.covers t.seq.pcstkp a
        cachedPc := none, cachedDaddr := none, cachedFaddr := none } }

/-- The written state `t` with the instruction cache emptied, if `b`. -/
def State.flushed (t : State) (b : Bool) : State :=
  if b then { t with seq := { t.seq with cache := .replicate 16 [] } } else t

/-! ### What a step leaves alone -/

/-- Every byte of memory reads as before. -/
def State.SameMemory (s t : State) : Prop := ∀ k, t.mem.byte k = s.mem.byte k

/-- Every byte of memory outside `n` bytes from `k` reads as before. -/
def State.SameMemoryBut (s t : State) (k n : Nat) : Prop := ∀ a, ¬ (k ≤ a ∧ a < k + n) → t.mem.byte a = s.mem.byte a

/-- Data registers and multiplier result registers of both elements are as before. -/
def State.SameData (s t : State) : Prop := t.x = s.x ∧ t.y = s.y

/-- The address registers of both sets are as before. -/
def State.SameAddresses (s t : State) : Prop := t.dag = s.dag ∧ t.dagAlt = s.dagAlt

/-- The registers of the I/O processor, its buffers and the pins are as before. -/
def State.SameDevices (s t : State) : Prop := t.iop = s.iop ∧ t.pins = s.pins ∧ t.inputs = s.inputs ∧ t.outputs = s.outputs

/-- The window an instruction leaves that asks nothing of the sequencer: one place on, with the next fetch at the top of a
loop that goes round; round or out of a short counter loop at its last instruction (41_program_flow.md R300, R330, R332). In
the delay slots of a return the fetch follows the window of its target (R306). -/
def State.WindowAfter (s : State) (q : Sequencer) : Prop :=
  match s.loopAct with
  | .shortExpired => q.pc = s.loopEnd + 1 ∧ q.daddr = s.loopEnd + 2 ∧ q.faddr = s.loopEnd + 3
  | .shortAgain =>
      q.pc = s.topPc ∧ q.daddr = (if s.loopType = 1 then s.topPc else s.loopEnd) ∧ q.faddr = s.topPc
  | .again _ => q.pc = s.seq.daddr ∧ q.daddr = s.seq.faddr ∧ q.faddr = s.topPc
  | _ =>
      q.pc = s.seq.daddr ∧ q.daddr = s.seq.faddr ∧
        q.faddr = (if s.seq.dbReturn = true ∧ s.seq.dbSlots ≠ 0 ∧ s.looping = true ∧ s.loopEnd = s.seq.faddr then s.topPc
          else s.seq.faddr + 1)

/-- `u` is `t` after the end of an instruction that began in `s`: only the window has moved, with one delay slot fewer and
the words the cache gave (41_program_flow.md R300). -/
def State.Advanced (s t u : State) : Prop :=
  u = { t with seq := { t.seq with
      pc := u.seq.pc, daddr := u.seq.daddr, faddr := u.seq.faddr, dbSlots := t.seq.dbSlots - 1, prevKind := .other
      lastPasses := u.seq.lastPasses, cachedPc := u.seq.cachedPc, cachedDaddr := u.seq.cachedDaddr
      cachedFaddr := none } } ∧
  s.WindowAfter u.seq

/-- STKYx, or STKYy when `y`. -/
def State.stky (s : State) (y : Bool) : W32 := if y then s.reg.stkyy else s.reg.stkyx

/-! ### Address registers and memory moves -/

/-- The update of index register `i` by `m` meets the conditions of its circular buffer, if it has one
(20_memory.md R173). -/
def State.IndexOk (s : State) (i : Reg) (m : W32) (always : Bool) : Prop :=
  s.circular i always = true → circOk (s.dagReg .i i) (s.dagReg .b i) (s.dagReg .l i) m = true

/-- The index update of a memory move meets the conditions of its circular buffer. -/
def State.ModeOk (s : State) : AddrMode → Prop
  | .post i m => s.IndexOk i (s.modifier m) false
  | _ => True

/-- An address register after a memory move that addresses memory by `m` (20_memory.md R170 to R172). -/
def State.dagAfter (s : State) (m : AddrMode) (k : DagKind) (n : Reg) : W32 :=
  match m with
  | .post i d => if k = .i ∧ n = i then s.indexAfter i (s.modifier d) false else s.dagReg k n
  | _ => s.dagReg k n

/-- The sticky bit of STKYx for a wrap of I7 or I15 (60_exceptions.md R615). -/
def wrapBit (i : Reg) (b : Bool) : W32 := if b && i == 7 then 0x20000 else if b && i == 15 then 0x40000 else 0

/-- `t` is the state `w` after index register `i` was updated by `m`: the register itself, and for a wrap of I7 or I15 the
sticky bit and the latch of its interrupt (20_memory.md R173, 60_exceptions.md R615). -/
def State.Indexed (s w t : State) (i : Reg) (m : W32) (always : Bool) : Prop :=
  t = { w.setDagReg .i i (s.indexAfter i m always) with reg := { w.reg with stkyx := t.reg.stkyx, irptl := t.reg.irptl } } ∧
  t.reg.stkyx = w.reg.stkyx ||| wrapBit i (s.wraps i m always) ∧
  t.reg.irptl &&& ~~~0x00300000#32 = w.reg.irptl &&& ~~~0x00300000#32 ∧
  (wrapBit i (s.wraps i m always) = 0 → t.reg.irptl = w.reg.irptl)

/-- `t` is the state `w` after the address part of a memory move: the index register updated, a PM access noted in the
instruction cache, and an access to external bank 0 noted in ELAST (20_memory.md R170, R186,
62_link_serial_multiproc.md R767). -/
def State.Addressed (s w t : State) (m : MemMove) : Prop :=
  t = { w with
    dag := t.dag
    dagAlt := t.dagAlt
    seq := { w.seq with cache := t.seq.cache, cachedFaddr := t.seq.cachedFaddr }
    iop := { w.iop with elast := t.iop.elast }
    recent := { w.recent with elast := t.recent.elast } } ∧
  (∀ k n, t.dagReg k n = s.dagAfter m.mode k n) ∧ (m.pm = false → t.seq = w.seq)

/-- The sticky bits of STKYx that a memory move at address `a` reports: the wrap of I7 or I15, with MODE2.IIRAE a register of
an I/O processor, and with MODE2.U64MAE a long access at an odd normal-word address (60_exceptions.md R613, R615). -/
def State.reportBits (s : State) (m : MemMove) (a : W32) : W32 :=
  (match m.mode with
    | .post i d => wrapBit i (s.wraps i (s.modifier d) false)
    | _ => 0) |||
  (if target s.pins.id a ≠ .ext ∧ form a = .iop ∧ s.reg.mode2.getLsbD 20 = true then 0x80000 else 0) |||
  (if m.lw = true ∧ a.getLsbD 0 = true ∧ (target s.pins.id a = .ext ∨ form a = .normal) ∧ s.reg.mode2.getLsbD 21 = true
    then 0x100000 else 0)

/-- `u` is the state `t` after the reports of a memory move at address `a`: its sticky bits set, and for a wrap the latch of
CB7I or CB15I (60_exceptions.md R613, R615). -/
def State.Reported (s t u : State) (m : MemMove) (a : W32) : Prop :=
  u = { t with reg := { t.reg with stkyx := t.reg.stkyx ||| s.reportBits m a, irptl := u.reg.irptl } } ∧
  u.reg.irptl &&& ~~~0x00300000#32 = t.reg.irptl &&& ~~~0x00300000#32 ∧
  u.reg.irptl &&& t.reg.irptl = t.reg.irptl ∧
  (s.reportBits m a &&& 0x60000 = 0 → u.reg.irptl = t.reg.irptl)

/-- A word of this processor's memory or of external memory that a core access reaches: internal cells that no store of the
last two instructions left in the shadow write FIFO for a read, and that are not fetched already for a write; external cells
with the bus granted (20_memory.md R184, R185, 62_link_serial_multiproc.md R760, 70_reset_and_hazards.md R830). -/
def State.Reachable (s : State) (l : Loc) (read : Bool) : Prop :=
  l.toAll = false ∧
  match l.place with
  | .cells f =>
      if read then shadowed (s.shadow1 ++ s.shadow2) f (l.width / 16) (l.width == 48) = false
      else s.hitsFetched f (l.width / 16) = false
  | .ext => s.busMine = true ∧ bankOk s.iop.syscon s.iop.wait l.addr read = true
  | _ => False

/-- The bytes of a word in memory: the key of the first and their number; none in the registers of the I/O processor and
in the memory of other processors. -/
def Loc.bytes (l : Loc) : Nat × Nat :=
  match l.place with
  | .cells f => (colKey f, l.width / 8)
  | .ext => (extKey l.addr, l.width / 8)
  | _ => (0, 0)

/-- A byte outside a word. -/
def Loc.Outside (l : Loc) (k : Nat) : Prop := ¬ (l.bytes.1 ≤ k ∧ k < l.bytes.1 + l.bytes.2)

/-- A byte outside everything a store of `d` at address `a` can write: the word the address names, and in SIMD mode the word
of the implicit transfer (20_memory.md R142, R161, R162). -/
def State.OutsideStore (s : State) (a : W32) (px lw : Bool) (k : Nat) : Prop :=
  ∀ l, s.locate a px lw = .ok l → l.Outside k ∧ (s.simd = true → ∀ m, s.implicitLoc l = .ok m → m.Outside k)

/-- The data address modes with a register or an immediate modifier, post-modify or pre-modify. -/
def addrMode (post : Bool) (i : Reg) (m : Modifier) : AddrMode := if post then .post i m else .pre i m

/-- The register of a move is the combined PX. -/
def MemMove.px (m : MemMove) : Bool :=
  match m.op with
  | .load u => u == .px
  | .store d => d.isPx

/-- The words of one access of a Type 1 instruction, each with its register: the word `l` at the address, and `k` of the
implicit transfer of a short or normal word in SIMD mode; a 48- or 64-bit word alone, in SIMD mode over the PM bus for an S
register; in a broadcast load (`same`) the one word for both elements (20_memory.md R166 to R168). -/
def State.dualWords (s : State) (pm same : Bool) (d : Reg) (l k : Loc) : List (UReg × Loc) :=
  if s.simd && pm && !l.narrow then (.s d, l) :: (if same then [(.r d, l)] else [])
  else (.r d, l) :: (if same then [(.s d, l)] else if s.simd && l.narrow then [(.s d, k)] else [])

/-- Memory `m` with the registers of `ws` stored, first to last. -/
def State.storedWords (s : State) (m : Mem) (ws : List (UReg × Loc)) : Mem :=
  ws.foldl (fun m w => m.store w.2.bytes.1 w.2.bytes.2 (s.regWord w.1 w.2.width).toNat) m

/-- What loads of the words `ws` take from memory `m`. -/
def loadedWords (m : Mem) (ws : List (UReg × Loc)) : List Loaded :=
  ws.map fun w => ⟨w.1, w.2.width, BitVec.ofNat 64 (m.load w.2.bytes.1 w.2.bytes.2)⟩

/-- A store of register `u`, or a load of it. -/
def moveOp (write : Bool) (u : UReg) : MemOp := if write then .store (.reg u) else .load u

/-! ### Rounding and the results of the units -/

/-- `n` is `m / 2^d` rounded: truncated, or to nearest with a tie to even (45_alu_float.md R442). -/
def IsRounded (toZero : Bool) (m d n : Nat) : Prop :=
  if toZero then n * 2 ^ d ≤ m ∧ m < (n + 1) * 2 ^ d
  else
    2 * n * 2 ^ d ≤ 2 * m + 2 ^ d ∧ 2 * m ≤ (2 * n + 1) * 2 ^ d ∧
      (2 * n * 2 ^ d = 2 * m + 2 ^ d ∨ 2 * m = (2 * n + 1) * 2 ^ d → n % 2 = 0)

/-- The word with this sign, biased exponent, and significand 1.f times 2^31 (45_alu_float.md R440). -/
def FloatWord (w : W40) (s : Bool) (e : Int) (sig : Nat) : Prop :=
  w.msb = s ∧ ((w.extractLsb' 31 8).toNat : Int) = e ∧ 2 ^ 31 + (w.extractLsb' 0 31).toNat = sig

/-- `w` is the number of magnitude `m * 2^x`, `m > 0`, rounded to `p` significant bits and delivered, with the overflow and
the underflow reported (45_alu_float.md R442): infinity or in truncation the largest number on overflow, zero where the
exponent is below the smallest. -/
def RoundedWord (mode1 : W32) (p : Nat) (s : Bool) (m : Nat) (x : Int) (w : W40) (ovf unf : Bool) : Prop :=
  ∃ l n : Nat, 2 ^ l ≤ m ∧ m < 2 ^ (l + 1) ∧ IsRounded (trunc mode1) (m * 2 ^ p) (l + 1) n ∧
    let e : Int := l + x + (if n = 2 ^ p then 1 else 0)
    if 127 < e then
      ovf = true ∧ unf = false ∧
        (if trunc mode1 then FloatWord w s 254 ((2 ^ p - 1) * 2 ^ (32 - p)) else FloatWord w s 255 (2 ^ 31))
    else if e < -126 then ovf = false ∧ unf = true ∧ FloatWord w s 0 (2 ^ 31)
    else
      ovf = false ∧ unf = false ∧
        FloatWord w s (e + 127) ((if n = 2 ^ p then 2 ^ (p - 1) else n) * 2 ^ (32 - p))

/-- The operand is a zero or a number. -/
def Flt.finite : Flt → Bool
  | .zero _ => true
  | .num _ _ _ => true
  | _ => false

/-- What a floating-point ALU operation leaves: the word, AZ, AV, AN, AS and AI, AF set and AC cleared; `u` is the underflow
report in AUS, AVS and AIS follow AV and AI (45_alu_float.md R444). -/
def floatOut (c : PeIn) (n : Reg) (w : W40) (z v neg s i u : Bool) : PeOut :=
  { writes := [(n, w)]
    mr := none
    astat := (c.astat &&& ~~~0x43F#32) ||| 0x400#32 ||| bitAt 0 z ||| bitAt 1 v ||| bitAt 2 neg ||| bitAt 4 s ||| bitAt 5 i
    stky := bitAt 0 u ||| bitAt 1 v ||| bitAt 5 i }

/-- What a floating-point product leaves: the word, MN its sign, MV, MU and MI with their sticky bits
(46_multiplier.md R519). -/
def floatProduct (c : PeIn) (n : Reg) (w : W40) (v u i : Bool) : PeOut :=
  { writes := [(n, w)]
    mr := none
    astat := (c.astat &&& ~~~0x3C0#32) ||| bitAt 6 w.msb ||| bitAt 7 v ||| bitAt 8 u ||| bitAt 9 i
    stky := bitAt 7 v ||| bitAt 8 u ||| bitAt 9 i }

/-- `j` is the number of sign `s` and magnitude `m / 2^d` as an integer (45_alu_float.md R458). -/
def IsFixed (r : FixRound) (s : Bool) (m d : Nat) (j : Int) : Prop :=
  let v : Int := if s then -m else m
  match r with
  | .floor => j * 2 ^ d ≤ v ∧ v < (j + 1) * 2 ^ d
  | .toZero => ∃ q : Nat, IsRounded true m d q ∧ j = (if s then -(q : Int) else q)
  | .nearest => ∃ q : Nat, IsRounded false m d q ∧ j = (if s then -(q : Int) else q)

/-- A conversion to fixed point that overflows: with ALUSAT the largest or the smallest number, else the word of all ones
and AI (45_alu_float.md R458). -/
def fixOver (c : PeIn) (n : Reg) (s : Bool) : PeOut :=
  if alusat c.mode1 then floatOut c n ((if s then 0x80000000#32 else 0x7FFFFFFF#32) ++ 0#8) false true s false false false
  else floatOut c n all1F false true true false true false

/-- `r` is `v` rounded at bit 32, to nearest with a tie to even; its low 32 bits are left open (46_multiplier.md R493,
OPEN-2). -/
def RoundedMr (v r : W80) : Prop := ∃ q, IsRounded false v.toNat 32 q ∧ r.extractLsb' 32 48 = BitVec.ofNat 48 q

/-- What a fixed-point multiplier operation with the 80-bit result `r` leaves in ASTAT and STKY: MN its sign, MV that it does
not fit its format, unless it was saturated to it, MU that a fraction is below its format, MI cleared, MOS set with MV
(46_multiplier.md R495, R509). -/
def MulFlagged (c : PeIn) (o : PeOut) (r : W80) (signed frac sat : Bool) : Prop :=
  o.astat.getLsbD 6 = r.msb ∧
  (o.astat.getLsbD 7 = true ↔ sat = false ∧
    if signed then
      (if frac then r.toInt < -2 ^ 63 ∨ 2 ^ 63 ≤ r.toInt else r.toInt < -2 ^ 31 ∨ 2 ^ 31 ≤ r.toInt)
    else (if frac then 2 ^ 64 ≤ r.toNat else 2 ^ 32 ≤ r.toNat)) ∧
  (o.astat.getLsbD 8 = true ↔
    frac = true ∧ r.toNat % 2 ^ 32 ≠ 0 ∧
      (r.toNat < 2 ^ 32 ∨ signed = true ∧ -2 ^ 32 ≤ r.toInt ∧ r.toInt < 0)) ∧
  o.astat.getLsbD 9 = false ∧ o.astat &&& ~~~0x3C0#32 = c.astat &&& ~~~0x3C0#32 ∧
  o.stky = bitAt 6 (o.astat.getLsbD 7)

/-! ### The I/O processor -/

/-- A register of the I/O processor that holds what is written to it and acts on nothing else: the bits it keeps
(10_state.md R101, 61_io_devices.md R682). -/
def IopReg.keeps : IopReg → Option W32
  | .virpt => some 0xFFFFFFFF
  | .wait => some 0x4FFFFFFF
  | .msgr _ => some 0xFFFFFFFF
  | .bmax => some 0xFFFF
  | .bcnt => some 0xFFFF
  | .elast => some 0xFFFFFFFF
  | .param _ .ii => some 0x3FFFF
  | .param _ .im => some 0xFFFF
  | .param _ .gp => some 0x3FFFF
  | .param _ .db => some 0xFFFF
  | .param _ .ei => some 0xFFFFFFFF
  | .param _ .em => some 0xFFFFFFFF
  | .sp _ .tdiv => some 0xFFFFFFFF
  | .sp _ .rdiv => some 0xFFFFFFFF
  | .sp _ .tcnt => some 0xFFFFFFFF
  | .sp _ .rcnt => some 0xFFFFFFFF
  | .sp _ .mtcs => some 0xFFFFFFFF
  | .sp _ .mrcs => some 0xFFFFFFFF
  | .sp _ .mtccs => some 0xFFFFFFFF
  | .sp _ .mrccs => some 0xFFFFFFFF
  | .sp _ .keywd => some 0xFFFFFFFF
  | .sp _ .keymask => some 0xFFFFFFFF
  | _ => none

/-- The word that a core store of `v` puts into the buffer behind a register: the value itself, into RXx what its eight low bits
expand to where RXx compands in place, and none where it does not (62_link_serial_multiproc.md R745, R748). -/
def State.bufferTakes (s : State) (r : IopReg) (v : W32) : Option W32 :=
  match r with
  | .sp x .rx => s.iop.sport[x].rxInPlace.map fun law => expand law (v.setWidth 8)
  | _ => some v

/-- What a core load gets of a word of the buffer behind a register: the word itself, of TXx in its eight low bits what it is
compressed to where TXx compands in place, and nothing where it does not (62_link_serial_multiproc.md R745, R748). -/
def State.bufferGives (s : State) (r : IopReg) : Option (W32 → W32 → Prop) :=
  match r with
  | .sp x .tx => s.iop.sport[x].txInPlace.map fun law word got => got.extractLsb' 0 8 = compress law word
  | _ => some fun word got => got = word

/-- `t` with what a core store to register `r` draws: for TXx the interrupt of a transmitter that takes the word into its empty
shifter at once, without DMA (62_link_serial_multiproc.md R745, R750). -/
def State.drawn (s : State) (r : IopReg) (t : State) : State :=
  match r with
  | .sp x .tx =>
    let p := s.iop.sport[x]
    t.occurIf (s.iop.chan[txChan x].queue.isEmpty && p.txOn && !p.stctl.getLsbD 18) (chanIrq (txChan x))
  | _ => t

/-- The access of a core instruction to a register of the I/O processor, on the state `t` that holds what it did: a PM access
is noted in the instruction cache, MODE2.IIRAE reports the access in STKYx, and a DMA channel that a write starts is noted
(20_memory.md R186, 60_exceptions.md R613, 70_reset_and_hazards.md R802). -/
def State.IopAccessed (s t u : State) : Prop :=
  u = { t with
    seq := { t.seq with cache := u.seq.cache, cachedFaddr := u.seq.cachedFaddr }
    reg := { t.reg with stkyx := t.reg.stkyx ||| (if s.reg.mode2.getLsbD 20 then 0x80000 else 0) }
    recent := { t.recent with started := u.recent.started } }

/-- A DMA channel runs a single sequence, or the last one of a chain (61_io_devices.md R699, R700). -/
def State.lastBlock (s : State) (c : Fin 14) : Bool :=
  !(s.ctl c).chen || !(s.ctl c).den || s.iop.chan[c].cp.extractLsb' 0 18 == 0

/-- `u` is what the end of a block of channel `c` makes of the channel and the latches, if `ended`: the last block leaves the
channel inactive and requests its interrupt; another one asks for the next control block, and requests the interrupt if
`asks` (61_io_devices.md R699, R700). -/
def State.BlockEnded (s u : State) (c : Fin 14) (ended asks : Bool) : Prop :=
  u.iop.chan[c].active = (s.iop.chan[c].active && !(ended && s.lastBlock c)) ∧
  u.iop.chan[c].chainPending = (s.iop.chan[c].chainPending || (ended && !s.lastBlock c)) ∧
  (ended && (s.lastBlock c || asks) → s.inService (chanIrq c) = false → u.latched (chanIrq c) = true) ∧
  u.reg = { s.reg with irptl := u.reg.irptl, lirptl := u.reg.lirptl } ∧
  (!(ended && (s.lastBlock c || asks)) → u.reg = s.reg)

end Sys2Proof.Machine

namespace Sys2Proof
open Machine

/-- A register that holds just what a program writes to it: data and address registers, the halves of PX, the user status
registers, the timer's registers and MMASK (10_state.md R20). -/
def UReg.plain : UReg → Bool
  | .r _ | .s _ | .i _ | .m _ | .l _ | .b _ | .px1 | .px2 | .tperiod | .tcount => true
  | .sys .ustat1 | .sys .ustat2 | .sys .ustat3 | .sys .ustat4 | .sys .mmask => true
  | _ => false

/-- The memory move of an instruction of Types 3, 4, 6, 10, 14, 15 and 16, with its condition and the value the condition
must have for the move: true, but false for the move of Type 10 (40_compute_move.md R272, R273, R276; 41_program_flow.md
R314; 42_immediate_move.md R351 to R353); none for the other instructions. -/
def Instr.access? : Instr → Option (Cond × Bool × MemMove)
  | .uregMem post i m c g w lw u _ =>
      some (c, true, ⟨moveOp w u, g, addrMode post (dagNumber g i) (.reg (dagNumber g m)), lw⟩)
  | .dregMemImm i g w post c data d _ =>
      some (c, true, ⟨moveOp w (.r d), g, addrMode post (dagNumber g i) (.imm (data.signExtend 32)), false⟩)
  | .shiftImmMem i m c g w _ d _ _ _ _ =>
      some (c, true, ⟨moveOp w (.r d), g, .post (dagNumber g i) (.reg (dagNumber g m)), false⟩)
  | .jumpIndElse w i m c _ _ d _ =>
      some (c, false, ⟨moveOp w (.r d), false, .post (dagNumber false i) (.reg (dagNumber false m)), false⟩)
  | .jumpRelElse w i m c _ d _ =>
      some (c, false, ⟨moveOp w (.r d), false, .post (dagNumber false i) (.reg (dagNumber false m)), false⟩)
  | .uregAbs g w lw u a => some (.always, true, ⟨moveOp w u, g, .direct a, lw⟩)
  | .uregPre g i w lw u data => some (.always, true, ⟨moveOp w u, g, .pre (dagNumber g i) (.imm data), lw⟩)
  | .storeImm i m g data =>
      some (.always, true, ⟨.store (.imm data), g, .post (dagNumber g i) (.reg (dagNumber g m)), false⟩)
  | _ => none

/-- The memory moves of an instruction: the one of `Instr.access?`, or the two of Type 1 (40_compute_move.md R270). -/
def Instr.moves : Instr → List MemMove
  | .dualMove w1 i1 m1 d1 w2 i2 m2 d2 _ => [sideMove w1 false i1 m1 (.r d1), sideMove w2 true i2 m2 (.r d2)]
  | i => (i.access?.map fun a => a.2.2).toList

/-- A store. -/
def Machine.MemMove.isStore (m : MemMove) : Bool :=
  match m.op with
  | .store _ => true
  | .load _ => false

/-- The instructions that store to memory. -/
def Instr.stores (i : Instr) : Bool := i.moves.any MemMove.isStore

/-- What the processing element does beside such a move: the compute operation or the shift of the instruction. -/
def Instr.movePe : Instr → PeIn → PeOut
  | .dualMove _ _ _ _ _ _ _ _ k => computePe k
  | .uregMem _ _ _ _ _ _ _ _ k => computePe k
  | .dregMemImm _ _ _ _ _ _ _ k => computePe k
  | .shiftImmMem _ _ _ _ _ ex _ op data rn rx => shImmPe op ex data rn rx
  | .jumpIndElse _ _ _ _ _ _ _ k => computePe k
  | .jumpRelElse _ _ _ _ _ _ k => computePe k
  | _ => PeOut.none

/-- The compute of such an instruction is no dual add and subtract to one register (48_multifunction.md R562). -/
def Instr.noClash : Instr → Bool
  | .uregMem _ _ _ _ _ _ _ _ k => !k.dualClash
  | .dregMemImm _ _ _ _ _ _ _ k => !k.dualClash
  | .jumpIndElse _ _ _ _ _ _ _ k => !k.dualClash
  | .jumpRelElse _ _ _ _ _ _ k => !k.dualClash
  | _ => true

/-- A branch: its condition, (DB), ELSE, the compute operation, and for a JUMP (LA) and (CI), for RTS (LR). -/
structure Branch where
  cond : Cond
  db : Bool
  els : Bool
  k : Compute
  la : Bool
  ci : Bool
deriving DecidableEq, Repr

/-- The JUMP of an instruction of Types 8, 9 and 10; a JUMP of Type 10 has no compute (41_program_flow.md R310, R312 to
R314). -/
def Instr.jump? : Instr → Option Branch
  | .jumpAbs la c db ci _ => some ⟨c, db, false, .none, la, ci⟩
  | .jumpRel la c db ci _ => some ⟨c, db, false, .none, la, ci⟩
  | .jumpInd la c _ _ db els ci k => some ⟨c, db, els, k, la, ci⟩
  | .jumpRel6 la c _ db els ci k => some ⟨c, db, els, k, la, ci⟩
  | .jumpIndElse _ _ _ c _ _ _ _ => some ⟨c, false, false, .none, false, false⟩
  | .jumpRelElse _ _ _ c _ _ _ => some ⟨c, false, false, .none, false, false⟩
  | _ => none

/-- The CALL of an instruction of Types 8 and 9 (41_program_flow.md R311, R312, R313). -/
def Instr.call? : Instr → Option Branch
  | .callAbs c db _ => some ⟨c, db, false, .none, false, false⟩
  | .callRel c db _ => some ⟨c, db, false, .none, false, false⟩
  | .callInd c _ _ db els k => some ⟨c, db, els, k, false, false⟩
  | .callRel6 c _ db els k => some ⟨c, db, els, k, false, false⟩
  | _ => none

/-- A branch of Types 8, 9 and 11, which goes on to the next instruction when its condition is false. -/
def Instr.branch? : Instr → Option Branch
  | .jumpIndElse _ _ _ _ _ _ _ _ => none
  | .jumpRelElse _ _ _ _ _ _ _ => none
  | .rts c db els _ k => some ⟨c, db, els, k, false, false⟩
  | .rti c db els k => some ⟨c, db, els, k, false, false⟩
  | i => i.jump?.or i.call?

/-- The target of a JUMP or CALL (41_program_flow.md R301). -/
def Instr.target (s : State) : Instr → W24
  | .jumpAbs _ _ _ _ a => a
  | .callAbs _ _ a => a
  | .jumpRel _ _ _ _ rel => s.seq.pc + rel
  | .callRel _ _ rel => s.seq.pc + rel
  | .jumpRel6 _ _ rel _ _ _ _ => s.seq.pc + rel.signExtend 24
  | .callRel6 _ rel _ _ _ => s.seq.pc + rel.signExtend 24
  | .jumpRelElse _ _ _ _ rel _ _ => s.seq.pc + rel.signExtend 24
  | .jumpInd _ _ i m _ _ _ _ => (s.dagReg .i (dagNumber true i) + s.dagReg .m (dagNumber true m)).setWidth 24
  | .callInd _ i m _ _ _ => (s.dagReg .i (dagNumber true i) + s.dagReg .m (dagNumber true m)).setWidth 24
  | .jumpIndElse _ _ _ _ i m _ _ => (s.dagReg .i (dagNumber true i) + s.dagReg .m (dagNumber true m)).setWidth 24
  | _ => 0

/-- What a Type 20 word asks for: the loop stacks, the status stack, the PC stack, and the cache flush. -/
structure StackAsk where
  loop : Bool
  sts : Bool
  pc : Bool
  flush : Bool
deriving DecidableEq, Repr

/-- The pushes of a Type 20 word (43_misc.md R375). -/
def Instr.push? : Instr → Option StackAsk
  | .pushLoop sts pc flush => some ⟨true, sts, pc, flush⟩
  | .pushSts pc flush => some ⟨false, true, pc, flush⟩
  | .pushPc flush => some ⟨false, false, true, flush⟩
  | _ => none

/-- The pops of a Type 20 word (43_misc.md R375). -/
def Instr.pop? : Instr → Option StackAsk
  | .popLoop sts pc flush => some ⟨true, sts, pc, flush⟩
  | .popSts pc flush => some ⟨false, true, pc, flush⟩
  | .popPc flush => some ⟨false, false, true, flush⟩
  | _ => none

/-- The termination and the distance of the loop a DO UNTIL sets up, and for the two forms of Type 12 the value LCNTR is set
to (41_program_flow.md R320, R321). -/
def Instr.loop? (s : State) : Instr → Option (Cond × W24 × Option W32)
  | .doImm n rel => some (.lce, rel, some (n.setWidth 32))
  | .doUreg u rel => some (.lce, rel, some ((s.read40 u).extractLsb' 8 32))
  | .doUntil c rel => some (c, rel, none)
  | _ => none

/-! ### Compute operations -/

/-- A fixed-point addition or subtraction: its destination, the exact sum, and the carry out of the 32-bit adder
(44_alu_fixed.md R401, R407 to R410, R412 to R416). -/
def Instr.sum? (c : PeIn) : Instr → Option (Reg × Int × Prop)
  | .add n x y => some (n, (c.fix x).toInt + (c.fix y).toInt, 2 ^ 32 ≤ (c.fix x).toNat + (c.fix y).toNat)
  | .sub n x y => some (n, (c.fix x).toInt - (c.fix y).toInt, (c.fix y).toNat ≤ (c.fix x).toNat)
  | .addCi n x y =>
      some (n, (c.fix x).toInt + (c.fix y).toInt + ci, 2 ^ 32 ≤ (c.fix x).toNat + (c.fix y).toNat + ci)
  | .subCi n x y => some (n, (c.fix x).toInt - (c.fix y).toInt + ci - 1, (c.fix y).toNat + 1 ≤ (c.fix x).toNat + ci)
  | .plusCi n x => some (n, (c.fix x).toInt + ci, 2 ^ 32 ≤ (c.fix x).toNat + ci)
  | .plusCiM1 n x => some (n, (c.fix x).toInt + ci - 1, 1 ≤ (c.fix x).toNat + ci)
  | .inc n x => some (n, (c.fix x).toInt + 1, 2 ^ 32 ≤ (c.fix x).toNat + 1)
  | .dec n x => some (n, (c.fix x).toInt - 1, 1 ≤ (c.fix x).toNat)
  | .neg n x => some (n, -(c.fix x).toInt, (c.fix x).toNat = 0)
  | _ => none
where
  /-- the carry in -/
  ci : Nat := (carryIn c.astat).toNat

/-- The average of two fixed-point numbers, `r` of the exact sum `t`: the half, of an odd sum the even neighbour, or in
truncation a neighbour that is below for a positive sum (44_alu_fixed.md R411, OPEN-1). -/
def IsAverage (mode1 : W32) (t r : Int) : Prop :=
  (t % 2 = 0 → 2 * r = t) ∧ (t % 2 ≠ 0 → 2 * r = t - 1 ∨ 2 * r = t + 1) ∧
  (t % 2 ≠ 0 → trunc mode1 = false → r % 2 = 0) ∧ (t % 2 ≠ 0 → trunc mode1 = true → 0 < t → 2 * r = t - 1)

/-- A fixed-point operation that cannot overflow: its destination and its 32-bit result (44_alu_fixed.md R418 to R425). -/
def Instr.logic? (c : PeIn) : Instr → Option (Reg × W32)
  | .pass n x => some (n, c.fix x)
  | .and n x y => some (n, c.fix x &&& c.fix y)
  | .or n x y => some (n, c.fix x ||| c.fix y)
  | .xor n x y => some (n, c.fix x ^^^ c.fix y)
  | .not n x => some (n, ~~~c.fix x)
  | .min n x y => some (n, if (c.fix x).toInt ≤ (c.fix y).toInt then c.fix x else c.fix y)
  | .max n x y => some (n, if (c.fix x).toInt ≤ (c.fix y).toInt then c.fix y else c.fix x)
  | .clip n x y =>
      some (n, if (c.fix x).toInt.natAbs < (c.fix y).toInt.natAbs then c.fix x
        else BitVec.ofInt 32 (if (c.fix x).toInt < 0 then -((c.fix y).toInt.natAbs : Int) else (c.fix y).toInt.natAbs))
  | _ => none

/-- A product that MRF or MRB takes: the register, the format, and the exact value (46_multiplier.md R492, R499 to R508). -/
def Instr.mac? (c : PeIn) : Instr → Option (Mr × MulMod × Int)
  | .mulMrf m x y => some (.f, m, prod m x y)
  | .mulMrb m x y => some (.b, m, prod m x y)
  | .mrfPlus m x y => some (.f, m, (c.mr .f).toInt + prod m x y)
  | .mrbPlus m x y => some (.b, m, (c.mr .b).toInt + prod m x y)
  | .mrfMinus m x y => some (.f, m, (c.mr .f).toInt - prod m x y)
  | .mrbMinus m x y => some (.b, m, (c.mr .b).toInt - prod m x y)
  | _ => none
where
  /-- an operand as an integer -/
  operand (signed : Bool) (n : Reg) : Int := if signed then (c.fix n).toInt else ((c.fix n).toNat : Int)
  /-- the exact product, doubled for two signed fractions -/
  prod (m : MulMod) (x y : Reg) : Int :=
    (if m.frac ∧ m.xSigned ∧ m.ySigned then 2 else 1) * (operand m.xSigned x * operand m.ySigned y)

/-- A conversion to fixed point: the operation with its scale and how it rounds (45_alu_float.md R458). -/
def fixOps (c : PeIn) (n x y : Reg) : List (Compute × Int × FixRound) :=
  [(.aluUn .fix n x, 0, fixRound c.mode1), (.aluBin .fixBy n x y, (c.fix y).toInt, fixRound c.mode1),
    (.aluUn .trunc n x, 0, .toZero), (.aluBin .truncBy n x y, (c.fix y).toInt, .toZero)]

/-- The value that a fixed-point multiplier operation takes from MRF or MRB with its product: alone, added, subtracted
(46_multiplier.md R498 to R508). -/
def Accum.value (c : PeIn) (a : Accum) (m : MulMod) (x y : Reg) : Int :=
  match a with
  | .none => Instr.mac?.prod c m x y
  | .plus k => (c.mr k).toInt + Instr.mac?.prod c m x y
  | .minus k => (c.mr k).toInt - Instr.mac?.prod c m x y

/-- A shift: its destination, the operand as an integer (unsigned for LSHIFT, signed for ASHIFT), the shift count and what
the shifted value is ORed with (47_shifter.md R531, R534 to R537). -/
def Instr.shift? (c : PeIn) : Instr → Option (Reg × Int × Int × W32)
  | .lshift n x y => some (n, (c.fix x).toNat, (c.fix y).toInt, 0)
  | .orLshift n x y => some (n, (c.fix x).toNat, (c.fix y).toInt, c.fix n)
  | .ashift n x y => some (n, (c.fix x).toInt, (c.fix y).toInt, 0)
  | .orAshift n x y => some (n, (c.fix x).toInt, (c.fix y).toInt, c.fix n)
  | .shiftImm .always _ (.bin .lshift) d n x => some (n, (c.fix x).toNat, d.toInt, 0)
  | .shiftImm .always _ (.bin .orLshift) d n x => some (n, (c.fix x).toNat, d.toInt, c.fix n)
  | .shiftImm .always _ (.bin .ashift) d n x => some (n, (c.fix x).toInt, d.toInt, 0)
  | .shiftImm .always _ (.bin .orAshift) d n x => some (n, (c.fix x).toInt, d.toInt, c.fix n)
  | _ => none

/-- The Y operand of a shifter operation in a register: as a count, and as the place and the length of a field
(47_shifter.md R531 (a)). -/
def Machine.PeIn.shiftBy (c : PeIn) (y : Reg) : Int × Nat × Nat :=
  ((c.fix y).toInt, (c.fix y).toNat % 64, (c.fix y).toNat / 64 % 64)

/-- A rotation, or an operation on a bit or a field, in its register form or its immediate one: the operation, its destination,
its operand, and the Y operand as a count and as the place and the length of a field (47_shifter.md R531). -/
def Instr.shifter? (c : PeIn) : Instr → Option (ShImm × Reg × Reg × Int × Nat × Nat)
  | .rot n x y => some (.bin .rot, n, x, c.shiftBy y)
  | .bclr n x y => some (.bin .bclr, n, x, c.shiftBy y)
  | .bset n x y => some (.bin .bset, n, x, c.shiftBy y)
  | .btgl n x y => some (.bin .btgl, n, x, c.shiftBy y)
  | .btst x y => some (.btst, x, x, c.shiftBy y)
  | .fdep n x y => some (.bin .fdep, n, x, c.shiftBy y)
  | .orFdep n x y => some (.bin .orFdep, n, x, c.shiftBy y)
  | .fdepSe n x y => some (.bin .fdepSe, n, x, c.shiftBy y)
  | .orFdepSe n x y => some (.bin .orFdepSe, n, x, c.shiftBy y)
  | .fext n x y => some (.bin .fext, n, x, c.shiftBy y)
  | .fextSe n x y => some (.bin .fextSe, n, x, c.shiftBy y)
  | .shiftImm .always ex op d n x => some (op, n, x, d.toInt, d.toNat % 64, ex.toNat * 4 + d.toNat / 64)
  | _ => none

/-- The multiplier operation and the ALU operation that a multifunction form combines (48_multifunction.md R576 to R600). -/
def Compute.parts : Compute → Option (Compute × Compute)
  | .mfFix m a q =>
      some (match m with
        | .rm => .mulRn .none (ssf true) q.rm q.xm q.ym
        | .mrfPlus => .mulMr .f .plus (ssf false) q.xm q.ym
        | .rmPlus => .mulRn (.plus .f) (ssf true) q.rm q.xm q.ym
        | .mrfMinus => .mulMr .f .minus (ssf false) q.xm q.ym
        | .rmMinus => .mulRn (.minus .f) (ssf true) q.rm q.xm q.ym,
        match a with
        | .add => .aluBin .add q.ra q.xa q.ya
        | .sub => .aluBin .sub q.ra q.xa q.ya
        | .avg => .aluBin .avg q.ra q.xa q.ya)
  | .mfFlt a q =>
      some (.mulF q.rm q.xm q.ym,
        match a with
        | .add => .aluBin .fadd q.ra q.xa q.ya
        | .sub => .aluBin .fsub q.ra q.xa q.ya
        | .float => .aluBin .floatBy q.ra q.xa q.ya
        | .fix => .aluBin .fixBy q.ra q.xa q.ya
        | .avg => .aluBin .favg q.ra q.xa q.ya
        | .abs => .aluUn .fabs q.ra q.xa
        | .max => .aluBin .fmax q.ra q.xa q.ya
        | .min => .aluBin .fmin q.ra q.xa q.ya)
  | .mfDualFix rs q => some (.mulRn .none (ssf true) q.rm q.xm q.ym, .dualFix rs q.ra q.xa q.ya)
  | .mfDualFlt rs q => some (.mulF q.rm q.xm q.ym, .dualFlt rs q.ra q.xa q.ya)
  | _ => Option.none

/-- The ASTAT bits an operation may write: those of the unit it runs on, and CACC for a comparison (10_state.md R37). -/
def Compute.astatMask : Compute → W32
  | .none => 0
  | .aluBin _ _ _ _ => aluMask
  | .aluUn _ _ _ => aluMask
  | .aluCmp _ _ _ => aluMask ||| 0xFF000000
  | .mulRn _ _ _ _ _ => mulMask
  | .mulMr _ _ _ _ _ => mulMask
  | .satRn _ _ _ => mulMask
  | .satMr _ _ => mulMask
  | .rndRn _ _ _ => mulMask
  | .rndMr _ _ => mulMask
  | .clrMr _ => 0
  | .mulF _ _ _ => mulMask
  | .mrToReg _ _ => mulMask
  | .regToMr _ _ => mulMask
  | .shBin _ _ _ _ => shfMask
  | .shUn _ _ _ => shfMask
  | .btst _ _ => shfMask
  | .dualFix _ _ _ _ => aluMask
  | .dualFlt _ _ _ _ => aluMask
  | .mfFix _ _ _ => aluMask ||| mulMask
  | .mfFlt _ _ => aluMask ||| mulMask
  | .mfDualFix _ _ => aluMask ||| mulMask
  | .mfDualFlt _ _ => aluMask ||| mulMask

/-- The multiplier result register an operation writes, if any. -/
def Compute.mrDest : Compute → Option Mr
  | .mulMr d _ _ _ _ => some d
  | .satMr d _ => some d
  | .rndMr d _ => some d
  | .clrMr d => some d
  | .regToMr p _ => some p.home
  | .mfFix .mrfPlus _ _ => some .f
  | .mfFix .mrfMinus _ _ => some .f
  | _ => Option.none

end Sys2Proof
end

