-- ==== Sys2Proof/Certificates/Slice0/Obligations.lean ====
section
/-!
DEFINITION. Certificates/Slice0/Obligations.lean: the statements about the model for the provers.
-/
open Sys2Proof Sys2Proof.Machine

/-! ### Encoding -/

/-- Every well-formed instruction is what its own word decodes to, and what the decoder answers is well-formed
(30_encoding.md R200 to R253). -/
def Obligations.EncodeDecode : Prop :=
  (∀ i : Instr, i.WellFormed = true → decode (encode i) = .ok i) ∧
  (∀ (w : W48) (i : Instr), decode w = .ok i → i.WellFormed = true)

/-- Words that the spec writes out decode to the instruction they stand for: vectors V1, V5, V50 and V63 of
95_test_vectors.md, 42_immediate_move.md R355, 43_misc.md R390, 46_multiplier.md R523, 47_shifter.md R557, 48_multifunction.md
R564. -/
def Obligations.SpecWords : Prop :=
  decode 0x30EAFA2C0760#48 = .ok (.dualMove true 0 3 5 true 3 7 4 (.shBin .bset 7 6 0)) ∧
  decode 0x010000001201#48 = .ok (.condCompute (.is .eq) (.aluBin .add 2 0 1)) ∧
  decode 0x0748000000A4#48 = .ok (.jumpRel true (.is .av) false false 0xA4) ∧
  decode 0x0C0064000020#48 = .ok (.doImm 100 0x20) ∧
  decode 0xAB0200000018#48 = .ok (.uregPre false 5 true false (.r 2) 24) ∧
  decode 0x0F0112345678#48 = .ok (.loadImm (.r 1) 0x12345678) ∧
  decode 0x140400000070#48 = .ok (.bitSet .mode2 0x70) ∧
  decode 0x17A000000000#48 = .ok (.pushLoop true false false) ∧
  decode 0x013E00130012#48 = .ok (.mulF 0 1 2) ∧
  decode 0x023E08100831#48 = .ok (.shiftImm .always 1 (.bin .fext) 8 3 1) ∧
  decode 0x013E00490800#48 = .ok (.mfMrfPlusSub ⟨0, 8, 0, 0, 0, 0⟩)

/-! ### A step -/

/-- A core step fetches the word at PC, decodes it and runs the instruction; a completed one ends with `finish`, which
records its fetch, samples the pins, ticks the timer and examines the level sources. A word that no table assigns stops the
machine. The word comes from the cache, from internal or from external memory (41_program_flow.md R300, 60_exceptions.md R602,
R620). The MODEL's choices: an instruction that waits leaves the state as it is but for the note that it waits, so that its
step can be tried again (log 20; 92_eei_decisions.md D48 says only that it is not enabled); and the word of an external
fetch is the one that the model's own memory holds (log 10). -/
def Obligations.StepRunsDecoded : Prop :=
  ∀ (s : State) (w : W48),
    s.pins.id ≠ 7 → s.iop.resetPending = false → s.inputs = [] → s.seq.idle = false →
    (s.seq.waiting = true ∨ s.seq.dbSlots ≠ 0 ∨ s.recent.pcstkp = true ∨ s.recognised = none) →
    (s.seq.cachedPc = some w ∨
      s.seq.cachedPc = none ∧ ∃ k, fetchKey s.seq.pc = some k ∧ w = BitVec.ofNat 48 (s.mem.load k 6) ∧
        (s.seq.pc.getLsbD 23 = true →
          s.busMine = true ∧ bankOk s.iop.syscon s.iop.wait (s.seq.pc.setWidth 32) true = true)) →
    (∀ i, decode w = .ok i →
      step s =
        match exec i s with
        | .next t => if t.freeIdx = s.freeIdx then .next t.wait else .next (s.finish (s.noteFetch t))
        | .fault f => .fault f
        | .refused r => .refused r) ∧
    (∀ e, decode w = .error e → step s = .fault .illegalInstruction)

/-- What the end of a core step leaves alone: the processing elements, the address registers, memory, the sequencer but for
what the interrupt recognition keeps, every system register but the latches, FLAGS, the timer's count and the clock counters,
and of the I/O processor all but PC_SHDW; an external fetch may set ELAST (60_exceptions.md R603, R620, R640). The MODEL's choices:
PC_SHDW holds the PC of this very step (log 41; 10_state.md R106 says only that it may lag), and a fetch counts as the access
that ELAST notes (log 30). -/
def Obligations.FinishFrame : Prop :=
  ∀ s t : State,
    let u := s.finish (s.noteFetch t)
    u.x = t.x ∧ u.y = t.y ∧ u.dag = t.dag ∧ u.dagAlt = t.dagAlt ∧ u.mem = t.mem ∧ u.changed = t.changed ∧
    u.inputs = t.inputs ∧ u.seq = { t.seq with prevSel := s.selected, waiting := false } ∧
    u.reg = { t.reg with
      irptl := u.reg.irptl, lirptl := u.reg.lirptl, flags := u.reg.flags, tcount := u.reg.tcount
      emuclk := u.reg.emuclk, emuclk2 := u.reg.emuclk2 } ∧
    u.reg.lirptl &&& ~~~0x3F#32 = t.reg.lirptl &&& ~~~0x3F#32 ∧
    u.iop = { t.iop with pcShdw := s.seq.pc, elast := u.iop.elast } ∧
    (s.fetchesOut = false → u.iop.elast = t.iop.elast)

/-- A recognised interrupt is entered in place of the instruction at PC, except between a delayed branch and its target,
right after a write of PCSTKP, while an instruction waits, in the decided exit of a one-instruction loop, and right after a change
of SYSCON.IIVT that moves its vector (60_exceptions.md R620, 70_reset_and_hazards.md R802). -/
def Obligations.StepEntersInterrupt : Prop :=
  ∀ (s : State) (k : Irq),
    s.pins.id ≠ 7 → s.iop.resetPending = false → s.inputs = [] → s.seq.dbSlots = 0 → s.seq.waiting = false →
    s.recent.pcstkp = false →
    s.recognised = some k → ¬ (s.seq.daddr = s.seq.pc ∧ s.seq.faddr = s.seq.pc + 1) →
    ¬ (k ≠ .virpti ∧ s.pins.boot = .noboot ∧ s.recent.syscon.getLsbD 2 = true) →
    ∃ u, step s = .next u ∧ u.seq.pc = s.vector k ∧ u.seq.daddr = s.vector k + 1 ∧ u.seq.faddr = s.vector k + 2 ∧
      u.seq.idle = false ∧ u.seq.prevKind = .entry ∧ u.x = s.x ∧ u.y = s.y ∧ u.mem = s.mem ∧
      (s.seq.pcstkp.toNat < 30 → u.seq.pcstkp = s.seq.pcstkp + 1 ∧ u.topPc = s.seq.pc)

/-- While the machine is idle and no interrupt is recognised, a core step changes nothing but FLAGS, the latches, the timer, the
clock counters and PC_SHDW, and for the sequencer what it notes of the step: the data and address registers, memory, every
other system register, the I/O processor and its buffers stay, and so do the pins but for the sampled flags (60_exceptions.md
R645). That PC_SHDW holds the PC of this step is the MODEL's choice (log 41). -/
def Obligations.IdleStays : Prop :=
  ∀ s : State,
    s.pins.id ≠ 7 → s.iop.resetPending = false → s.inputs = [] → s.seq.idle = true → s.recognised = none →
    ∃ u, step s = .next u ∧ u.seq = { s.seq with prevKind := .idle, prevSel := s.selected, waiting := false } ∧
      s.SameData u ∧ s.SameAddresses u ∧ u.mem = s.mem ∧ u.inputs = s.inputs ∧ u.stackBits = s.stackBits ∧
      u.shadow1 = s.shadow1 ∧ u.shadow2 = s.shadow2 ∧
      u.reg = { s.reg with
        irptl := u.reg.irptl, lirptl := u.reg.lirptl, flags := u.reg.flags, tcount := u.reg.tcount
        emuclk := u.reg.emuclk, emuclk2 := u.reg.emuclk2 } ∧
      u.reg.lirptl &&& ~~~0x3F#32 = s.reg.lirptl &&& ~~~0x3F#32 ∧
      u.iop = { s.iop with pcShdw := s.seq.pc } ∧ u.pins = { s.pins with flagSync := s.pins.flagIn }

/-! ### Invariants -/

/-- Every step from a well-formed state leads to a well-formed state: memory in canonical form, the stacks and the cache
within their sizes, RSTI and EMUI enabled, the reserved bits of MODE1 zero (10_state.md R30 to R34, R40, R45). -/
def Obligations.StepKeepsWf : Prop := ∀ s t : State, s.Wf → step s = .next t → t.Wf

/-- The state after reset meets both invariants. -/
def Obligations.ResetInvariants : Prop := State.reset.Wf ∧ State.reset.LatchesHeld

/-- Every step leads to a state that holds the latches of the interrupts in service down, while nesting is off
(60_exceptions.md R603). -/
def Obligations.StepKeepsLatchesHeld : Prop := ∀ s t : State, s.LatchesHeld → step s = .next t → t.LatchesHeld

/-- What happens outside the core between two core steps, reset apart, leaves the program's own state alone: the registers of
both elements, the address registers, the stacks, the flow window, and every system register but the latches, TCOUNT and the
clock counters (61_io_devices.md R722, 00_scope.md R16). -/
def Obligations.EventsLeaveCore : Prop :=
  ∀ (s t : State) (e : Event) (rest : List Event),
    s.iop.resetPending = false → s.inputs = e :: rest → e ≠ .core → e ≠ .resetPin → step s = .next t →
    s.SameData t ∧ s.SameAddresses t ∧ t.inputs = rest ∧ t.seq = { s.seq with irqPrev := t.seq.irqPrev } ∧
    t.reg = { s.reg with
      irptl := t.reg.irptl, lirptl := t.reg.lirptl, tcount := t.reg.tcount, emuclk := t.reg.emuclk
      emuclk2 := t.reg.emuclk2 } ∧
    t.reg.lirptl &&& ~~~0x3F#32 = s.reg.lirptl &&& ~~~0x3F#32

/-! ### Reset -/

/-- What reset leaves: the registers with a reset value, empty stacks, an empty cache, and the first fetch of no-boot mode
(10_state.md R49, 70_reset_and_hazards.md R780, R782). The MODEL's choice of pins stands behind the values that depend on them
(log 3): one processor in no-boot mode, hence this first PC, and the identification field of MODE2 (R49 gives
0xnn000000). -/
def Obligations.ResetValues : Prop :=
  let s := State.reset
  s.seq.pc = 0x800004 ∧ s.seq.daddr = 0x800005 ∧ s.seq.faddr = 0x800006 ∧ s.seq.pcstkp = 0 ∧ s.seq.loopDepth = 0 ∧
  s.seq.statusStack = [] ∧ (∀ i : Fin 16, s.seq.cache[i] = []) ∧ s.seq.idle = false ∧ s.seq.dbSlots = 0 ∧
  s.reg.mode1 = 0 ∧ s.readSys .mode2 = 0x42000000 ∧ s.reg.mmask = 0x00200000 ∧ s.reg.astatx = 0 ∧ s.reg.astaty = 0 ∧
  s.reg.stkyx = 0x05400000 ∧ s.reg.stkyy = 0 ∧ s.readSys .irptl = 0 ∧ s.reg.imask = 3 ∧ s.reg.imaskp = 0 ∧
  s.reg.lirptl = 0 ∧ s.laddr = 0xFFFFFFFF ∧ s.curlcntr = 0xFFFFFFFF ∧
  s.iop.syscon = 0x00010010 ∧ s.iop.virpt = 0x00040014 ∧ s.iop.wait = 0x01CE739C ∧ s.iop.lar = 0x0002C688

/-- A software reset is the next step (decision D57 of 92_eei_decisions.md), and forces the whole state of a reset by the pin but
for memory (D56), the pins, the environment's queues, and the bus arbitration: SYSTAT's BSYN and CRBM, and BCNT
(70_reset_and_hazards.md R780, R781); that a host that is master and a bus time-out that has run out stay too is the MODEL's
choice (log 71). Registers that no rule gives a value are zero, the MODEL's choice (log 1). -/
def Obligations.SoftReset : Prop :=
  ∀ s : State, s.pins.id ≠ 7 → s.iop.resetPending = true →
    ∃ u, step s = .next u ∧ u.mem = s.mem ∧ u.seq = resetSequencer s.pins.boot ∧
      u.reg = resetMasks s.pins.boot (SysRegs.atReset s.pins.flagIn) ∧
      u.iop = resetBoot s.pins.boot { Iop.atReset s.iop.bsyn s.iop.crbm s.iop.bcnt with
        hstm := s.iop.hstm, yielding := s.iop.yielding } ∧
      u.x = ProcElem.zero ∧ u.y = ProcElem.zero ∧ u.dag = DagSet.zero ∧ u.dagAlt = DagSet.zero ∧
      u.changed = Changed.none ∧ u.recent = Recent.none ∧ u.stackBits = 0 ∧ u.shadow1 = [] ∧ u.shadow2 = [] ∧
      u.inputs = s.inputs ∧ u.outputs = s.outputs ∧ u.pins = { s.pins with flagSync := s.pins.flagIn }

/-! ### Interrupts -/

/-- Taking an interrupt: PC goes onto the PC stack, for IRQ2-0, the timer and VIRPT the status goes onto the status stack and
the MODE1 bits of the mask are cleared, the latch bit is cleared, the in-service bit set, and the window is at the
vector: four words for each interrupt from the table's base, or what VIRPT holds (60_exceptions.md R605, R606). With nesting
on, an entry of SOVFI that fills the PC stack to 29 entries or more is latched again (R612; that the latch is cleared before
the push is the MODEL's choice, log 59). -/
def Obligations.EnterInterrupt : Prop :=
  ∀ (s : State) (k : Irq) (mask : W32), s.seq.pcstkp.toNat < 30 → s.seq.statusStack.length < 15 →
    let u := s.enter k mask
    u.seq.pcstkp = s.seq.pcstkp + 1 ∧ u.topPc = s.seq.pc ∧
    u.seq.statusStack =
      (if k.pushes then ⟨s.reg.astatx, s.reg.astaty, s.reg.mode1⟩ :: s.seq.statusStack else s.seq.statusStack) ∧
    u.reg.mode1 = (if k.pushes then s.reg.mode1 &&& ~~~mask else s.reg.mode1) ∧
    u.latched k = (if k = .sovfi then nestm s.reg.mode1 && decide (28 ≤ s.seq.pcstkp.toNat) else false) ∧
    u.inService k = true ∧ (∀ j, j ≠ k → u.inService j = s.inService j) ∧
    (∀ j, j ≠ k → j ≠ .sovfi → u.latched j = s.latched j) ∧
    u.seq.pc = (if k = .virpti then s.iop.virpt.extractLsb' 0 24
      else (if s.pins.boot ≠ .noboot ∨ s.iop.syscon.getLsbD 2 = true then 0x040000#24 else 0x800000#24) +
        BitVec.ofNat 24 (4 * k.pos)) ∧
    u.seq.daddr = u.seq.pc + 1 ∧ u.seq.faddr = u.seq.pc + 2 ∧ u.seq.dbSlots = 0 ∧
    u.seq.idle = false ∧ u.seq.prevKind = .entry ∧ s.SameData u ∧ s.SameAddresses u ∧ u.mem = s.mem ∧ u.iop = s.iop

/-- A request is latched, except that with nesting off the interrupt in service latches nothing (60_exceptions.md R603); and the
selected interrupt is the latched, unmasked, admitted and enabled one of highest priority (R618). -/
def Obligations.OccurLatches : Prop :=
  (∀ (s : State) (k : Irq),
    (s.occur k).latched k = (s.latched k || !(s.inService k && !nestm s.reg.mode1)) ∧
    (∀ j, j ≠ k → (s.occur k).latched j = s.latched j) ∧ (∀ j, (s.occur k).inService j = s.inService j) ∧
    s.occur k = { s with reg := { s.reg with irptl := (s.occur k).reg.irptl, lirptl := (s.occur k).reg.lirptl } }) ∧
  (∀ (s : State) (m : Masks) (k : Irq), s.select m = some k →
    (s.latched k && m.unmasked k && s.nestOk m.mode1 k && s.globalOn m.mode1 k) = true ∧
    ∀ j, j.pos < k.pos → (s.latched j && m.unmasked j && s.nestOk m.mode1 j && s.globalOn m.mode1 j) = false)

/-- Entering an interrupt and returning from it gives back the return address, the stacks, the status and the in-service bits
(60_exceptions.md R605, R625, 41_program_flow.md R316). -/
def Obligations.EnterThenLeave : Prop :=
  ∀ (s : State) (k : Irq) (mask : W32), s.seq.stackOverflow = false → s.seq.pcstkp.toNat < 30 →
    s.seq.statusStack.length < 15 →
    (∀ j, j.pos ≤ k.pos → s.inService j = false) →
    ∃ u v, (s.enter k mask).topPc = s.seq.pc ∧ (s.enter k mask).popPc = .ok u ∧ u.leave = .ok v ∧
      v.seq.pcstkp = s.seq.pcstkp ∧ v.seq.statusStack = s.seq.statusStack ∧ v.reg.mode1 = s.reg.mode1 ∧
      v.reg.astatx = s.reg.astatx ∧ v.reg.astaty = s.reg.astaty ∧ (∀ j, v.inService j = s.inService j)

/-- IRPTL bit 14 reads as the summary of the link port interrupts that are latched and unmasked (60_exceptions.md R610). -/
def Obligations.LinkSummary : Prop :=
  ∀ s : State, (s.readSys .irptl).getLsbD 14 = true ↔
    ∃ n < 6, s.reg.lirptl.getLsbD n = true ∧ s.reg.lirptl.getLsbD (16 + n) = true

/-! ### Compute operations -/

/-- Every compute operation on its own completes: it runs in PEx, and in SIMD mode in PEy, on the registers as they were
before, and the flow goes on (40_compute_move.md R262, R271; 30_encoding.md R203). A dual add and subtract with one destination
stops, where nothing of the instruction before is in flight and the loop mechanism can do its work (48_multifunction.md
R562). -/
def Obligations.ComputeRowsComplete : Prop :=
  ∀ (i : Instr) (k : Compute) (s : State), i.compute? = some k →
    (k.dualClash = false → s.Steady →
      ∃ u, exec i s = .next u ∧ s.Advanced (s.runPes s.begun (computePe k) true s.simd) u) ∧
    (k.dualClash = true → s.Settled → (∃ t, s.begin = .ok t) → exec i s = .fault .dualAluSameDestination)

/-- A conditional compute and an immediate shift complete, and run in each element whose condition holds (40_compute_move.md
R262, R271, R276). NOT LCE cannot be tested in a loop of one or two instructions (41_program_flow.md R332). -/
def Obligations.ConditionalComputeCompletes : Prop :=
  ∀ (c : Cond) (s : State), s.Steady → (c = .lce → s.inShortLoop = false) →
    (∀ k : Compute, k.dualClash = false → ∃ u, exec (.condCompute c k) s = .next u ∧
      s.Advanced (s.runPes s.begun (computePe k) (s.cond false c) (s.simd && s.cond true c)) u) ∧
    (∀ (ex : BitVec 4) (op : ShImm) (data : BitVec 8) (rn rx : Reg), ∃ u, exec (.shiftImm c ex op data rn rx) s = .next u ∧
      s.Advanced (s.runPes s.begun (shImmPe op ex data rn rx) (s.cond false c) (s.simd && s.cond true c)) u)

/-- What a compute leaves alone: an element it does not run in; the data registers that are no destination, and the register
set not selected; the multiplier result registers it does not name; the ASTAT bits of other units; no sticky bit is cleared,
and nothing else of the state changes (40_compute_move.md R262, 44_alu_fixed.md R403, 46_multiplier.md R495, 47_shifter.md
R532). `t` is the state written to, `s` after the loop mechanism's own work. -/
def Obligations.ComputeFrame : Prop :=
  ∀ (k : Compute) (s t : State) (ex ey : Bool), t.x = s.x → t.y = s.y → t.reg = { s.reg with stkyx := t.reg.stkyx } →
    let u := s.runPes t (computePe k) ex ey
    u = { t with x := u.x, y := u.y, recent := u.recent
                 reg := { t.reg with astatx := u.reg.astatx, astaty := u.reg.astaty, stkyx := u.reg.stkyx, stkyy := u.reg.stkyy } } ∧
    (∀ y, (if y then ey else ex) = false → u.pe y = s.pe y ∧ u.astat y = s.astat y ∧ u.stky y = t.stky y) ∧
    (∀ y n, n ∉ k.dests → u.dreg y n = s.dreg y n) ∧
    (∀ y n, (if regSelect s.reg.mode1 n then (u.pe y).r[n.toNat]'n.isLt = (s.pe y).r[n.toNat]'n.isLt
      else (u.pe y).rAlt[n.toNat]'n.isLt = (s.pe y).rAlt[n.toNat]'n.isLt)) ∧
    (∀ y m, k.mrDest ≠ some m → (u.pe y).mr s.reg.mode1 m = (s.pe y).mr s.reg.mode1 m) ∧
    (∀ y, u.astat y &&& ~~~k.astatMask = s.astat y &&& ~~~k.astatMask) ∧
    (∀ y, u.stky y &&& t.stky y = t.stky y)

/-- Fixed-point additions and subtractions: the result is the exact sum modulo 2^32, or with ALUSAT the nearest 32-bit number
when the sum overflows; AZ and AN describe the result, AV and AC the sum before saturation; AS, AI and AF are cleared, and
AOS is set by an overflow (44_alu_fixed.md R401 to R403). In each element that the instruction runs in. -/
def Obligations.FixedSums : Prop :=
  ∀ (i : Instr) (s : State) (y : Bool) (n : Reg) (t : Int) (carry : Prop), s.Steady → (y = true → s.simd = true) →
    i.sum? (s.peIn y) = some (n, t, carry) →
    ∃ u, exec i s = .next u ∧
      ∃ r : W32,
        (if -2147483648 ≤ t ∧ t ≤ 2147483647 then r.toInt = t
          else if alusat s.reg.mode1 = true then r = (if 0 ≤ t then 0x7FFFFFFF else 0x80000000) else r = BitVec.ofInt 32 t) ∧
        u.dreg y n = r ++ 0#8 ∧
        ((u.astat y).getLsbD 0 = true ↔ r = 0) ∧
        ((u.astat y).getLsbD 1 = true ↔ ¬ (-2147483648 ≤ t ∧ t ≤ 2147483647)) ∧
        (u.astat y).getLsbD 2 = r.msb ∧ ((u.astat y).getLsbD 3 = true ↔ carry) ∧
        (u.astat y).getLsbD 4 = false ∧ (u.astat y).getLsbD 5 = false ∧ (u.astat y).getLsbD 10 = false ∧
        u.astat y &&& ~~~0x43F#32 = s.astat y &&& ~~~0x43F#32 ∧
        ((u.stky y).getLsbD 2 = true ↔ (s.stky y).getLsbD 2 = true ∨ ¬ (-2147483648 ≤ t ∧ t ≤ 2147483647))

/-- The logic operations, PASS, MIN, MAX and CLIP: the result, AZ and AN from it, the other ALU flags cleared, no sticky bit set
(44_alu_fixed.md R418 to R425). ABS: the magnitude, of the smallest number with ALUSAT the largest, AS the operand's sign, AV and
AOS on that overflow (R417). AVG: half of the exact sum, rounded, AC the carry of the addition (R411; which way truncation goes
for a negative odd sum is open, log 7). -/
def Obligations.FixedLogic : Prop :=
  (∀ (i : Instr) (s : State) (y : Bool) (n : Reg) (r : W32), s.Steady → (y = true → s.simd = true) →
    i.logic? (s.peIn y) = some (n, r) →
    ∃ u, exec i s = .next u ∧ u.dreg y n = r ++ 0#8 ∧
      u.astat y = (s.astat y &&& ~~~0x43F#32) ||| (if r = 0 then 1 else 0) ||| (if r.msb then 4 else 0) ∧
      u.stky y &&& ~~~stackStateBits = s.stky y &&& ~~~stackStateBits) ∧
  (∀ (n x : Reg) (s : State) (y : Bool), s.Steady → (y = true → s.simd = true) →
    let v := (s.peIn y).fix x
    ∃ u, ∃ r : W32, exec (.abs n x) s = .next u ∧ u.dreg y n = r ++ 0#8 ∧
      (if v.toInt = -2147483648 then r = (if alusat s.reg.mode1 then 0x7FFFFFFF else 0x80000000) else r.toInt = v.toInt.natAbs) ∧
      u.astat y = (s.astat y &&& ~~~0x43F#32) ||| (if r = 0 then 1 else 0) ||| (if v.toInt = -2147483648 then 2 else 0) |||
        (if v.msb then 16 else 0) ∧
      ((u.stky y).getLsbD 2 = true ↔ (s.stky y).getLsbD 2 = true ∨ v.toInt = -2147483648)) ∧
  (∀ (n x z : Reg) (s : State) (y : Bool), s.Steady → (y = true → s.simd = true) →
    let v := (s.peIn y).fix x
    let w := (s.peIn y).fix z
    ∃ u, ∃ r : W32, exec (.avg n x z) s = .next u ∧ u.dreg y n = r ++ 0#8 ∧ IsAverage s.reg.mode1 (v.toInt + w.toInt) r.toInt ∧
      u.astat y = (s.astat y &&& ~~~0x43F#32) ||| (if r = 0 then 1 else 0) ||| (if r.msb then 4 else 0) |||
        (if 2 ^ 32 ≤ v.toNat + w.toNat then 8 else 0) ∧
      u.stky y &&& ~~~stackStateBits = s.stky y &&& ~~~stackStateBits)

/-- COMP and COMPU: AZ for equal, AN for smaller, the other ALU flags cleared, CACC shifted right with "greater" at the top;
no data register changes (44_alu_fixed.md R406, R428). COMP of floating-point operands orders them by value, with AF set; a NAN
is neither smaller, equal nor greater, and sets AI and AIS (45_alu_float.md R450). -/
def Obligations.FixedCompare : Prop :=
  (∀ (x z : Reg) (s : State) (y unsigned : Bool), s.Steady → (y = true → s.simd = true) →
    let a : Int := if unsigned then ((s.peIn y).fix x).toNat else ((s.peIn y).fix x).toInt
    let b : Int := if unsigned then ((s.peIn y).fix z).toNat else ((s.peIn y).fix z).toInt
    ∃ u, exec (if unsigned then .compu x z else .comp x z) s = .next u ∧
      ((u.astat y).getLsbD 0 = true ↔ a = b) ∧ ((u.astat y).getLsbD 2 = true ↔ a < b) ∧
      ((u.astat y).getLsbD 31 = true ↔ b < a) ∧
      (∀ n, 24 ≤ n → n < 31 → (u.astat y).getLsbD n = (s.astat y).getLsbD (n + 1)) ∧
      u.astat y &&& 0x43A#32 = 0 ∧ u.astat y &&& 0x00FFFBC0#32 = s.astat y &&& 0x00FFFBC0#32 ∧
      (∀ n, u.dreg y n = s.dreg y n)) ∧
  (∀ (x z : Reg) (s : State) (y : Bool), s.Steady → (y = true → s.simd = true) →
    let a := inF s.reg.mode1 (s.dreg y x)
    let b := inF s.reg.mode1 (s.dreg y z)
    let nan := a = .nan ∨ b = .nan
    ∃ u, exec (.fcomp x z) s = .next u ∧
      ((u.astat y).getLsbD 0 = true ↔ ¬ nan ∧ a.rank = b.rank) ∧ ((u.astat y).getLsbD 2 = true ↔ ¬ nan ∧ a.rank < b.rank) ∧
      ((u.astat y).getLsbD 31 = true ↔ ¬ nan ∧ b.rank < a.rank) ∧ ((u.astat y).getLsbD 5 = true ↔ nan) ∧
      (∀ n, 24 ≤ n → n < 31 → (u.astat y).getLsbD n = (s.astat y).getLsbD (n + 1)) ∧
      u.astat y &&& 0x41A#32 = 0x400 ∧ u.astat y &&& 0x00FFFBC0#32 = s.astat y &&& 0x00FFFBC0#32 ∧
      ((u.stky y).getLsbD 5 = true ↔ (s.stky y).getLsbD 5 = true ∨ nan) ∧ (∀ n, u.dreg y n = s.dreg y n))

/-- Products into MRF and MRB without rounding: the exact product, alone or with the register, modulo 2^80; MN is its sign,
MV says that it does not fit its format, MU that a fraction is below its format, MI is cleared, and MOS is set with MV
(46_multiplier.md R492, R495, R499 to R508). -/
def Obligations.MacExact : Prop :=
  ∀ (i : Instr) (s : State) (y : Bool) (d : Mr) (m : MulMod) (p : Int), s.Steady → (y = true → s.simd = true) →
    i.mac? (s.peIn y) = some (d, m, p) → m.round = false →
    let v := BitVec.ofInt 80 p
    ∃ u, exec i s = .next u ∧ (u.pe y).mr s.reg.mode1 d = v ∧
      (u.astat y).getLsbD 6 = v.msb ∧
      ((u.astat y).getLsbD 7 = true ↔
        if m.xSigned ∨ m.ySigned then
          (if m.frac then v.toInt < -2 ^ 63 ∨ 2 ^ 63 ≤ v.toInt else v.toInt < -2 ^ 31 ∨ 2 ^ 31 ≤ v.toInt)
        else (if m.frac then 2 ^ 64 ≤ v.toNat else 2 ^ 32 ≤ v.toNat)) ∧
      ((u.astat y).getLsbD 8 = true ↔
        m.frac = true ∧ v.toNat % 2 ^ 32 ≠ 0 ∧
          (v.toNat < 2 ^ 32 ∨ (m.xSigned ∨ m.ySigned) ∧ -2 ^ 32 ≤ v.toInt ∧ v.toInt < 0)) ∧
      (u.astat y).getLsbD 9 = false ∧ u.astat y &&& ~~~0x3C0#32 = s.astat y &&& ~~~0x3C0#32 ∧
      ((u.stky y).getLsbD 6 = true ↔ (s.stky y).getLsbD 6 = true ∨ (u.astat y).getLsbD 7 = true)

/-- The other fixed-point results of the multiplier: products, alone or with MRF or MRB, into a data register, which takes bits 63 to
32 of a fraction and 31 to 0 of an integer; the rounded forms, whose low 32 bits are left open (OPEN-2, log 7); RND; SAT, which
brings a value into its format and clears MV; and the cleared register (46_multiplier.md R492 to R518). -/
def Obligations.ProductsToRegisters : Prop :=
  ∀ c : PeIn,
    let part := fun (frac : Bool) (r : W80) => (if frac then r.extractLsb' 32 32 else r.extractLsb' 0 32) ++ 0#8
    let leaves := fun (k : Compute) (ws : List (Reg × W40)) (mr : Option (Mr × W80)) (r : W80) (signed frac sat : Bool) =>
      (computePe k c).writes = ws ∧ (computePe k c).mr = mr ∧ MulFlagged c (computePe k c) r signed frac sat
    (∀ (a : Accum) (m : MulMod) (n x y : Reg), ∃ r : W80,
      (if m.round then RoundedMr (BitVec.ofInt 80 (a.value c m x y)) r else r = BitVec.ofInt 80 (a.value c m x y)) ∧
      leaves (.mulRn a m n x y) [(n, part m.frac r)] none r (m.xSigned || m.ySigned) m.frac false) ∧
    (∀ (d : Mr) (q : AccOp) (m : MulMod) (x y : Reg), ∃ r : W80,
      (let v := BitVec.ofInt 80 ((accOf d q).value c m x y)
       if m.round then RoundedMr v r else r = v) ∧
      leaves (.mulMr d q m x y) [] (some (d, r)) r (m.xSigned || m.ySigned) m.frac false) ∧
    (∀ (d : Mr) (signed : Bool) (n : Reg), ∃ r : W80, RoundedMr (c.mr d) r ∧
      leaves (.rndRn d signed n) [(n, part true r)] none r signed true false ∧
      leaves (.rndMr d signed) [] (some (d, r)) r signed true false) ∧
    (∀ (d : Mr) (m : SatMod) (n : Reg), ∃ r : W80,
      (let top : Int := 2 ^ ((if m.frac then 64 else 32) - if m.signed then 1 else 0)
       if m.signed then r.toInt = max (-top) (min (top - 1) (c.mr d).toInt) else (r.toNat : Int) = min (top - 1) (c.mr d).toNat) ∧
      leaves (.satRn d m n) [(n, part m.frac r)] none r m.signed m.frac true ∧
      leaves (.satMr d m) [] (some (d, r)) r m.signed m.frac true) ∧
    (∀ d : Mr, computePe (.clrMr d) c = { writes := [], mr := some (d, 0), astat := c.astat, stky := 0 })

/-- Transfers between the multiplier result registers and the data registers: MR2 is sign-extended on its way out, MR1 on
its way in up to bit 79, and the multiplier's flags are cleared (46_multiplier.md R520). -/
def Obligations.MrTransfers : Prop :=
  ∀ (p : MrPart) (k : Reg) (s : State) (y : Bool), s.Steady → (y = true → s.simd = true) →
    let v := (s.pe y).mr s.reg.mode1 p.home
    let w := (s.peIn y).fix k
    (∃ u, exec (.mrToReg p k) s = .next u ∧ u.astat y &&& 0x3C0#32 = 0 ∧
      u.dreg y k = (match p with
        | .mr0f | .mr0b => v.extractLsb' 0 32
        | .mr1f | .mr1b => v.extractLsb' 32 32
        | .mr2f | .mr2b => (v.extractLsb' 64 16).signExtend 32) ++ 0#8) ∧
    (∃ u, exec (.regToMr p k) s = .next u ∧ u.astat y &&& 0x3C0#32 = 0 ∧
      (match p with
        | .mr0f | .mr0b => (u.pe y).mr s.reg.mode1 p.home = v.extractLsb' 32 48 ++ w
        | .mr1f | .mr1b => ((u.pe y).mr s.reg.mode1 p.home).toInt = w.toInt * 2 ^ 32 + (v.extractLsb' 0 32).toNat
        | .mr2f | .mr2b => (u.pe y).mr s.reg.mode1 p.home = w.extractLsb' 0 16 ++ v.extractLsb' 0 64))

/-- LSHIFT and ASHIFT, alone or ORed with the destination, by a register or an 8-bit immediate: the operand times or divided
by the power of two, rounded down, modulo 2^32; SZ tests the shifted value, SV says that the count is positive, SS is
cleared (47_shifter.md R531, R534 to R537). ROT turns the operand round (R538). BCLR, BSET and BTGL change one bit, and BTST
tests it; no bit where the position is outside 0 to 31, which SV reports (R539 to R542); these too by a register or an 8-bit
immediate (40_compute_move.md R276). -/
def Obligations.ShiftExact : Prop :=
  (∀ (i : Instr) (s : State) (y : Bool) (n : Reg) (v c : Int) (z : W32), s.Steady → (y = true → s.simd = true) →
    i.shift? (s.peIn y) = some (n, v, c, z) →
    let r := BitVec.ofInt 32 (if 0 ≤ c then v * 2 ^ c.toNat else v / 2 ^ (-c).toNat)
    ∃ u, exec i s = .next u ∧ u.dreg y n = (z ||| r) ++ 0#8 ∧
      u.astat y = (s.astat y &&& ~~~0x3800#32) ||| (if 0 < c then 0x800 else 0) ||| (if r = 0 then 0x1000 else 0)) ∧
  (∀ (i : Instr) (op : ShImm) (n x : Reg) (c : Int) (bit6 len6 : Nat) (s : State) (y : Bool), s.Steady →
    (y = true → s.simd = true) → i.shifter? (s.peIn y) = some (op, n, x, c, bit6, len6) →
    let v := (s.peIn y).fix x
    let base := s.astat y &&& ~~~0x3800#32
    let off : W32 := if c < 0 ∨ 31 < c then 0x800 else 0
    (op = .bin .rot → ∃ u, ∃ r : W32, exec i s = .next u ∧ u.dreg y n = r ++ 0#8 ∧
      (∀ j : Nat, j < 32 → r.getLsbD j = v.getLsbD (((j : Int) - c) % 32).toNat) ∧
      u.astat y = base ||| (if r = 0 then 0x1000 else 0)) ∧
    (∀ f : Bool → Bool, (op = .bin .bclr ∧ f = fun _ => false) ∨ (op = .bin .bset ∧ f = fun _ => true) ∨ (op = .bin .btgl ∧ f = not) →
      ∃ u, ∃ r : W32, exec i s = .next u ∧ u.dreg y n = r ++ 0#8 ∧
        (∀ j : Nat, j < 32 → r.getLsbD j = if c = j then f (v.getLsbD j) else v.getLsbD j) ∧
        u.astat y = base ||| off ||| (if r = 0 then 0x1000 else 0)) ∧
    (op = .btst → ∃ u, exec i s = .next u ∧ (∀ k, u.dreg y k = s.dreg y k) ∧
      u.astat y = base ||| off ||| (if 0 ≤ c ∧ v.getLsbD c.toNat = true then 0 else 0x1000)))

/-- FDEP and FEXT move the field of `len6` bits at bit 0, or at bit `bit6`: bit by bit, and SV says that the field reaches
beyond bit 31; with (SE) the bits above repeat the field's top bit; with OR the result is ORed with the destination; SZ tests
the result. The place and the length come from a register, or from the immediate of Type 6 (47_shifter.md R531, R543 to
R548; 40_compute_move.md R276). -/
def Obligations.FieldBits : Prop :=
  ∀ (i : Instr) (op : ShImm) (n x : Reg) (c : Int) (bit6 len6 : Nat) (s : State) (y : Bool), s.Steady →
    (y = true → s.simd = true) → i.shifter? (s.peIn y) = some (op, n, x, c, bit6, len6) →
    let v := (s.peIn y).fix x
    let o := (s.peIn y).fix n
    let moved : Nat → Prop := fun j => bit6 ≤ j ∧ j < bit6 + len6 ∧ v.getLsbD (j - bit6) = true
    let filled : Nat → Prop := fun j => 0 < len6 ∧ bit6 + len6 ≤ j ∧ v.getLsbD (len6 - 1) = true
    let taken : Nat → Prop := fun j => j < len6 ∧ v.getLsbD (bit6 + j) = true
    let grown : Nat → Prop := fun j => 0 < len6 ∧ len6 ≤ j ∧ bit6 + len6 ≤ 32 ∧ v.getLsbD (bit6 + len6 - 1) = true
    ∀ p : Nat → Prop,
      (op = .bin .fdep ∧ p = moved) ∨ (op = .bin .orFdep ∧ p = fun j => o.getLsbD j = true ∨ moved j) ∨
      (op = .bin .fdepSe ∧ p = fun j => moved j ∨ filled j) ∨
      (op = .bin .orFdepSe ∧ p = fun j => o.getLsbD j = true ∨ moved j ∨ filled j) ∨
      (op = .bin .fext ∧ p = taken) ∨ (op = .bin .fextSe ∧ p = fun j => taken j ∨ grown j) →
      ∃ u, ∃ r : W32, exec i s = .next u ∧ u.dreg y n = r ++ 0#8 ∧ (∀ j, j < 32 → (r.getLsbD j = true ↔ p j)) ∧
        u.astat y = (s.astat y &&& ~~~0x3800#32) ||| (if 32 < len6 + bit6 then 0x800 else 0) ||| (if r = 0 then 0x1000 else 0)

/-- LEFTZ and LEFTO count the leading zeros and ones, and EXP is minus the number of leading sign bits but one, EXP (EX) 1 after
an ALU overflow (47_shifter.md R549 to R552). FPACK rounds an IEEE single-precision word to the 16-bit format, saturated at its
largest number with SV, and to a gradually denormalised number below its smallest exponent (R553); FUNPACK gives the word of a
16-bit number, a denormalised one normalised (R554). -/
def Obligations.LeadingBits : Prop :=
  (∀ (n x : Reg) (s : State) (y : Bool) (c : Nat) (b : Bool), s.Steady → (y = true → s.simd = true) →
    let v := (s.peIn y).fix x
    c ≤ 32 → (∀ j, j < c → v.getLsbD (31 - j) = b) → (c < 32 → v.getLsbD (31 - c) = !b) →
    (∃ u, exec (if b then .lefto n x else .leftz n x) s = .next u ∧ u.dreg y n = BitVec.ofNat 32 c ++ 0#8 ∧
      ((u.astat y).getLsbD 11 = true ↔ c = 32)) ∧
    (1 ≤ c → ∃ u, exec (.exp n x) s = .next u ∧ u.dreg y n = BitVec.ofInt 32 (1 - (c : Int)) ++ 0#8 ∧
      (u.astat y).getLsbD 13 = v.msb) ∧
    (1 ≤ c → ∃ u, exec (.expEx n x) s = .next u ∧
      u.dreg y n = (if (s.astat y).getLsbD 1 then 1#32 else BitVec.ofInt 32 (1 - (c : Int))) ++ 0#8 ∧
      (u.astat y).getLsbD 13 = (v.msb != (s.astat y).getLsbD 1))) ∧
  (∀ (n x : Reg) (s : State) (y : Bool), s.Steady → (y = true → s.simd = true) →
    let v := (s.peIn y).fix x
    let e := (v.extractLsb' 23 8).toNat
    let f := (v.extractLsb' 0 23).toNat
    ∃ u, ∃ m q : Nat, exec (.fpack n x) s = .next u ∧ u.dreg y n = 0#16 ++ BitVec.ofBool v.msb ++ BitVec.ofNat 15 q ++ 0#8 ∧
      IsRounded false (2 ^ 23 + f) (if 120 < e then 12 else 133 - e) m ∧
      let big := 135 < e ∨ 120 < e ∧ 32768 ≤ (e - 121) * 2048 + m
      q = (if big then 0x7FFF else if 120 < e then (e - 121) * 2048 + m else if 109 < e then m else 0) ∧
      u.astat y = (s.astat y &&& ~~~0x3800#32) ||| (if big then 0x800 else 0)) ∧
  (∀ (n x : Reg) (s : State) (y : Bool), s.Steady → (y = true → s.simd = true) →
    let v := (s.peIn y).fix x
    let e := (v.extractLsb' 11 4).toNat
    let f := (v.extractLsb' 0 11).toNat
    ∃ u, ∃ r : W32, exec (.funpack n x) s = .next u ∧ u.dreg y n = r ++ 0#8 ∧ r.msb = v.getLsbD 15 ∧
      u.astat y = s.astat y &&& ~~~0x3800#32 ∧
      let e1 := (r.extractLsb' 23 8).toNat
      let f1 := (r.extractLsb' 0 23).toNat
      (0 < e → e1 = 120 + e ∧ f1 = f * 2 ^ 12) ∧ (e = 0 → f = 0 → e1 = 0 ∧ f1 = 0) ∧
      (e = 0 → f ≠ 0 → 109 < e1 ∧ e1 ≤ 120 ∧ 2 ^ 23 + f1 = f * 2 ^ (133 - e1)))

/-- Floating-point sums and products: the exact value of the conditioned operands, rounded once to the precision that RND32
selects, in the mode that TRUNC selects, with overflow and underflow; ABS clears the sign, the average is half the sum. An exact
zero sum is negative only of two negative zeros; infinities stay, and opposite ones are invalid. A product of a zero and an
infinity is invalid (45_alu_float.md R441, R442, R444 to R449, 46_multiplier.md R519). -/
def Obligations.FloatSums : Prop :=
  ∀ (c : PeIn) (n x y : Reg),
    let a := inF c.mode1 (c.reg x)
    let b0 := inF c.mode1 (c.reg y)
    (∀ (op : AluBin) (minus half mag : Bool),
      (op, minus, half, mag) ∈ [(AluBin.fadd, false, false, false), (.fsub, true, false, false),
        (.fabsAdd, false, false, true), (.fabsSub, true, false, true), (.favg, false, true, false)] →
      let b := if minus then b0.neg else b0
      let t := a.rank + b.rank
      let o := computePe (.aluBin op n x y) c
      (a.finite = true → b.finite = true → t ≠ 0 → ∃ w v u,
        RoundedWord c.mode1 (precision c.mode1) (decide (t < 0) && !mag) t.natAbs (if half then -159 else -158) w v u ∧
        o = floatOut c n w u v (decide (t < 0) && !mag) false false u) ∧
      (a.finite = true → b.finite = true → t = 0 →
        let s := a.sign && b.sign && !mag
        o = floatOut c n (zeroWord s) true false s false false false) ∧
      (∀ s, (a = .inf s ∧ (b.finite = true ∨ b = .inf s)) ∨ (b = .inf s ∧ a.finite = true) →
        o = floatOut c n (infWord (s && !mag)) false false (s && !mag) false false false) ∧
      ((∃ s, a = .inf s ∧ b = .inf !s) ∨ a = .nan ∨ b = .nan → o = floatOut c n all1F false false (!mag) false true false)) ∧
    (let o := computePe (.mulF n x y) c
     let s := a.sign ^^ b0.sign
     (∀ s1 e1 m1 s2 e2 m2, a = .num s1 e1 m1 → b0 = .num s2 e2 m2 → ∃ w v u,
       RoundedWord c.mode1 (precision c.mode1) s (m1 * m2) (e1 + e2 - 316) w v u ∧ o = floatProduct c n w v u false) ∧
     (a.finite = true → b0.finite = true → a.rank = 0 ∨ b0.rank = 0 → o = floatProduct c n (zeroWord s) false false false) ∧
     (a ≠ .nan → b0 ≠ .nan → a.finite = false ∨ b0.finite = false → a.isZero = false → b0.isZero = false →
       o = floatProduct c n (infWord s) false false false) ∧
     ((a.finite = false ∧ b0.isZero = true) ∨ (b0.finite = false ∧ a.isZero = true) ∨ a = .nan ∨ b0 = .nan →
       o = floatProduct c n all1F false false true))

/-- Conversions. FIX and TRUNC, with a scale or without: the number as an integer, rounded to nearest, down or toward zero, with
AUS below one half and the overflow of what does not fit; FLOAT and SCALB round once; RND to 24 bits; MANT gives the significand,
LOGB the exponent (45_alu_float.md R454 to R459, R442). -/
def Obligations.FloatConversions : Prop :=
  ∀ (c : PeIn) (n x y : Reg),
    let a := inF c.mode1 (c.reg x)
    let neg := (c.reg x).msb
    let nan := floatOut c n all1F false false true false true false
    (∀ (k : Compute) (e0 : Int) (r : FixRound), (k, e0, r) ∈ fixOps c n x y →
      (a = .nan → computePe k c = nan) ∧
      (a.isZero = true → computePe k c = floatOut c n 0 true false false false false false) ∧
      (∀ s, a = .inf s → computePe k c = fixOver c n s) ∧
      (∀ s e m, a = .num s e m →
        let d := 158 - ((e : Int) + e0)
        (d ≤ 0 → computePe k c = fixOver c n s) ∧
        (0 < d → ∃ j : Int, IsFixed r s m d.toNat j ∧ computePe k c =
          if 2147483647 < j then fixOver c n s
          else floatOut c n (BitVec.ofInt 32 j ++ 0#8) (j == 0) false (decide (j < 0)) false false (decide (32 < d))))) ∧
    (∀ (k : Compute) (e0 : Int), (k, e0) ∈ [(Compute.aluUn .float n x, 0), (.aluBin .floatBy n x y, (c.fix y).toInt)] →
      let v := c.fix x
      (v = 0 → computePe k c = floatOut c n 0 true false false false false false) ∧
      (v ≠ 0 → ∃ w o u, RoundedWord c.mode1 32 v.msb v.toInt.natAbs e0 w o u ∧
        computePe k c = floatOut c n w u o v.msb false false u)) ∧
    (∀ (k : Compute), k = .aluBin .scalb n x y ∨ k = .aluUn .frnd n x →
      (a = .nan → computePe k c = nan) ∧
      (∀ s, a = .inf s → computePe k c = floatOut c n (infWord s) false false s false false false) ∧
      (∀ s, a = .zero s → computePe k c = floatOut c n (zeroWord s) true false s false false false)) ∧
    (∀ s e m, a = .num s e m →
      (∃ w o u, RoundedWord c.mode1 (precision c.mode1) s m ((e : Int) - 158 + (c.fix y).toInt) w o u ∧
        computePe (.aluBin .scalb n x y) c = floatOut c n w u o s false false u) ∧
      (∃ w o, RoundedWord c.mode1 24 s m ((e : Int) - 158) w o false ∧
        computePe (.aluUn .frnd n x) c = floatOut c n w false o s false false false)) ∧
    computePe (.aluUn .mant n x) c =
      (match a with
       | .nan => floatOut c n (0xFFFFFFFF#32 ++ 0#8) false false false neg true false
       | .inf _ => floatOut c n (0xFFFFFFFF#32 ++ 0#8) false true false neg false false
       | .zero _ => floatOut c n 0 true false false neg false false
       | .num _ _ m => floatOut c n (BitVec.ofNat 32 m ++ 0#8) false false false neg false false) ∧
    computePe (.aluUn .logb n x) c =
      (match a with
       | .nan => nan
       | .inf _ => floatOut c n (if alusat c.mode1 then 0x7FFFFFFF#32 ++ 0#8 else infWord false) false true false false false false
       | .zero _ => floatOut c n (if alusat c.mode1 then 0x80000000#32 ++ 0#8 else infWord true) false true true false false false
       | .num _ e _ => floatOut c n (BitVec.ofInt 32 ((e : Int) - 127) ++ 0#8) (e == 127) false (decide (e < 127)) false false false)

/-- The operations that pass a conditioned operand on, none a NAN: PASS, negation, ABS, COPYSIGN; MIN and MAX, with -Zero below
+Zero; CLIP. AZ for a zero, AN the sign of the result, for ABS AS the sign of the operand (45_alu_float.md R441, R444, R451 to
R453, R462 to R465). -/
def Obligations.FloatSelect : Prop :=
  ∀ (c : PeIn) (n x y : Reg),
    let a := condWord c.mode1 (c.reg x)
    let b := condWord c.mode1 (c.reg y)
    let gives := fun (k : Compute) (w : W40) (s : Bool) =>
      computePe k c = floatOut c n w (w.extractLsb' 0 39 == 0) false w.msb s false false
    (classify a ≠ .nan →
      gives (.aluUn .fpass n x) a false ∧ gives (.aluUn .fneg n x) (a ^^^ 0x8000000000) false ∧
      gives (.aluUn .fabs n x) (a &&& 0x7FFFFFFFFF) (c.reg x).msb) ∧
    (classify a ≠ .nan → classify b ≠ .nan →
      gives (.aluBin .copysign n x y) ((a &&& 0x7FFFFFFFFF) ||| (b &&& 0x8000000000)) false ∧
      (∃ w, gives (.aluBin .fmin n x y) w false ∧ (w = a ∨ w = b) ∧ (classify w).rank ≤ (classify a).rank ∧
        (classify w).rank ≤ (classify b).rank ∧ ((classify a).rank = (classify b).rank → w.msb = (a.msb || b.msb))) ∧
      (∃ w, gives (.aluBin .fmax n x y) w false ∧ (w = a ∨ w = b) ∧ (classify a).rank ≤ (classify w).rank ∧
        (classify b).rank ≤ (classify w).rank ∧ ((classify a).rank = (classify b).rank → w.msb = (a.msb && b.msb))) ∧
      gives (.aluBin .fclip n x y)
        (if (classify a).rank.natAbs < (classify b).rank.natAbs then a else (b &&& 0x7FFFFFFFFF) ||| (a &&& 0x8000000000)) false)

/-- A NAN operand of a floating-point operation with a floating-point result gives the word of all ones, AI and the sticky
AIS; a product gives MI and MIS (45_alu_float.md R443, 46_multiplier.md R519). -/
def Obligations.NanResult : Prop :=
  ∀ (s : State) (y : Bool) (n a b : Reg), s.Steady → (y = true → s.simd = true) →
    let isNan := fun k => classify (condWord s.reg.mode1 (s.dreg y k)) = .nan
    let gives := fun i : Instr => ∃ u, exec i s = .next u ∧ u.dreg y n = 0xFFFFFFFFFF ∧
      (u.astat y).getLsbD 5 = true ∧ (u.stky y).getLsbD 5 = true
    (isNan a ∨ isNan b →
      (∀ op ∈ ([.fadd, .fsub, .fabsAdd, .fabsSub, .favg, .copysign, .fmin, .fmax, .fclip] : List AluBin),
        gives (.ofCompute (.aluBin op n a b))) ∧
      (∃ u, exec (.mulF n a b) s = .next u ∧ u.dreg y n = 0xFFFFFFFFFF ∧ (u.astat y).getLsbD 9 = true ∧
        (u.stky y).getLsbD 9 = true)) ∧
    (isNan a →
      (∀ op ∈ ([.fneg, .fabs, .fpass, .frnd, .recips, .rsqrts] : List AluUn), gives (.ofCompute (.aluUn op n a))) ∧
      gives (.scalb n a b))

/-- The seeds are accurate for every operand with a finite result, whatever the seed tables hold. RECIPS to eight bits: the
seed's significand times the operand's is within 2^-8 of one (45_alu_float.md R460). RSQRTS to four: the square of the seed's
significand times the operand's is within the squares of 1 - 2^-4 and 1 + 2^-4 (R461). The MODEL's choices (log 6): this reading
of an accuracy in bits (R460 calls its own bound the reading taken), and that a table entry which is not accurate is
replaced by one that is. -/
def Obligations.RecipsAccuracy : Prop :=
  ∀ (s : State) (y : Bool) (n a : Reg), s.Steady → (y = true → s.simd = true) →
    let v := condWord s.reg.mode1 (s.dreg y a)
    let e := (v.extractLsb' 31 8).toNat
    let m := 2 ^ 31 + (v.extractLsb' 0 31).toNat
    (1 ≤ e → e < 253 →
      ∃ u, exec (.recips n a) s = .next u ∧ (u.dreg y n).msb = v.msb ∧
        ((u.dreg y n).extractLsb' 31 8).toNat = 253 - e ∧
        2 ^ 63 - 2 ^ 55 ≤ (2 ^ 31 + ((u.dreg y n).extractLsb' 0 31).toNat) * m ∧
        (2 ^ 31 + ((u.dreg y n).extractLsb' 0 31).toNat) * m ≤ 2 ^ 63 + 2 ^ 55) ∧
    (1 ≤ e → e < 255 → v.msb = false →
      ∃ u, exec (.rsqrts n a) s = .next u ∧ (u.dreg y n).msb = false ∧
        (((u.dreg y n).extractLsb' 31 8).toNat : Int) = 126 - ((e : Int) - 127) / 2 ∧
        let q := (2 ^ 31 + ((u.dreg y n).extractLsb' 0 31).toNat) ^ 2 * m * (if e % 2 = 1 then 1 else 2)
        225 * 2 ^ 87 ≤ q ∧ q ≤ 289 * 2 ^ 87)

/-- The parts of a multifunction operation: each reads the registers as they were and does what it does alone; the ALU's
register wins, and each part writes its own flags (48_multifunction.md R574, R562). A dual add and subtract, fixed-point or
floating-point, gives both results, and its flags and sticky bits are those of the two ORed (R571, R575). -/
def Obligations.MultifunctionParts : Prop :=
  (∀ (k m a : Compute) (c : PeIn), k.parts = some (m, a) →
    (computePe k c).writes = (computePe m c).writes ++ (computePe a c).writes ∧
    (computePe k c).mr = (computePe m c).mr ∧
    (computePe k c).astat &&& aluMask = (computePe a c).astat &&& aluMask ∧
    (computePe k c).astat &&& mulMask = (computePe m c).astat &&& mulMask ∧
    (computePe k c).astat &&& ~~~(aluMask ||| mulMask) = c.astat &&& ~~~(aluMask ||| mulMask) ∧
    (computePe k c).stky = (computePe m c).stky ||| (computePe a c).stky) ∧
  (∀ (rs ra x y : Reg) (c : PeIn) (d p m : Compute),
    (d, p, m) ∈ [(Compute.dualFix rs ra x y, Compute.aluBin .add ra x y, Compute.aluBin .sub rs x y),
      (.dualFlt rs ra x y, .aluBin .fadd ra x y, .aluBin .fsub rs x y)] →
    computePe d c = { writes := (computePe p c).writes ++ (computePe m c).writes, mr := none
                      astat := (computePe p c).astat ||| (computePe m c).astat
                      stky := (computePe p c).stky ||| (computePe m c).stky })

/-! ### Register moves -/

/-- A move between universal registers in SISD mode completes where its condition holds: the source, read before the
instruction, is written to the destination beside the compute's results (40_compute_move.md R263, R266, R274). -/
def Obligations.RegMoveCompletes : Prop :=
  ∀ (src dst : UReg) (c : Cond) (k : Compute) (s t : State), s.Calm → s.simd = false → s.cond false c = true →
    k.dualClash = false → (src = .lcntr → s.seq.loopDepth < 6) → s.FlowWritable dst →
    (s.runPes s.begun (computePe k) true false).write40 dst (s.read40 src) (wideSource src) = .ok t →
    ∃ u, exec (.uregMove src c dst k) s = .next u ∧ s.Advanced t u

/-- In SIMD mode a move between data registers moves the complementary registers too, each half under the condition of its
element (40_compute_move.md R266). A DAG register, which has no complement, goes to a data register and its complement in the same way
(R266 (2), 20_memory.md R175), and to USTAT1 and USTAT2 (R266 (2); that this is followed here and not the wording of R175 is the
MODEL's choice, log 77). A swap completes: Rx takes all forty bits of Sy under the condition of PEx, and Sy those of Rx under that of PEy in SIMD
mode, of PEx in SISD mode (40_compute_move.md R275). -/
def Obligations.SimdMoves : Prop :=
  (∀ (p q : Bool) (a b : Reg) (c : Cond) (s : State), s.Steady → s.simd = true → (c = .lce → s.inShortLoop = false) →
    ∃ u, exec (.uregMove (if q then .s b else .r b) c (if p then .s a else .r a) .none) s = .next u ∧
      u.dreg p a = (if s.cond false c then s.dreg q b else s.dreg p a) ∧
      u.dreg (!p) a = (if s.cond true c then s.dreg (!q) b else s.dreg (!p) a) ∧
      (∀ y n, n ≠ a → u.dreg y n = s.dreg y n)) ∧
  (∀ (src : UReg) (p : Bool) (a : Reg) (c : Cond) (s : State), src.isDag = true → s.Steady → s.simd = true →
    (c = .lce → s.inShortLoop = false) →
    (∃ u, exec (.uregMove src c (if p then .s a else .r a) .none) s = .next u ∧
      u.dreg p a = (if s.cond false c then s.read32 src ++ 0#8 else s.dreg p a) ∧
      u.dreg (!p) a = (if s.cond true c then s.read32 src ++ 0#8 else s.dreg (!p) a) ∧
      (∀ y n, n ≠ a → u.dreg y n = s.dreg y n)) ∧
    (∃ u, exec (.uregMove src c (.sys .ustat1) .none) s = .next u ∧
      u.reg.ustat1 = (if s.cond false c then s.read32 src else s.reg.ustat1) ∧
      u.reg.ustat2 = (if s.cond true c then s.read32 src else s.reg.ustat2) ∧ s.SameData u)) ∧
  (∀ (y x : Reg) (c : Cond) (k : Compute) (s : State), s.Steady → k.dualClash = false →
    (c = .lce → s.inShortLoop = false) →
    (s.simd = true → c ≠ .always → x ∉ k.dests ∧ y ∉ k.dests) →
    let w := s.runPes s.begun (computePe k) (s.cond false c) (s.simd && s.cond true c)
    let v := if s.cond false c then w.setDreg false x (s.dreg true y) else w
    ∃ u, exec (.swap y c x k) s = .next u ∧
      s.Advanced (if s.cond s.simd c then v.setDreg true y (s.dreg false x) else v) u)

/-- What a program write leaves in a register that holds just what is written: it reads back, and no other such register
changes, but that a write of Bn sets In too (10_state.md R26, R27, R28, R33, 20_memory.md R175, 40_compute_move.md R263). MMASK
(R35) is such a register at every bit, also at the reserved ones of MODE1: the MODEL's choice (log 49). A write of a reserved
bit of MODE1, ASTATx or IMASK stops, and RSTI and EMUI stay enabled (R34, R37, R40); a write that would change IMASKP stops
(R41, 60_exceptions.md R625). -/
def Obligations.RegisterWrites : Prop :=
  (∀ (s : State) (r : UReg) (v : W32), r.plain = true → ∃ t, s.write32 r v = .ok t ∧ t.read32 r = v ∧
    (∀ o : UReg, o.plain = true → o ≠ r → (∀ n, r = .b n → o ≠ .i n) → t.read32 o = s.read32 o) ∧
    (∀ n, r = .b n → t.read32 (.i n) = v) ∧ t.mem = s.mem ∧ t.seq = s.seq) ∧
  (∀ (s : State) (v : W32),
    s.writeSys .mode1 v = (if v &&& ~~~mode1Bits = 0 then
        .ok { s with reg := { s.reg with mode1 := v },
                     changed := { s.changed with mode1 := s.changed.mode1 ||| (s.reg.mode1 ^^^ v) } }
      else .error (.fault .reservedBitWrite)) ∧
    s.writeSys .astatx v = (if v &&& ~~~astatBits = 0 then
        .ok { s with reg := { s.reg with astatx := v },
                     changed := { s.changed with astatx := s.changed.astatx ||| (s.reg.astatx ^^^ s.recent.astatx ^^^ v) },
                     recent := { s.recent with astatx := 0 } }
      else .error (.fault .reservedBitWrite)) ∧
    s.writeSys .imask v = (if v &&& ~~~irptlBits = 0 then
        .ok { s with reg := { s.reg with imask := v ||| 3 },
                     changed := { s.changed with imask := s.changed.imask ||| (s.reg.imask ^^^ (v ||| 3)) } }
      else .error (.fault .reservedBitWrite)) ∧
    s.writeSys .imaskp v = (if v = s.reg.imaskp then .ok s else .error (.fault .maskPointerWrite)))

/-- An immediate loaded into a register, and in SIMD mode into its complement, completes; a register that a program cannot
write keeps its value (42_immediate_move.md R354, 40_compute_move.md R263). -/
def Obligations.LoadImmCompletes : Prop :=
  ∀ (r : UReg) (v : W32) (s : State), s.Calm → s.FlowWritable r →
    (∀ t1 t, s.begun.write32 r v = .ok t1 →
      (match (if s.simd then r.comp else none) with | some c => t1.write32 c v | none => .ok t1) = .ok t →
      ∃ u, exec (.loadImm r v) s = .next u ∧ s.Advanced t u) ∧
    (r ∈ ([.pc, .faddr, .daddr, .emuclk, .emuclk2] : List UReg) → ∃ u, exec (.loadImm r v) s = .next u ∧ s.Advanced s.begun u)

/-! ### Index registers -/

/-- MODIFY, by a register or an immediate, completes: the index register is updated, around its buffer whenever L is not 0;
with a condition if it holds in either element. BITREV completes: the sum, its bits reversed, is written to the index
register; on an active circular buffer, with L not 0 and CBUFEN = 1, only where its update would give the same sum, else it is
BitrevCircular (20_memory.md R173, 40_compute_move.md R277, 43_misc.md R377, R378, 93_implementation_defined.md U26; that U26
is followed for CBUFEN = 0 and not the wording of R378 is the MODEL's choice, log 37). A circular update keeps the index in its buffer: from an index inside, with a modifier that meets the
conditions, the new index is inside, and differs from the sum by the length at most once (R173). A wrap of I7 or I15 is
reported whatever CBUFEN is where L is not 0, and with L = 0 where CBUFEN is 1: R173 and R377 against 60_exceptions.md R615, the
MODEL's choice (log 63). -/
def Obligations.ModifyCompletes : Prop :=
  (∀ (g : Bool) (i m : DagNum) (c : Cond) (k : Compute) (v : W32) (s : State), s.Steady →
    (c = .lce → s.inShortLoop = false) → k.dualClash = false →
    let w := s.runPes s.begun (computePe k) (s.cond false c) (s.simd && s.cond true c)
    let n := dagNumber g i
    (s.condAny c = true → s.IndexOk n (s.dagReg .m (dagNumber g m)) true →
      ∃ t u, exec (.modify g c i m k) s = .next u ∧ s.Indexed w t n (s.dagReg .m (dagNumber g m)) true ∧ s.Advanced t u) ∧
    (s.condAny c = false → ∃ u, exec (.modify g c i m k) s = .next u ∧ s.Advanced w u) ∧
    (s.IndexOk n v true →
      ∃ t u, exec (.modifyImm g i v) s = .next u ∧ s.Indexed s.begun t n v true ∧ s.Advanced t u) ∧
    (if s.dagReg .l n = 0 ∨ circUpdate (s.dagReg .i n) (s.dagReg .b n) (s.dagReg .l n) v = s.dagReg .i n + v ∨
        cbufen s.reg.mode1 = false then
      ∃ r u, exec (.bitrev g i v) s = .next u ∧ (∀ j, j < 32 → r.getLsbD j = (s.dagReg .i n + v).getLsbD (31 - j)) ∧
        s.Advanced (s.begun.setDagReg .i n r) u
      else exec (.bitrev g i v) s = .fault .bitrevCircular)) ∧
  (∀ i b l m : W32, circOk i b l m = true → b.toNat ≤ i.toNat → i.toNat < b.toNat + l.toNat →
    let n := circUpdate i b l m
    b.toNat ≤ n.toNat ∧ n.toNat < b.toNat + l.toNat ∧
      ((n.toNat : Int) = i.toNat + m.toInt ∨ (n.toNat : Int) = i.toNat + m.toInt - l.toNat ∨
        (n.toNat : Int) = i.toNat + m.toInt + l.toNat))

/-! ### Memory moves -/

/-- A load in SISD mode completes where its condition has the value it needs: the word at the address goes to the register,
beside the compute's results and the update of the index register (40_compute_move.md R272, R273, R276; 41_program_flow.md
R314; 42_immediate_move.md R351, R352; 20_memory.md R170, R171); what the hardware reports of the access is set last
(60_exceptions.md R613, R615; that it comes after the load also where that loads STKYx or IRPTL is R613's for IRA and U64MA and
the MODEL's choice for the wrap, log 60; a wrap with L = 0 and CBUFEN = 1 by 20_memory.md R173, the MODEL's choice, log 63). A register of
reserved bits must be able to take the word. At an external address the word is
the one the model's own memory holds, the MODEL's choice (log 10; 92_eei_decisions.md D10 leaves it to the environment). -/
def Obligations.LoadCompletes : Prop :=
  ∀ (i : Instr) (c : Cond) (on : Bool) (r : UReg) (m : MemMove) (a : W32) (l : Loc) (s t1 : State),
    i.access? = some (c, on, m) → m.op = .load r → i.noClash = true → s.Calm → s.simd = false → s.cond false c = on →
    (on = false → s.AwayFromEnd) → s.ModeOk m.mode → s.address m.mode = .ok a → m.selfTransfer = false →
    broadcastBy s.reg.mode1 r m.mode = false → s.locate a (r == .px) m.lw = .ok l →
    (l.width = 64 → r = .px ∨ r.pair?.isSome = true) → s.Reachable l true → s.FlowWritable r →
    s.begun.putLoaded s.reg.mode1 ⟨r, l.width, BitVec.ofNat 64 (s.mem.load l.bytes.1 l.bytes.2)⟩ = .ok t1 →
    ∃ t0 t v u, exec i s = .next u ∧ s.Addressed (s.runPes s.begun i.movePe true false) t0 m ∧
      t0.putLoaded s.reg.mode1 ⟨r, l.width, BitVec.ofNat 64 (s.mem.load l.bytes.1 l.bytes.2)⟩ = .ok t ∧
      s.Reported t v m a ∧
      s.Advanced (if r = .curlcntr then { v with recent := { v.recent with curlcntr := true } } else v) u

/-- What a loaded word leaves in a data register: a short word extended as MODE1.SSE says, a 32-bit word above eight zero
bits, a 48-bit word's upper forty bits, a long word's halves in the register and its neighbour; and what a data register
gives to a word (20_memory.md R143 to R145, R152). -/
def Obligations.LoadedAndStoredValues : Prop :=
  ∀ (s : State) (n : Reg) (y : Bool) (v : W64) (mode1 : W32),
    let r := if y then UReg.s n else UReg.r n
    (∃ t, s.putLoaded mode1 ⟨r, 16, v⟩ = .ok t ∧ t.dreg y n =
      (if sse mode1 then (v.extractLsb' 0 16).signExtend 32 else (v.extractLsb' 0 16).setWidth 32) ++ 0#8) ∧
    (∃ t, s.putLoaded mode1 ⟨r, 32, v⟩ = .ok t ∧ t.dreg y n = v.extractLsb' 0 32 ++ 0#8) ∧
    (∃ t, s.putLoaded mode1 ⟨r, 48, v⟩ = .ok t ∧ t.dreg y n = v.extractLsb' 8 40) ∧
    (∃ t, s.putLoaded mode1 ⟨r, 64, v⟩ = .ok t ∧ t.dreg y n = v.extractLsb' 0 32 ++ 0#8 ∧
      t.dreg y (n ^^^ 1) = v.extractLsb' 32 32 ++ 0#8 ∧ ∀ k, k ≠ n → k ≠ n ^^^ 1 → t.dreg y k = s.dreg y k) ∧
    s.regWord r 16 = ((s.dreg y n).extractLsb' 8 16).setWidth 64 ∧
    s.regWord r 32 = ((s.dreg y n).extractLsb' 8 32).setWidth 64 ∧
    s.regWord r 48 = (s.dreg y n ++ 0#8).setWidth 64 ∧
    s.regWord r 64 = (s.dreg y (n ^^^ 1)).extractLsb' 8 32 ++ (s.dreg y n).extractLsb' 8 32

/-- A store in SISD mode completes where its condition has the value it needs: the register as it was before the
instruction, or the immediate, goes to the word at the address, beside the compute's results and the update of the index
register; what the hardware reports of the access is set (60_exceptions.md R613, R615; a wrap with L = 0 and CBUFEN = 1 by
20_memory.md R173, the MODEL's choice, log 63); no other byte of memory changes. The memory is in
canonical form, as every step keeps it (StepKeepsWf). At an external address the memory that changes is the model's own, the
MODEL's choice (log 10) (40_compute_move.md R272, R273, R276; 41_program_flow.md R314; 42_immediate_move.md R351 to R353;
20_memory.md R141, R170, R171). -/
def Obligations.StoreCompletes : Prop :=
  ∀ (i : Instr) (c : Cond) (on : Bool) (d : Datum) (m : MemMove) (a : W32) (l : Loc) (s : State),
    i.access? = some (c, on, m) → m.op = .store d → i.noClash = true → s.mem.wf = true → s.Calm → s.simd = false →
    s.cond false c = on →
    (on = false → s.AwayFromEnd) → s.ModeOk m.mode → s.address m.mode = .ok a → m.selfTransfer = false →
    s.locate a d.isPx m.lw = .ok l → (l.width = 64 → d.pairs = true) → s.Reachable l false →
    (d = .reg .lcntr → s.seq.loopDepth < 6) →
    ∃ t0 v u, exec i s = .next u ∧ s.Addressed (s.runPes s.begun i.movePe true false) t0 m ∧
      s.Reported { t0 with mem := s.mem.store l.bytes.1 l.bytes.2 (s.datumWord d l.width).toNat, shadow1 := v.shadow1 } v m a ∧
      s.Advanced v u ∧
      (∀ j, j < l.bytes.2 → u.mem.byte (l.bytes.1 + j) = (s.datumWord d l.width).extractLsb' (8 * j) 8) ∧
      (∀ k, l.Outside k → u.mem.byte k = s.mem.byte k)

/-- In SIMD mode an unconditional move between memory and a register completes, in every form: post-modify and pre-modify,
through either address generator, and with an absolute address. A short or normal word is moved with the next one, the explicit
word for the register and the next for its complement; a 48-bit and a long word are moved alone; a broadcast load gives the same
word to a data register and its complement; and the index register is updated once (20_memory.md R142, R145, R160, R161,
R166, R170, R171). At an external address the memory is the model's own, the MODEL's choice (log 10). -/
def Obligations.SimdAccess : Prop :=
  ∀ (i : Instr) (m : MemMove) (a : W32) (l k : Loc) (s : State),
    i.access? = some (.always, true, m) → i.noClash = true → s.Calm → s.simd = true → s.ModeOk m.mode →
    s.address m.mode = .ok a → m.selfTransfer = false →
    let p := s.runPes s.begun i.movePe true true
    let word := fun x : Loc => BitVec.ofNat 64 (s.mem.load x.bytes.1 x.bytes.2)
    let narrow := l.width = 16 ∨ l.width = 32
    (∀ (y : Bool) (n : Reg),
      let r := if y then UReg.s n else UReg.r n
      let c := if y then UReg.r n else UReg.s n
      let same := broadcastBy s.reg.mode1 r m.mode
      m.op = .load r → s.locate a false m.lw = .ok l → s.Reachable l true →
      (narrow → same = false → s.implicitLoc l = .ok k ∧ s.Reachable k true) →
      ∃ t0 t u, exec i s = .next u ∧ p.putLoaded s.reg.mode1 ⟨r, l.width, word l⟩ = .ok t0 ∧
        (if same then t0.putLoaded s.reg.mode1 ⟨c, l.width, word l⟩ = .ok t
          else if narrow then t0.putLoaded s.reg.mode1 ⟨c, l.width, word k⟩ = .ok t else t = t0) ∧
        s.SameMemory u ∧ (∀ z j, u.dreg z j = t.dreg z j) ∧ (∀ z j, u.dagReg z j = s.dagAfter m.mode z j)) ∧
    (∀ d : Datum, m.op = .store d → s.locate a d.isPx m.lw = .ok l → s.Reachable l false →
      (l.width = 64 → d.pairs = true) → (d = .reg .lcntr → s.seq.loopDepth < 6) →
      (narrow → d.comp.isSome = true → s.implicitLoc l = .ok k ∧ s.Reachable k false) →
      ∃ u, exec i s = .next u ∧
        (let q := s.mem.store l.bytes.1 l.bytes.2 (s.datumWord d l.width).toNat
         u.mem = match (if narrow then d.comp else none) with
           | some e => q.store k.bytes.1 k.bytes.2 (s.datumWord e l.width).toNat
           | none => q) ∧
        u.x = p.x ∧ u.y = p.y ∧ (∀ z j, u.dagReg z j = s.dagAfter m.mode z j))

/-- Where the condition of a move or of a compute with a move does not hold, in SISD mode nothing happens but that the flow
goes on (40_compute_move.md R260, R262, R265). -/
def Obligations.ConditionFalse : Prop :=
  ∀ (i : Instr) (c : Cond) (s : State), s.Calm → s.simd = false → s.cond false c = false →
    ((∃ m, i.access? = some (c, true, m)) ∨ (∃ k, i = .condCompute c k) ∨ (∃ a b k, i = .uregMove a c b k) ∨
      (∃ y x k, i = .swap y c x k) ∨ (∃ e o d n x, i = .shiftImm c e o d n x) ∨ (∃ g j m k, i = .modify g c j m k)) →
    ∃ u, exec i s = .next u ∧ s.Advanced s.begun u

/-- What a store leaves alone in every mode and at every address, the stores of a Type 1 instruction among them: each byte of
memory outside the words at its own addresses and, in SIMD mode, outside those of the implicit transfers; the data registers
that its compute does not write, and that a load of the same Type 1 instruction does not (the register named, or its neighbour);
the address registers but its indexes, and those of the set not selected; every system register but the flags, the sticky bits
and the latches; the status stack; the PC stack and the loop stacks but for the loop mechanism's own work; and the registers of
the I/O processor but ELAST, unless an address is one of them (20_memory.md R141, R160, R167, R168, R170, 40_compute_move.md R262,
R270). Of all instructions only those that store change memory. -/
def Obligations.StoreFrame : Prop :=
  (∀ (i : Instr) (s t : State), i.stores = true → exec i s = .next t →
    (∀ k, (∀ m ∈ i.moves, m.isStore = true → ∀ a, s.address m.mode = .ok a → s.OutsideStore a m.px m.lw k) →
      t.mem.byte k = s.mem.byte k) ∧
    (∀ y, ∃ e ∈ [s.pe y, (s.pe y).take s.reg.mode1 (i.movePe (s.peIn y))],
      ((∀ m ∈ i.moves, m.isStore = true) → t.pe y = e) ∧ (t.pe y).mra = e.mra ∧ (t.pe y).mrb = e.mrb ∧
      ∀ n, (∀ m ∈ i.moves, ∀ r, m.op = .load (.r r) → n ≠ r ∧ n ≠ neighbour r) →
        (t.pe y).r[n.toNat]'n.isLt = e.r[n.toNat]'n.isLt ∧ (t.pe y).rAlt[n.toNat]'n.isLt = e.rAlt[n.toNat]'n.isLt) ∧
    (∀ k n, t.dagReg k n = s.dagReg k n ∨ ∃ m ∈ i.moves, t.dagReg k n = s.dagAfter m.mode k n) ∧
    (∀ k n, (if dagSelect s.reg.mode1 n then (t.dag.kind k)[n.toNat]'n.isLt = (s.dag.kind k)[n.toNat]'n.isLt
      else (t.dagAlt.kind k)[n.toNat]'n.isLt = (s.dagAlt.kind k)[n.toNat]'n.isLt)) ∧
    t.reg = { s.reg with
      astatx := t.reg.astatx, astaty := t.reg.astaty, stkyx := t.reg.stkyx, stkyy := t.reg.stkyy, irptl := t.reg.irptl
      lirptl := t.reg.lirptl } ∧
    t.seq.statusStack = s.seq.statusStack ∧
    (let q := if t.freeIdx = s.freeIdx then s.seq else s.begun.seq
     t.seq.pcstkp = q.pcstkp ∧ t.seq.pcStack = q.pcStack ∧ t.seq.loopDepth = q.loopDepth ∧
       t.seq.loopAddr = q.loopAddr ∧ t.seq.loopCount = q.loopCount) ∧
    (s.loopAct = .none → s.begun.seq = s.seq) ∧
    ((∀ m ∈ i.moves, ∀ a l, s.address m.mode = .ok a → s.locate a m.px m.lw = .ok l → l.place.isReg = false) →
      t.iop = { s.iop with elast := t.iop.elast })) ∧
  (∀ (i : Instr) (s t : State), i.stores = false → exec i s = .next t → t.mem = s.mem)

/-- A Type 1 instruction on words of memory, internal or external, completes in SISD and in SIMD mode: both accesses, each through
its own address generator, with the index registers updated. A short or normal word moves in SIMD mode with its implicit word, a
48- or 64-bit word alone, over the PM bus for the S register; a broadcast load gives both elements one word. Where both loads
reach one register the DM load stands; where they collide in memory DM comes before PM (40_compute_move.md R270, 20_memory.md
R166, R167, R168, R170, R180, 10_state.md R22). In SIMD mode a narrow word with a wide one, and in either mode two stores that
meet, are DualAccessConflict (R167, R168, 93_implementation_defined.md U8). That the wide DM word serves the R register of its
number and the wide PM word the S register of its number is the MODEL's choice (log 14), as is the memory at an external address
(log 10). -/
def Obligations.DualMoveCompletes : Prop :=
  ∀ (w1 w2 : Bool) (i1 m1 i2 m2 : DagNum) (d1 d2 : Reg) (k : Compute) (s : State) (c1 c2 : W32) (l1 k1 l2 k2 : Loc),
    let i := Instr.dualMove w1 i1 m1 d1 w2 i2 m2 d2 k
    let a1 := sideMove w1 false i1 m1 (.r d1)
    let a2 := sideMove w2 true i2 m2 (.r d2)
    let b1 := a1.broadcast s.reg.mode1
    let b2 := a2.broadcast s.reg.mode1
    let ws1 := s.dualWords false b1 d1 l1 k1
    let ws2 := s.dualWords true b2 d2 l2 k2
    s.Calm → k.dualClash = false → s.address a1.mode = .ok c1 → s.locate c1 false false = .ok l1 →
    s.address a2.mode = .ok c2 → s.locate c2 false false = .ok l2 →
    (s.simd = true → l1.narrow ≠ l2.narrow → exec i s = .fault .dualAccessConflict) ∧
    ((s.simd = true → l1.narrow = l2.narrow) →
      (s.simd = true → l1.narrow = true →
        (b1 = false → s.implicitLoc l1 = .ok k1) ∧ (b2 = false → s.implicitLoc l2 = .ok k2)) →
      (∀ w ∈ ws1, s.Reachable w.2 (!w1)) → (∀ w ∈ ws2, s.Reachable w.2 (!w2)) →
      let meet := ∃ v ∈ ws1, ∃ w ∈ ws2, v.2.overlaps w.2 = true
      (w1 = true → w2 = true → meet → exec i s = .fault .dualAccessConflict) ∧
      (s.ModeOk a1.mode → s.ModeOk a2.mode → (w1 = true → w2 = true → ¬ meet) →
        (w1 = true → ∀ v ∈ ws1, ∀ w ∈ ws2, v.2.overlaps w.2 = true → (v.2.width = 48 ↔ w.2.width = 48)) →
        let p := s.runPes s.begun (computePe k) true s.simd
        let mem1 := if w1 then s.storedWords s.mem ws1 else s.mem
        let xs := if w1 then [] else loadedWords s.mem ws1
        let ys := if w2 then [] else loadedWords mem1 ws2
        ∃ q u, exec i s = .next u ∧ p.putAll s.reg.mode1 (ys ++ xs) = .ok q ∧ u.x = q.x ∧ u.y = q.y ∧
          u.mem = (if w2 then s.storedWords mem1 ws2 else mem1) ∧
          (∀ j n, u.dagReg j n = if n.getLsbD 3 then s.dagAfter a2.mode j n else s.dagAfter a1.mode j n) ∧
          u.reg.astatx = p.reg.astatx ∧ u.reg.astaty = p.reg.astaty ∧ u.reg.mode1 = s.reg.mode1 ∧ s.WindowAfter u.seq))

/-! ### Program flow -/

/-- A JUMP that is taken completes: the compute runs unless it stands after ELSE; (LA) drops the loop, (CI) leaves the
interrupt; and the window goes to the target, with (DB) after two more instructions. A CALL that is taken pushes the next
address in the flow, with (DB) the one after the two slots (41_program_flow.md R300, R301, R303 to R305, R310 to R314). -/
def Obligations.BranchesTaken : Prop :=
  ∀ (i : Instr) (b : Branch) (s : State), s.MayBranch → b.k.dualClash = false → s.condBoth b.cond = true →
    (b.cond = .lce → s.inShortLoop = false) →
    let w := s.runPes s.start (computePe b.k) (!b.els) (s.simd && !b.els)
    let a := i.target s
    (∀ t1 t2, i.jump? = some b → (if b.la then w.abortLoop a else .ok w) = .ok t1 →
      (if b.ci then t1.leave else .ok t1) = .ok t2 → t2.entryAllowed a = true →
      exec i s = .next (s.branched t2 b.db false a)) ∧
    (i.call? = some b → s.entryAllowed a = true → s.seq.pcstkp.toNat < 30 →
      ∃ u, exec i s = .next (s.branched u b.db false a) ∧ u.seq.pcstkp = s.seq.pcstkp + 1 ∧
        u.topPc = (if b.db then s.seq.faddr + 1 else s.seq.daddr) ∧
        u = { w with seq := u.seq, reg := { w.reg with stkyx := u.reg.stkyx, irptl := u.reg.irptl }, stackBits := u.stackBits } ∧
        u.seq = { w.seq with pcstkp := u.seq.pcstkp, pcStack := u.seq.pcStack } ∧
        (∀ j, j < s.seq.pcstkp.toNat → u.seq.pcStack[j]? = s.seq.pcStack[j]?))

/-- A return that is taken completes: the window goes to the address on top of the PC stack, which is popped; RTI leaves the
interrupt too; with (DB) the two slots count as those of a return, so that no loop test is made again; RTS without (LR) does not
go to the last two instructions of a loop (41_program_flow.md R306, R315, R316). -/
def Obligations.ReturnsTaken : Prop :=
  ∀ (c : Cond) (db els lr : Bool) (k : Compute) (s : State), s.MayBranch → k.dualClash = false → s.condBoth c = true →
    (c = .lce → s.inShortLoop = false) →
    s.seq.pcstkp ≠ 0 → s.seq.pcstkp ≠ 31 →
    let w := s.runPes s.start (computePe k) (!els) (s.simd && !els)
    ∃ t, w.popPc = .ok t ∧ t.seq.pcstkp = s.seq.pcstkp - 1 ∧
      (lr = true ∨ s.entryAllowed s.topPc = true → exec (.rts c db els lr k) s = .next (s.branched t db true s.topPc)) ∧
      (∀ v, t.leave = .ok v → exec (.rti c db els k) s = .next (s.branched v db true s.topPc))

/-- A branch that is not taken goes on to the next instruction; each element runs the compute where its condition holds, or
after ELSE where it does not (41_program_flow.md R303). -/
def Obligations.BranchesNotTaken : Prop :=
  ∀ (i : Instr) (b : Branch) (s : State), i.branch? = some b → s.Steady → s.AwayFromEnd →
    b.k.dualClash = false → s.condBoth b.cond = false →
    (b.cond = .lce → s.inShortLoop = false) →
    ∃ u, exec i s = .next u ∧ s.Advanced
      (s.runPes s.begun (computePe b.k) (s.cond false b.cond != b.els) (s.simd && (s.cond true b.cond != b.els))) u

/-- DO UNTIL completes: the loop's end, termination and kind go onto the loop address stack, the count onto the loop counter
stack, the address of the first instruction onto the PC stack, and the window is that of a loop of one, two or more
instructions (41_program_flow.md R320 to R322, 10_state.md R31). -/
def Obligations.LoopSetup : Prop :=
  ∀ (i : Instr) (s : State) (term : Cond) (rel : W24) (count : Option W32), i.loop? s = some (term, rel, count) →
    s.StackReady → s.seq.loopDepth < 6 → s.seq.pcstkp.toNat < 30 → s.seq.pc ≠ 0xFFFFFF →
    let b := s.seq.pc + 1
    let e := s.seq.pc + rel
    b.toNat ≤ e.toNat → s.endsTooClose e = false →
    ∃ u, exec i s = .next u ∧ u.seq.loopDepth = s.seq.loopDepth + 1 ∧ u.loopEnd = e ∧ u.loopTerm = term.code ∧
      u.loopType = (if term ≠ .lce then 0 else if e = b then 1 else if e = b + 1 then 2 else 3) ∧
      u.curlcntr = count.getD s.lcntr ∧ u.seq.pcstkp = s.seq.pcstkp + 1 ∧ u.topPc = b ∧
      (∀ j, j < s.seq.loopDepth →
        u.seq.loopAddr[j]? = s.seq.loopAddr[j]? ∧ u.seq.loopCount[j]? = s.seq.loopCount[j]?) ∧
      u.seq.pc = b ∧ u.seq.daddr = (if e = b then b else b + 1) ∧
      u.seq.faddr = (if e = b ∨ e = b + 1 then b else b + 2) ∧ s.SameData u ∧ s.SameAddresses u ∧ u.mem = s.mem ∧
      u.seq.statusStack = s.seq.statusStack ∧ u.reg.mode1 = s.reg.mode1 ∧ u.reg.astatx = s.reg.astatx

/-- The test of the active loop, with any compute in the last instruction. A loop of three or more instructions, and every
condition-based loop, is tested at the fetch of its last instruction: the next fetch is the first one, and a counter goes down
by one, unless the counter is 1 or the condition holds: then the flow goes on behind the loop and the loop's entries are popped
(41_program_flow.md R330, R333). A counter-based loop of one or two instructions is tested at its last instruction itself
(R332). -/
def Obligations.LoopTest : Prop :=
  ∀ (i : Instr) (k : Compute) (s : State), i.compute? = some k → k.dualClash = false → s.Steady → s.looping = true →
    s.seq.loopDepth ≤ 6 → s.returning = false →
    let c := condOfCode s.loopTerm
    let popped := fun u : State => u.seq.loopDepth = s.seq.loopDepth - 1 ∧ u.seq.pcstkp = s.seq.pcstkp - 1 ∧
      (u.reg.stkyx.getLsbD 26 = true ↔ s.seq.loopDepth = 1)
    let kept := fun u : State => u.seq.loopDepth = s.seq.loopDepth ∧ u.seq.pcstkp = s.seq.pcstkp
    ∃ u, exec i s = .next u ∧
      (s.loopType = 0 ∨ s.loopType = 3 → s.seq.faddr = s.loopEnd →
        let out := if c = .lce then s.curlcntr == 1 else s.untilBoth c
        u.seq.pc = s.seq.daddr ∧ u.seq.daddr = s.seq.faddr ∧
        (out = false → u.seq.faddr = s.topPc ∧ kept u ∧ u.curlcntr = (if c = .lce then s.curlcntr - 1 else s.curlcntr)) ∧
        (out = true → u.seq.faddr = s.loopEnd + 1 ∧ popped u)) ∧
      (s.loopType = 1 ∨ s.loopType = 2 → s.seq.pc = s.loopEnd →
        (s.curlcntr ≠ 1 → u.seq.pc = s.topPc ∧ u.seq.daddr = (if s.loopType = 1 then s.topPc else s.loopEnd) ∧
          u.seq.faddr = s.topPc ∧ kept u ∧ u.curlcntr = s.curlcntr - 1) ∧
        (s.curlcntr = 1 → u.seq.pc = s.loopEnd + 1 ∧ u.seq.daddr = s.loopEnd + 2 ∧ u.seq.faddr = s.loopEnd + 3 ∧ popped u))

/-! ### System registers, stacks and modes -/

/-- BIT SET, CLR and TGL complete where the register takes the new value, in SIMD mode its complement too; reading and writing
are one (R370), which comes after the pops of a loop that ends: the MODEL's choice (log 90). BIT TST and BIT XOR set the bit test flag of ASTATx (43_misc.md R370 to R374, R379).
That they leave ASTATy alone in SISD mode is R370's own decision D19. -/
def Obligations.BitOperations : Prop :=
  ∀ (k : SReg) (v : W32) (s : State), s.Steady →
    (∀ (i : Instr) (f : W32 → W32) (t1 t : State),
      (i, f) ∈ [(Instr.bitSet k v, fun x => x ||| v), (.bitClr k v, fun x => x &&& ~~~v), (.bitTgl k v, fun x => x ^^^ v)] →
      s.begun.writeSys k (f (s.readBack s.begun k)) = .ok t1 →
      (match (if s.simd then sregComp k else none) with
        | some d => t1.writeSys d (f (s.readBack s.begun d))
        | none => .ok t1) = .ok t →
      ∃ u, exec i s = .next u ∧ s.Advanced t u) ∧
    (∀ (i : Instr) (p : W32 → Bool),
      (i, p) ∈ [(Instr.bitTst k v, fun x => x &&& v == v), (.bitXor k v, fun x => x == v)] →
      ∃ u, exec i s = .next u ∧ (u.reg.astatx.getLsbD 18 = p (s.readSys k)) ∧
        u.reg.astatx &&& ~~~0x40000#32 = s.reg.astatx &&& ~~~0x40000#32 ∧
        (∀ d, s.simd = true → sregComp k = some d → u.reg.astaty.getLsbD 18 = p (s.readSys d)) ∧
        (s.simd = false → u.reg.astaty = s.reg.astaty) ∧
        s.Advanced { s.begun with
          reg := { s.begun.reg with astatx := u.reg.astatx, astaty := u.reg.astaty }
          recent := { s.begun.recent with btf := true } } u)

/-- The pushes of a Type 20 word complete together: LCNTR and a zero loop address onto the loop stacks; ASTATx, ASTATy and
MODE1 onto the status stack, the MODE1 bits of MMASK then cleared; an entry of the PC stack; the stack-empty flags follow
(43_misc.md R375, R376, R384, R386, R388). The pops complete together where the stacks have entries: the status registers come
from the status stack; a pop of an empty stack stops the machine (43_misc.md R385, R387, R389, 41_program_flow.md R307). -/
def Obligations.StackOperations : Prop :=
  (∀ (i : Instr) (q : StackAsk) (s : State), i.push? = some q → s.StackReady → s.seq.loopDepth < 6 →
    s.seq.statusStack.length < 15 → s.seq.pcstkp.toNat < 30 →
    ∃ t u, exec i s = .next u ∧ s.Advanced t u ∧
      t = { s.start with seq := t.seq, stackBits := t.stackBits, changed := t.changed
                         reg := { s.reg with mode1 := t.reg.mode1, stkyx := t.reg.stkyx, irptl := t.reg.irptl } } ∧
      t.seq = { s.seq with
        loopDepth := if q.loop then s.seq.loopDepth + 1 else s.seq.loopDepth
        loopAddr := t.seq.loopAddr
        loopCount := t.seq.loopCount
        statusStack := if q.sts then ⟨s.reg.astatx, s.reg.astaty, s.reg.mode1⟩ :: s.seq.statusStack else s.seq.statusStack
        pcstkp := if q.pc then s.seq.pcstkp + 1 else s.seq.pcstkp
        pcStack := t.seq.pcStack
        cache := if q.flush then .replicate 16 [] else s.seq.cache } ∧
      t.laddr = (if q.loop then 0 else s.laddr) ∧ t.curlcntr = (if q.loop then s.lcntr else s.curlcntr) ∧
      t.reg.mode1 = (if q.sts then s.reg.mode1 &&& ~~~s.reg.mmask else s.reg.mode1) ∧
      t.reg.stkyx.getLsbD 26 = (s.reg.stkyx.getLsbD 26 && !q.loop) ∧
      t.reg.stkyx.getLsbD 24 = (s.reg.stkyx.getLsbD 24 && !q.sts) ∧
      t.reg.stkyx.getLsbD 22 = (s.reg.stkyx.getLsbD 22 && !q.pc) ∧
      (t.reg.irptl ≠ s.reg.irptl → q.pc = true ∧ 28 ≤ s.seq.pcstkp.toNat)) ∧
  (∀ (i : Instr) (q : StackAsk) (s : State), i.pop? = some q → s.StackReady →
    (∀ (e : StatusEntry) (rest : List StatusEntry),
      (q.loop = true → s.seq.loopDepth ≠ 0) → (q.sts = true → s.seq.statusStack = e :: rest) →
      (q.pc = true → s.seq.pcstkp ≠ 0) →
      ∃ t u, exec i s = .next u ∧ s.Advanced t u ∧
        t = { s.start with seq := t.seq, stackBits := t.stackBits, changed := t.changed
                           reg := { s.reg with
                             mode1 := if q.sts then e.mode1 else s.reg.mode1
                             astatx := if q.sts then e.astatx else s.reg.astatx
                             astaty := if q.sts then e.astaty else s.reg.astaty
                             stkyx := t.reg.stkyx } } ∧
        t.seq = { s.seq with
          loopDepth := if q.loop then s.seq.loopDepth - 1 else s.seq.loopDepth
          statusStack := if q.sts then rest else s.seq.statusStack
          pcstkp := if q.pc then s.seq.pcstkp - 1 else s.seq.pcstkp
          cache := if q.flush then .replicate 16 [] else s.seq.cache } ∧
        (q.loop = true → (t.reg.stkyx.getLsbD 26 = true ↔ s.seq.loopDepth = 1)) ∧
        (q.sts = true → (t.reg.stkyx.getLsbD 24 = true ↔ rest = [])) ∧
        (q.pc = true → (t.reg.stkyx.getLsbD 22 = true ↔ s.seq.pcstkp = 1))) ∧
    ((q.loop = true ∧ s.seq.loopDepth = 0) ∨ (q.sts = true ∧ s.seq.statusStack = []) ∨ (q.pc = true ∧ s.seq.pcstkp = 0) →
      exec i s = .fault .stackUnderflow))

/-- NOP, IDLE and FLUSH CACHE complete: nothing but the flow; the idle state entered; the instruction cache emptied. CJUMP
saves I6 in R2, in SIMD mode in S2 too, sets I6 to I7 and makes a delayed jump. RFRAME restores I7 from I6 and I6 from the word
at I6; where that is a long word, which loads I7 too, the loaded half stands in I7, the MODEL's choice (log 56) (43_misc.md
R376, R380 to R383; 20_memory.md R145). -/
def Obligations.ModeInstructions : Prop :=
  ∀ s : State,
    (s.Steady → ∃ u, exec .nop s = .next u ∧ s.Advanced s.begun u) ∧
    (s.Steady → s.seq.dbSlots = 0 →
      ∃ u, exec .idle s = .next u ∧ s.Advanced { s.begun with seq := { s.begun.seq with idle := true } } u) ∧
    (s.Steady → ∃ u, exec .flushCache s = .next u ∧
      s.Advanced { s.begun with seq := { s.begun.seq with cache := .replicate 16 [] } } u) ∧
    (∀ (i : Instr) (a : W24), (i = .cjumpAbs a ∨ ∃ rel, i = .cjumpRel rel ∧ a = s.seq.pc + rel) → s.MayBranch →
      s.entryAllowed a = true →
      let t := s.begun.setDreg false 2 (s.dagReg .i 6 ++ 0#8)
      let v := if s.simd then t.setDreg true 2 (s.dagReg .i 6 ++ 0#8) else t
      exec i s = .next (s.branched (v.setDagReg .i 6 (s.dagReg .i 7)) true false a)) ∧
    (∀ l t, s.Calm → s.simd = false → s.locate (s.dagReg .i 6) false false = .ok l → s.Reachable l true →
      (∃ f, l.place = .cells f) →
      (s.begun.setDagReg .i 7 (s.dagReg .i 6)).putLoaded s.reg.mode1
        ⟨.i 6, l.width, BitVec.ofNat 64 (s.mem.load l.bytes.1 l.bytes.2)⟩ = .ok t →
      ∃ u, exec .rframe s = .next u ∧ s.Advanced t u)

/-! ### The timer and the I/O processor -/

/-- A tick of the enabled timer counts down; on reaching zero it requests both timer interrupts; at zero it reloads
(60_exceptions.md R640). The MODEL's choices: a tick that is no core step is an event of the queue (log 4), and it counts one
clock cycle in EMUCLK (log 17; 91_not_in_source.md N30 leaves it out). -/
def Obligations.TimerTick : Prop :=
  ∀ (s t : State) (rest : List Event), s.pins.id ≠ 7 → s.iop.resetPending = false → s.inputs = .tick :: rest →
    s.reg.mode2.getLsbD 5 = true → step s = .next t →
    t.reg.emuclk = s.reg.emuclk + 1 ∧
    (s.reg.tcount ≠ 0 → t.reg.tcount = s.reg.tcount - 1) ∧ (s.reg.tcount = 0 → t.reg.tcount = s.reg.tperiod) ∧
    (s.reg.tcount = 1 → s.inService .tmzhi = false → t.latched .tmzhi = true) ∧
    (s.reg.tcount = 1 → s.inService .tmzli = false → t.latched .tmzli = true) ∧
    (s.reg.tcount.toNat > 1 → s.seq.idle = false → (t.latched .tmzhi = true → s.latched .tmzhi = true)) ∧
    t.mem = s.mem ∧ s.SameData t

/-- An internal transfer of a DMA channel, a slave-mode external port channel among them: a 32- or 48-bit word moves between the
buffer and the memory at the channel's index, the index goes on by the modifier, and the count goes down; in two dimensions the
end of a row adds the row's increment, reloads the count and takes one from the number of rows (61_io_devices.md R682, R688,
R690, R701). The last transfer of a block ends a single sequence or the last one of a chain with its interrupt, or asks for the
next control block (R699, R700). The MODEL's choices: a number of rows of zero goes down modulo 2^18 and the block goes on
(log 65), and a word longer than 32 bits leaves the queue whole with a 32-bit transfer (log 24). -/
def Obligations.DmaTransfer : Prop :=
  ∀ (s t : State) (c : Fin 14) (f : Nat), s.bootChannel c = false →
    (∀ n, epOf c = some n → s.ehm n ≠ 1 ∧ s.ehm n ≠ 3 ∧ s.ehm n ≠ 6) →
    dmaCol (s.ctl c).word48 s.iop.chan[c].ii = .ok f → s.dmaMove c = .ok t →
    let h := s.iop.chan[c]
    let g := t.iop.chan[c]
    let n := if (s.ctl c).word48 then 6 else 4
    (if (s.ctl c).twoD = true ∧ h.c = 1 then
        g.ii = h.ii + h.im.signExtend 18 + h.db.signExtend 18 ∧ g.c = h.da ∧ g.gp = h.gp - 1
      else g.ii = h.ii + h.im.signExtend 18 ∧ g.c = h.c - 1 ∧ g.gp = h.gp) ∧
    s.BlockEnded t c (h.c == 1 && (!(s.ctl c).twoD || h.gp == 1)) (h.cp.getLsbD 18) ∧
    ((s.ctl c).tran = true → t.mem = s.mem ∧ g.queue = h.queue ++ [BitVec.ofNat 64 (s.mem.load (colKey f) n)]) ∧
    ((s.ctl c).tran = false → ∃ v q, h.queue = v :: q ∧ g.queue = q ∧
      ((s.ctl c).word48 = true ∨ v.extractLsb' 32 32 = 0#32 → t.mem = s.mem.store (colKey f) n v.toNat)) ∧
    s.SameData t ∧ s.SameAddresses t ∧ t.seq = s.seq

/-- A word that arrives at an enabled receive buffer of a link port is queued, with 48 bits or cut to 32 by the buffer's width
bit; a word that leaves is the oldest one (62_link_serial_multiproc.md R729). A word that a serial port receives, without packing
and companding, is queued cut to its length and extended as DTYPE says, and replaces the newest one of a full buffer; a word
sent is the oldest one, cut to its length (R745 to R747). -/
def Obligations.LinkWords : Prop :=
  (∀ (s t : State) (b : Fin 6) (w : W48),
    (s.linkArrived b w = .ok t →
      t.iop.chan[lkChan b].queue = s.iop.chan[lkChan b].queue ++
        [if (s.linkGroup b).getLsbD 4 then w.setWidth 64 else (w.extractLsb' 0 32).setWidth 64] ∧
      s.iop.chan[lkChan b].queue.length < 2 ∧ t.mem = s.mem ∧ s.SameData t) ∧
    (s.linkTaken b = .ok t → ∃ v q, s.iop.chan[lkChan b].queue = v :: q ∧ t.iop.chan[lkChan b].queue = q ∧
      t.outputs = .linkWord (s.linkPort b).toNat (v.setWidth 48) :: s.outputs)) ∧
  (∀ (s t : State) (x : Fin 2) (v : W32),
    let p := s.iop.sport[x]
    let q := s.iop.chan[rxChan x].queue
    let n := (p.srctl.extractLsb' 4 5).toNat + 1
    s.sportReceived x v = .ok t → p.srctl.getLsbD 9 = false → p.srctl.getLsbD 2 = false →
    ∃ w : W32, (∀ j, j < 32 → w.getLsbD j = if j < n then v.getLsbD j else p.srctl.getLsbD 1 && v.getLsbD (n - 1)) ∧
      t.iop.chan[rxChan x].queue = (if q.length < 2 then q else q.dropLast) ++ [w.setWidth 64] ∧
      t.iop.sport[x] = { p with rovf := p.rovf || !decide (q.length < 2) } ∧ t.mem = s.mem ∧ s.SameData t) ∧
  (∀ (s t : State) (x : Fin 2),
    let p := s.iop.sport[x]
    let n := (p.stctl.extractLsb' 4 5).toNat + 1
    s.sportSent x = .ok t → p.srctl.getLsbD 22 = false → p.stctl.getLsbD 9 = false → p.stctl.getLsbD 2 = false →
    ∃ (v : W64) (q : List W64) (w : W32), s.iop.chan[txChan x].queue = v :: q ∧ t.iop.chan[txChan x].queue = q ∧
      t.outputs = .serialWord x w :: s.outputs ∧ (∀ j, j < 32 → w.getLsbD j = (decide (j < n) && v.getLsbD j)))

/-- The memory-mapped registers of the I/O processor. A core store or load of a data register at the address of one completes, in
SISD and in SIMD mode, with the one register (20_memory.md R153): a load gives its value, a store does what a write of the
register does. The buffers EPBx, LBUFx, TXx and RXx are queues: a store to one with room adds a word, which draws the interrupt
of an idle transmitter, and a load takes the oldest word; a full or an empty one holds the instruction while BHD = 0, and with
BHD = 1 a store replaces the newest word and a load repeats the last one (61_io_devices.md R720, 62_link_serial_multiproc.md
R728, R745, R746, R750). A store to RXx and a load of TXx are SportBufferMisuse (R745), but on a disabled side with companding
they compand in place, a load of TXx giving the eight compressed bits and a store to RXx leaving the expanded value (R748, R756;
that R748 is followed there and not R745 is the MODEL's choice, log 74). The MODEL's other choices: a buffer does so for
every setting of its enable, its direction and its DMA (log 83), both addresses of a buffer reach it (log 25), and the state of a
held instruction stays as it is, to be tried again (log 20). A register that holds just what is written reads back
so, and no other such register changes; SYSCON keeps its bits but those that clear themselves (10_state.md R101, R102, R104,
R106, R107, 61_io_devices.md R682, 62_link_serial_multiproc.md R744, R753, R754; that TCNT and RCNT, which R757 only names,
read back (log 42), and that SYSCON keeps reserved codes of HPM and EBPR (log 94), are the MODEL's choices). -/
def Obligations.IopRegisters : Prop :=
  (∀ (s : State) (pm : Bool) (n : Reg) (a : BitVec 8) (r : IopReg), s.Steady → iopReg a = some r →
    let v := (s.dreg false n).extractLsb' 8 32
    let store := Instr.uregAbs pm true false (.r n) (a.setWidth 32)
    let load := Instr.uregAbs pm false false (.r n) (a.setWidth 32)
    let stores := fun t : State => ∃ w u, exec store s = .next u ∧ s.IopAccessed t w ∧ s.Advanced w u
    let loads := fun (t : State) (x : W32) =>
      ∃ w u, exec load s = .next u ∧ s.IopAccessed (t.setDreg false n (x ++ 0#8)) w ∧ s.Advanced w u
    (r.buffer? = none → ∀ t, s.begun.iopWrite true r v = .ok t → stores t) ∧
    (r.buffer? = none → (r = .elast → s.recent.elast = false) → loads s.begun (s.iopValue r)) ∧
    (∀ c, r.buffer? = some c →
      let q := s.iop.chan[c].queue
      (match s.bufferTakes r v with
        | none => exec store s = .fault .sportBufferMisuse
        | some y =>
          if q.length < capacity c then stores (s.drawn r (s.begun.enqueue c (y.setWidth 64)))
          else if s.bhd then stores (s.begun.mapChan c fun h => { h with queue := q.dropLast ++ [y.setWidth 64] })
          else exec store s = .next s) ∧
      (match s.bufferGives r with
        | none => exec load s = .fault .sportBufferMisuse
        | some gives =>
          match q with
          | y :: _ => ∀ x : W32, y = x.setWidth 64 → ∃ z, gives x z ∧ loads (s.begun.dequeue c y) z
          | [] =>
            if s.bhd then ∀ x : W32, s.iop.chan[c].last = x.setWidth 64 → ∃ z, gives x z ∧ loads s.begun z
            else exec load s = .next s))) ∧
  (∀ (s t : State) (core : Bool) (r : IopReg) (v mask : W32), r.keeps = some mask → s.iopWrite core r v = .ok t →
    t.iopValue r = v &&& mask ∧ (∀ o mask', o.keeps = some mask' → o ≠ r → t.iopValue o = s.iopValue o) ∧
    t.mem = s.mem ∧ s.SameData t ∧ s.SameAddresses t ∧ t.seq = s.seq) ∧
  (∀ (s t : State) (core : Bool) (v : W32), s.iopWrite core .syscon v = .ok t →
    t.iopValue .syscon = v &&& 0x007FFEF6 ∧ (v.getLsbD 0 = true → t.iop.resetPending = true) ∧
    (∀ o mask, o.keeps = some mask → t.iopValue o = s.iopValue o))

/-- The bus. On a single processor the BM condition holds whenever CSEL is 00 (30_encoding.md R231, D53). An access of external
memory by a core that has not the bus waits, and a slave then asserts BRx and PA (62_link_serial_multiproc.md R760,
R763; that the state else stays as it is, to be tried again, is the MODEL's choice, log 20). A transition gives the bus to another master,
the one of highest priority that competes: the lowest ID with RPBA = 0, the next one after the master in a circle with RPBA = 1
(R761). It takes the bus from this processor only where that holds no lock, and either does not assert BRx, or has no need of
high priority while another one asserts PA (R763, R765). Which of the other processors compete under PA is the MODEL's
choice (log 29). BCNT is loaded where this processor takes or gives the bus or deasserts its BRx, and counts down while another
one asks; at zero the bus is given up (R762). The host holds the bus between acquiring and releasing it (R766). A register write
of an external master goes into the slave write FIFO, which takes four asynchronous or two synchronous writes, and is made when it
is at the head and nothing comes before it; one of VIRPT requests its interrupt and sets VIPD, the core's own does not. A write of
memory goes into the slave write FIFO too, from there into the direct write FIFO of eight (that it passes both is the MODEL's
choice, log 72), and from its head into memory. SYSTAT.DWPD tells whether a write is in one of them (61_io_devices.md R689, R708,
R710, 70_reset_and_hazards.md R834, 60_exceptions.md R616). -/
def Obligations.BusMaster : Prop :=
  (∀ (s : State) (y : Bool), s.pins.id = 0 → s.cond y (.is .bm) = (s.reg.mode1.extractLsb' 17 2 == 0)) ∧
  (∀ (s : State) (pm w : Bool) (n : Reg) (a : W32), s.Steady → a.extractLsb' 23 9 ≠ 0 → s.busMine = false →
    exec (.uregAbs pm w false (.r n) a) s = .next s.awaitBus ∧
      (s.master = false → s.awaitBus.brOut = true ∧ s.awaitBus.paOut = true)) ∧
  (∀ (s t : State) (m : BitVec 3), s.busTo m = .ok t →
    t = { s with iop := { s.iop with crbm := m, bsyn := true, yielding := false, bcnt := t.iop.bcnt } } ∧
    (m = s.pins.id ∨ s.iop.crbm = s.pins.id → t.iop.bcnt = s.iop.bmax) ∧ (t.master = true ↔ m = s.pins.id) ∧
    (s.iop.crbm = s.pins.id →
      s.reg.mode2.getLsbD 6 = false ∧ (s.brOut = false ∨ s.pins.paIn = true ∧ s.highNeed = false)) ∧
    m ≠ s.iop.crbm ∧ s.competes m = true ∧ (m = s.pins.id → s.brOut = true) ∧
    (∀ k : BitVec 3, 1 ≤ k → k ≤ 6 → k ≠ s.iop.crbm → s.competes k = true →
      (s.pins.rpba = false → m ≤ k) ∧
      (s.pins.rpba = true → 1 ≤ s.iop.crbm → s.iop.crbm ≤ 6 →
        (m.toNat + 6 - s.iop.crbm.toNat) % 6 ≤ (k.toNat + 6 - s.iop.crbm.toNat) % 6))) ∧
  (∀ s t : State, s.bcntTick = .ok t → s.othersAsk = true ∧ s.master = true ∧
    t = { s with iop := { s.iop with bcnt := t.iop.bcnt, yielding := s.iop.bcnt == 1 } } ∧
    (s.iop.bcnt ≠ 1 → t.iop.bcnt = s.iop.bcnt - 1) ∧
    (s.iop.bcnt = 1 → s.reg.mode2.getLsbD 6 = false → t.iop.bcnt = s.iop.bmax ∧ t.busMine = false ∧ t.brOut = false)) ∧
  (∀ s t : State, s.dropRequest = .ok t → s.master = true ∧ s.brOut = false ∧
    t = { s with iop := { s.iop with bcnt := s.iop.bmax } }) ∧
  (∀ s t : State, s.hostAcquire = .ok t → s.iop.hstm = false ∧ t = { s with iop := { s.iop with hstm := true } } ∧
    t.master = false ∧ (s.master = true → s.reg.mode2.getLsbD 6 = false)) ∧
  (∀ s t : State, s.hostRelease = .ok t → s.iop.hstm = true ∧ t = { s with iop := { s.iop with hstm := false } }) ∧
  (∀ (s t : State) (sync : Bool) (a : BitVec 8) (v : W32), s.extWriteIop sync a v = .ok t →
    s.iop.slaveFifo.length + s.iop.slaveDirect.length < (if sync then 2 else 4) ∧
    t = { s with iop := { s.iop with slaveFifo := s.iop.slaveFifo ++ [⟨a, v.setWidth 64⟩] } }) ∧
  (∀ (s t : State) (sync : Bool) (a : W32) (width : Nat) (v : W64), s.extWriteMem sync a width v = .ok t →
    s.iop.slaveFifo.length + s.iop.slaveDirect.length < (if sync then 2 else 4) ∧
    t = { s with iop := { s.iop with slaveDirect := s.iop.slaveDirect ++ [⟨a, width, v⟩] } }) ∧
  (∀ s t : State, s.latchDirect = .ok t → ∃ w rest, s.iop.slaveDirect = w :: rest ∧ s.iop.directFifo.length < 8 ∧
    t = { s with iop := { s.iop with slaveDirect := rest, directFifo := s.iop.directFifo ++ [w] } }) ∧
  (∀ (s : State) (b : Bool) (w : DirectWrite) (rest : List DirectWrite) (k n : Nat), s.iop.directFifo = w :: rest →
    s.urgent = none → s.slaveReady = false ∨ b = false → directKey w.addr w.width = .ok (k, n) →
    s.iopStep b = .ok { s with mem := s.mem.store k n w.value.toNat, iop := { s.iop with directFifo := rest } }) ∧
  (∀ s : State, (s.iopValue .systat).getLsbD 12 = true ↔
    s.iop.directFifo ≠ [] ∨ s.iop.slaveFifo ≠ [] ∨ s.iop.slaveDirect ≠ []) ∧
  (∀ (s : State) (b : Bool) (w : SlaveWrite) (rest : List SlaveWrite) (r : IopReg), s.iop.slaveFifo = w :: rest →
    s.iop.directFifo = [] → s.urgent = none → s.slaveReady = true → iopReg w.addr = some r → (∀ k, r ≠ .lbuf k) →
    s.iopStep b = State.iopWrite { s with iop := { s.iop with slaveFifo := rest } } false r (w.value.setWidth 32)) ∧
  (∀ (s t : State) (core : Bool) (v : W32), s.iopWrite core .virpt v = .ok t →
    (core = true → t.reg = s.reg ∧ t.iop = { s.iop with virpt := v }) ∧
    (core = false → s.inService .virpti = false →
      t.latched .virpti = true ∧ t.iop = { s.iop with virpt := v, vipd := true }))

/-- An external transfer of an external port channel in master mode, unpacked 32-bit words, between its buffer and external
memory: two words at once from an even address with a modifier of 0 or 1 where two are still to come and the buffer has them or
room for them, else one (R691 names EI, EC and EM for the fall back; that a buffer of depth 1 falls back too is the
MODEL's choice, log 86); the external index goes on by the modifier for each and the external count down. The transfer that
ends a block ends the sequence with its interrupt, or asks for the next control block (61_io_devices.md R691, R699, R700). The
memory is the model's own, the MODEL's choice (log 10). -/
def Obligations.ExternalTransfer : Prop :=
  ∀ (s t : State) (n : Fin 4),
    let c := epChan n
    let h := s.iop.chan[c]
    let g := t.iop.chan[c]
    let d := s.iop.dmac[n]
    s.ehm n = 1 → s.pmode n = 0 → d.getLsbD 5 = false → s.iop.syscon.getLsbD 1 = false → s.bootChannel c = false →
    h.ei.extractLsb' 23 9 ≠ 0 → s.extTransfer n = .ok t →
    let depth := if d.getLsbD 2 then h.queue.length else 8 - h.queue.length
    let two := h.ei.getLsbD 0 = false ∧ (h.em = 0 ∨ h.em = 1) ∧ 2 ≤ h.ec.toNat ∧ 2 ≤ depth
    let k := extKey h.ei
    (if two then g.ei = h.ei + 2 * h.em ∧ g.ec = h.ec - 2 else g.ei = h.ei + h.em ∧ g.ec = h.ec - 1) ∧
    (d.getLsbD 2 = false → t.mem = s.mem ∧ g.queue = h.queue ++
      BitVec.ofNat 64 (s.mem.load k 4) :: (if two then [BitVec.ofNat 64 (s.mem.load (k + 4) 4)] else [])) ∧
    (d.getLsbD 2 = true → ∃ v q, h.queue = v :: q ∧
      (if two then ∃ w r, q = w :: r ∧ g.queue = r ∧
          t.mem = s.mem.store k 8 (w.setWidth 32 ++ v.setWidth 32 : W64).toNat
        else g.queue = q ∧ t.mem = s.mem.store k 4 v.toNat)) ∧
    s.BlockEnded t c (h.c == 0 && h.begun && g.ec == 0 && (!d.getLsbD 2 || (g.queue.isEmpty && h.parts.isEmpty)))
      (h.cp.getLsbD 18) ∧
    s.SameData t ∧ s.SameAddresses t ∧ t.seq = s.seq
end

