-- ==== Sys2Proof/Laws/Memory.lean ====
section
/-!
SUPPORT. Laws/Memory.lean: every memory operation keeps the canonical form; a read after a write gives the value written at
the place written and the old value elsewhere; memories in canonical form that read alike are equal.
-/
namespace Sys2Proof.Machine

/-- A bound on the keys from below. -/
theorem Mem.above_mono {j k : Nat} {m : Mem} (h : j ≤ k) : Mem.above k m = true → Mem.above j m = true := by
  cases m with
  | nil => simp [Mem.above]
  | cons c m => simp only [Mem.above, decide_eq_true_eq]; omega

/-- A key below all keys of a memory reads as zero. -/
theorem Mem.byte_above {m : Mem} {k a : Nat} (hw : m.wf = true) (h : Mem.above k m = true) (ha : a ≤ k) : m.byte a = 0 := by
  induction m generalizing k with
  | nil => rfl
  | cons c m ih =>
    obtain ⟨b, v⟩ := c
    simp only [Mem.wf, Bool.and_eq_true] at hw
    simp only [Mem.above, decide_eq_true_eq] at h
    rw [Mem.byte, if_neg (by omega)]
    exact ih hw.2 hw.1.2 (by omega)

/-- A write keeps every key above a bound that the written key respects. -/
theorem Mem.above_put {m : Mem} {j k : Nat} {v : BitVec 8} (hm : Mem.above j m = true) (hj : j < k) (hw : m.wf = true) :
    Mem.above j (m.put k v) = true := by
  cases m with
  | nil => unfold Mem.put; split <;> simp [Mem.above, hj]
  | cons c m =>
    obtain ⟨a, b⟩ := c
    simp only [Mem.above, decide_eq_true_eq] at hm
    simp only [Mem.wf, Bool.and_eq_true] at hw
    unfold Mem.put
    split
    · split <;> simp only [Mem.above, decide_eq_true_eq] <;> omega
    · split
      · split
        · exact Mem.above_mono (by omega) hw.1.2
        · simpa [Mem.above] using hj
      · simpa [Mem.above] using hm

/-- A write of one byte keeps the canonical form. -/
theorem Mem.put_wf {m : Mem} {k : Nat} {v : BitVec 8} (hw : m.wf = true) : (m.put k v).wf = true := by
  induction m with
  | nil => unfold Mem.put; split <;> simp_all [Mem.wf, Mem.above]
  | cons c m ih =>
    obtain ⟨a, b⟩ := c
    have hw' := hw
    simp only [Mem.wf, Bool.and_eq_true] at hw
    unfold Mem.put
    split
    · split
      · exact hw'
      · simp_all [Mem.wf, Mem.above]
    · split
      · split
        · exact hw.2
        · subst_vars; simp_all [Mem.wf]
      · simp only [Mem.wf, Bool.and_eq_true]
        exact ⟨⟨hw.1.1, Mem.above_put hw.1.2 (by omega) hw.2⟩, ih hw.2⟩

/-- One byte after a write of one byte. -/
theorem Mem.byte_put {m : Mem} {k a : Nat} {v : BitVec 8} (hw : m.wf = true) :
    (m.put k v).byte a = if a = k then v else m.byte a := by
  induction m with
  | nil =>
    unfold Mem.put
    split
    · split <;> simp_all [Mem.byte]
    · simp only [Mem.byte]; grind
  | cons c m ih =>
    obtain ⟨b, w⟩ := c
    have hw' := hw
    simp only [Mem.wf, Bool.and_eq_true] at hw
    have hk : b = k → Mem.byte m k = 0 := fun h => Mem.byte_above hw.2 hw.1.2 (by omega)
    have hb : k < b → Mem.byte m k = 0 := fun h => Mem.byte_above hw.2 hw.1.2 (by omega)
    unfold Mem.put
    split
    · split <;> simp only [Mem.byte] <;> grind
    · split
      · split <;> simp only [Mem.byte] <;> grind
      · simp only [Mem.byte, ih hw.2]; grind

/-- A write of `n` bytes keeps the canonical form. -/
theorem Mem.store_wf {m : Mem} (k n v : Nat) (hw : m.wf = true) : (m.store k n v).wf = true := by
  induction n generalizing k v with
  | zero => exact hw
  | succ n ih => exact Mem.put_wf (ih (k + 1) (v / 256))

/-- One byte after a write of `n` bytes, outside them. -/
theorem Mem.byte_store_out {m : Mem} {k n v a : Nat} (hw : m.wf = true) (h : ¬ (k ≤ a ∧ a < k + n)) :
    (m.store k n v).byte a = m.byte a := by
  induction n generalizing k v with
  | zero => rfl
  | succ n ih =>
    rw [Mem.store, Mem.byte_put (Mem.store_wf _ _ _ hw), if_neg (by omega)]
    exact ih (by omega)

/-- One byte after a write of `n` bytes, among them. -/
theorem Mem.byte_store_in {m : Mem} {k n v j : Nat} (hw : m.wf = true) (h : j < n) :
    (m.store k n v).byte (k + j) = BitVec.ofNat 8 (v / 256 ^ j) := by
  induction n generalizing k v j with
  | zero => omega
  | succ n ih =>
    rw [Mem.store, Mem.byte_put (Mem.store_wf _ _ _ hw)]
    cases j with
    | zero => simp
    | succ j =>
      rw [if_neg (by omega), show k + (j + 1) = (k + 1) + j by omega, ih (by omega), Nat.div_div_eq_div_mul,
        pow_succ, Nat.mul_comm]

/-- A load depends on its bytes only. -/
theorem Mem.load_congr {m m' : Mem} {k n : Nat} (h : ∀ j, j < n → m.byte (k + j) = m'.byte (k + j)) :
    m.load k n = m'.load k n := by
  induction n generalizing k with
  | zero => rfl
  | succ n ih =>
    have h0 := h 0 (by omega)
    simp only [Nat.add_zero] at h0
    rw [Mem.load, Mem.load, h0, ih]
    intro j hj
    have := h (j + 1) (by omega)
    rwa [show k + (j + 1) = k + 1 + j by omega] at this

/-- A load after a write of the same bytes gives the value written. -/
theorem Mem.load_store {m : Mem} {k n v : Nat} (hw : m.wf = true) : (m.store k n v).load k n = v % 256 ^ n := by
  induction n generalizing k v with
  | zero => simp [Mem.load, Nat.mod_one]
  | succ n ih =>
    have h1 : (m.store k (n + 1) v).byte k = BitVec.ofNat 8 v := by
      have := Mem.byte_store_in (k := k) (n := n + 1) (v := v) (j := 0) hw (by omega)
      simpa using this
    have h2 : (m.store k (n + 1) v).load (k + 1) n = (m.store (k + 1) n (v / 256)).load (k + 1) n := by
      apply Mem.load_congr
      intro j hj
      rw [Mem.store, Mem.byte_put (Mem.store_wf _ _ _ hw), if_neg (by omega)]
    rw [Mem.load, h1, h2, ih, BitVec.toNat_ofNat, show 256 ^ (n + 1) = 256 * 256 ^ n by ring, Nat.mod_mul]

/-- Loads and writes that do not meet. -/
theorem Mem.load_store_apart {m : Mem} {k n v a j : Nat} (hw : m.wf = true) (h : a + j ≤ k ∨ k + n ≤ a) :
    (m.store k n v).load a j = m.load a j :=
  Mem.load_congr fun i hi => Mem.byte_store_out hw (by omega)

/-- Memories in canonical form that read alike are equal. -/
theorem Mem.ext {m m' : Mem} (hw : m.wf = true) (hw' : m'.wf = true) (h : ∀ a, m.byte a = m'.byte a) : m = m' := by
  induction m generalizing m' with
  | nil =>
    cases m' with
    | nil => rfl
    | cons c m' =>
      obtain ⟨a, b⟩ := c
      simp only [Mem.wf, Bool.and_eq_true, decide_eq_true_eq] at hw'
      have := h a
      simp only [Mem.byte, if_true] at this
      exact absurd this.symm hw'.1.1
  | cons c m ih =>
    obtain ⟨a, b⟩ := c
    have hwc := hw
    simp only [Mem.wf, Bool.and_eq_true, decide_eq_true_eq] at hw
    cases m' with
    | nil =>
      have := h a
      simp only [Mem.byte, if_true] at this
      exact absurd this hw.1.1
    | cons c' m' =>
      obtain ⟨a', b'⟩ := c'
      have hwc' := hw'
      simp only [Mem.wf, Bool.and_eq_true, decide_eq_true_eq] at hw'
      have e : a = a' := by
        rcases Nat.lt_trichotomy a a' with hl | he | hl
        · have := h a
          rw [Mem.byte, if_pos rfl, Mem.byte, if_neg (by omega), Mem.byte_above hw'.2 hw'.1.2 (by omega)] at this
          exact absurd this hw.1.1
        · exact he
        · have := h a'
          rw [Mem.byte, if_neg (by omega), Mem.byte_above hw.2 hw.1.2 (by omega), Mem.byte, if_pos rfl] at this
          exact absurd this.symm hw'.1.1
      subst e
      have hb := h a
      simp only [Mem.byte, if_true] at hb
      subst hb
      rw [ih hw.2 hw'.2]
      intro j
      have := h j
      simp only [Mem.byte] at this
      by_cases hj : a = j
      · rw [Mem.byte_above hw.2 hw.1.2 (by omega), Mem.byte_above hw'.2 hw'.1.2 (by omega)]
      · simpa [hj] using this

end Sys2Proof.Machine
end

