-- ==== Sys2Proof/Laws/Run.lean ====
section
/-!
SUPPORT. Laws/Run.lean: computations that may stop: what it means that one answers, and that all its answers satisfy a
property.
-/
namespace Sys2Proof.Machine

variable {α β : Type}

@[simp] theorem Run.ok_bind (a : α) (f : α → Run β) : (Except.ok a : Run α) >>= f = f a := rfl

@[simp] theorem Run.error_bind (h : Halt) (f : α → Run β) : (Except.error h : Run α) >>= f = .error h := rfl

@[simp] theorem Run.pure_eq (a : α) : (pure a : Run α) = .ok a := rfl

/-- A sequence answers exactly if both parts do. -/
theorem Run.bind_eq_ok {r : Run α} {f : α → Run β} {b : β} : (r >>= f) = .ok b ↔ ∃ a, r = .ok a ∧ f a = .ok b := by
  cases r <;> simp

@[simp] theorem need_true (f : Fault) : need true f = .ok () := rfl

@[simp] theorem need_false (f : Fault) : need false f = .error (.fault f) := rfl

/-- A check answers exactly if it holds. -/
theorem need_eq_ok {b : Bool} {f : Fault} {u : Unit} : need b f = .ok u ↔ b = true := by cases b <;> simp

@[simp] theorem outcome_ok (s t : State) : outcome s (.ok t) = .next t := rfl

@[simp] theorem outcome_fault (s : State) (f : Fault) : outcome s (.error (.fault f)) = .fault f := rfl

/-- An instruction goes on to `t` because it answers `t`, or because it waits and `t` is where it began, with the note that it
waits for the bus. -/
theorem outcome_eq_next {s t : State} {r : Run State} :
    outcome s r = .next t ↔ r = .ok t ∨ (r = .error .stall ∧ t = s) ∨ (r = .error .busStall ∧ t = s.awaitBus) := by
  rcases r with (_ | _ | _ | _) | _ <;> simp [outcome, eq_comm]

/-- Every answer of the computation satisfies `P`. -/
def Run.Sat (r : Run α) (P : α → Prop) : Prop := ∀ a, r = .ok a → P a

theorem Run.sat_ok {a : α} {P : α → Prop} (h : P a) : Run.Sat (.ok a) P := by rintro b ⟨⟩; exact h

theorem Run.sat_error {h : Halt} {P : α → Prop} : Run.Sat (.error h : Run α) P := by rintro b ⟨⟩

/-- What every answer of the first part satisfies may be used for the second. -/
theorem Run.sat_bind {r : Run α} {f : α → Run β} {P : α → Prop} {Q : β → Prop} (hr : Run.Sat r P)
    (hf : ∀ a, P a → Run.Sat (f a) Q) : Run.Sat (r >>= f) Q := by
  intro b hb
  obtain ⟨a, ha, hfa⟩ := Run.bind_eq_ok.1 hb
  exact hf a (hr a ha) b hfa

/-- A first part whose answer does not matter. -/
theorem Run.sat_seq {r : Run α} {f : α → Run β} {Q : β → Prop} (hf : ∀ a, Run.Sat (f a) Q) : Run.Sat (r >>= f) Q :=
  Run.sat_bind (P := fun _ => True) (fun _ _ => trivial) fun a _ => hf a

theorem Run.sat_ite {c : Prop} [Decidable c] {r q : Run α} {P : α → Prop} (hr : c → Run.Sat r P) (hq : ¬ c → Run.Sat q P) :
    Run.Sat (if c then r else q) P := by
  split
  · exact hr ‹_›
  · exact hq ‹_›

theorem Run.sat_mono {r : Run α} {P Q : α → Prop} (h : Run.Sat r P) (hpq : ∀ a, P a → Q a) : Run.Sat r Q :=
  fun a ha => hpq a (h a ha)

end Sys2Proof.Machine
end

