-- ==== Sys2Proof/Laws/State.lean ====
section
/-!
SUPPORT. Laws/State.lean: what every named update leaves in every field of the state, so that no later proof unfolds a
record update; and the same for the operations that change one part only.
-/
namespace Sys2Proof.Machine

variable (s : State)

/-! ### `State.start` -/

@[simp] theorem State.start_x : (s.start).x = s.x := rfl
@[simp] theorem State.start_y : (s.start).y = s.y := rfl
@[simp] theorem State.start_dag : (s.start).dag = s.dag := rfl
@[simp] theorem State.start_dagAlt : (s.start).dagAlt = s.dagAlt := rfl
@[simp] theorem State.start_seq : (s.start).seq = s.seq := rfl
@[simp] theorem State.start_reg : (s.start).reg = s.reg := rfl
@[simp] theorem State.start_stackBits : (s.start).stackBits = s.stackBits := rfl
@[simp] theorem State.start_mem : (s.start).mem = s.mem := rfl
@[simp] theorem State.start_iop : (s.start).iop = s.iop := rfl
@[simp] theorem State.start_pins : (s.start).pins = s.pins := rfl
@[simp] theorem State.start_inputs : (s.start).inputs = s.inputs := rfl
@[simp] theorem State.start_outputs : (s.start).outputs = s.outputs := rfl

/-! ### `State.pause` -/

@[simp] theorem State.pause_x : (s.pause).x = s.x := rfl
@[simp] theorem State.pause_y : (s.pause).y = s.y := rfl
@[simp] theorem State.pause_dag : (s.pause).dag = s.dag := rfl
@[simp] theorem State.pause_dagAlt : (s.pause).dagAlt = s.dagAlt := rfl
@[simp] theorem State.pause_seq : (s.pause).seq = s.seq := rfl
@[simp] theorem State.pause_reg : (s.pause).reg = s.reg := rfl
@[simp] theorem State.pause_shadow1 : (s.pause).shadow1 = s.shadow1 := rfl
@[simp] theorem State.pause_shadow2 : (s.pause).shadow2 = s.shadow2 := rfl
@[simp] theorem State.pause_stackBits : (s.pause).stackBits = s.stackBits := rfl
@[simp] theorem State.pause_mem : (s.pause).mem = s.mem := rfl
@[simp] theorem State.pause_iop : (s.pause).iop = s.iop := rfl
@[simp] theorem State.pause_pins : (s.pause).pins = s.pins := rfl
@[simp] theorem State.pause_inputs : (s.pause).inputs = s.inputs := rfl
@[simp] theorem State.pause_outputs : (s.pause).outputs = s.outputs := rfl
@[simp] theorem State.pause_changed : s.pause.changed = Changed.none := rfl
@[simp] theorem State.pause_recent : s.pause.recent =
    { Recent.none with flushed := s.recent.flushed, flushedBefore := s.recent.flushedBefore } := rfl
@[simp] theorem State.pause_freeIdx : s.pause.freeIdx = s.freeIdx + 16 := rfl

/-! ### `State.mapReg` -/

@[simp] theorem State.mapReg_x (f : SysRegs → SysRegs) : (s.mapReg f).x = s.x := rfl
@[simp] theorem State.mapReg_y (f : SysRegs → SysRegs) : (s.mapReg f).y = s.y := rfl
@[simp] theorem State.mapReg_dag (f : SysRegs → SysRegs) : (s.mapReg f).dag = s.dag := rfl
@[simp] theorem State.mapReg_dagAlt (f : SysRegs → SysRegs) : (s.mapReg f).dagAlt = s.dagAlt := rfl
@[simp] theorem State.mapReg_seq (f : SysRegs → SysRegs) : (s.mapReg f).seq = s.seq := rfl
@[simp] theorem State.mapReg_reg (f : SysRegs → SysRegs) : (s.mapReg f).reg = f s.reg := rfl
@[simp] theorem State.mapReg_changed (f : SysRegs → SysRegs) : (s.mapReg f).changed = s.changed := rfl
@[simp] theorem State.mapReg_recent (f : SysRegs → SysRegs) : (s.mapReg f).recent = s.recent := rfl
@[simp] theorem State.mapReg_shadow1 (f : SysRegs → SysRegs) : (s.mapReg f).shadow1 = s.shadow1 := rfl
@[simp] theorem State.mapReg_shadow2 (f : SysRegs → SysRegs) : (s.mapReg f).shadow2 = s.shadow2 := rfl
@[simp] theorem State.mapReg_stackBits (f : SysRegs → SysRegs) : (s.mapReg f).stackBits = s.stackBits := rfl
@[simp] theorem State.mapReg_mem (f : SysRegs → SysRegs) : (s.mapReg f).mem = s.mem := rfl
@[simp] theorem State.mapReg_iop (f : SysRegs → SysRegs) : (s.mapReg f).iop = s.iop := rfl
@[simp] theorem State.mapReg_pins (f : SysRegs → SysRegs) : (s.mapReg f).pins = s.pins := rfl
@[simp] theorem State.mapReg_inputs (f : SysRegs → SysRegs) : (s.mapReg f).inputs = s.inputs := rfl
@[simp] theorem State.mapReg_outputs (f : SysRegs → SysRegs) : (s.mapReg f).outputs = s.outputs := rfl
@[simp] theorem State.mapReg_freeIdx (f : SysRegs → SysRegs) : (s.mapReg f).freeIdx = s.freeIdx := rfl

/-! ### `State.mapSeq` -/

@[simp] theorem State.mapSeq_x (f : Sequencer → Sequencer) : (s.mapSeq f).x = s.x := rfl
@[simp] theorem State.mapSeq_y (f : Sequencer → Sequencer) : (s.mapSeq f).y = s.y := rfl
@[simp] theorem State.mapSeq_dag (f : Sequencer → Sequencer) : (s.mapSeq f).dag = s.dag := rfl
@[simp] theorem State.mapSeq_dagAlt (f : Sequencer → Sequencer) : (s.mapSeq f).dagAlt = s.dagAlt := rfl
@[simp] theorem State.mapSeq_seq (f : Sequencer → Sequencer) : (s.mapSeq f).seq = f s.seq := rfl
@[simp] theorem State.mapSeq_reg (f : Sequencer → Sequencer) : (s.mapSeq f).reg = s.reg := rfl
@[simp] theorem State.mapSeq_changed (f : Sequencer → Sequencer) : (s.mapSeq f).changed = s.changed := rfl
@[simp] theorem State.mapSeq_recent (f : Sequencer → Sequencer) : (s.mapSeq f).recent = s.recent := rfl
@[simp] theorem State.mapSeq_shadow1 (f : Sequencer → Sequencer) : (s.mapSeq f).shadow1 = s.shadow1 := rfl
@[simp] theorem State.mapSeq_shadow2 (f : Sequencer → Sequencer) : (s.mapSeq f).shadow2 = s.shadow2 := rfl
@[simp] theorem State.mapSeq_stackBits (f : Sequencer → Sequencer) : (s.mapSeq f).stackBits = s.stackBits := rfl
@[simp] theorem State.mapSeq_mem (f : Sequencer → Sequencer) : (s.mapSeq f).mem = s.mem := rfl
@[simp] theorem State.mapSeq_iop (f : Sequencer → Sequencer) : (s.mapSeq f).iop = s.iop := rfl
@[simp] theorem State.mapSeq_pins (f : Sequencer → Sequencer) : (s.mapSeq f).pins = s.pins := rfl
@[simp] theorem State.mapSeq_inputs (f : Sequencer → Sequencer) : (s.mapSeq f).inputs = s.inputs := rfl
@[simp] theorem State.mapSeq_outputs (f : Sequencer → Sequencer) : (s.mapSeq f).outputs = s.outputs := rfl
@[simp] theorem State.mapSeq_freeIdx (f : Sequencer → Sequencer) : (s.mapSeq f).freeIdx = s.freeIdx := rfl

/-! ### `State.mapIop` -/

@[simp] theorem State.mapIop_x (f : Iop → Iop) : (s.mapIop f).x = s.x := rfl
@[simp] theorem State.mapIop_y (f : Iop → Iop) : (s.mapIop f).y = s.y := rfl
@[simp] theorem State.mapIop_dag (f : Iop → Iop) : (s.mapIop f).dag = s.dag := rfl
@[simp] theorem State.mapIop_dagAlt (f : Iop → Iop) : (s.mapIop f).dagAlt = s.dagAlt := rfl
@[simp] theorem State.mapIop_seq (f : Iop → Iop) : (s.mapIop f).seq = s.seq := rfl
@[simp] theorem State.mapIop_reg (f : Iop → Iop) : (s.mapIop f).reg = s.reg := rfl
@[simp] theorem State.mapIop_changed (f : Iop → Iop) : (s.mapIop f).changed = s.changed := rfl
@[simp] theorem State.mapIop_recent (f : Iop → Iop) : (s.mapIop f).recent = s.recent := rfl
@[simp] theorem State.mapIop_shadow1 (f : Iop → Iop) : (s.mapIop f).shadow1 = s.shadow1 := rfl
@[simp] theorem State.mapIop_shadow2 (f : Iop → Iop) : (s.mapIop f).shadow2 = s.shadow2 := rfl
@[simp] theorem State.mapIop_stackBits (f : Iop → Iop) : (s.mapIop f).stackBits = s.stackBits := rfl
@[simp] theorem State.mapIop_mem (f : Iop → Iop) : (s.mapIop f).mem = s.mem := rfl
@[simp] theorem State.mapIop_iop (f : Iop → Iop) : (s.mapIop f).iop = f s.iop := rfl
@[simp] theorem State.mapIop_pins (f : Iop → Iop) : (s.mapIop f).pins = s.pins := rfl
@[simp] theorem State.mapIop_inputs (f : Iop → Iop) : (s.mapIop f).inputs = s.inputs := rfl
@[simp] theorem State.mapIop_outputs (f : Iop → Iop) : (s.mapIop f).outputs = s.outputs := rfl
@[simp] theorem State.mapIop_freeIdx (f : Iop → Iop) : (s.mapIop f).freeIdx = s.freeIdx := rfl
@[simp] theorem State.awaitBus_x : s.awaitBus.x = s.x := rfl
@[simp] theorem State.awaitBus_y : s.awaitBus.y = s.y := rfl
@[simp] theorem State.awaitBus_dag : s.awaitBus.dag = s.dag := rfl
@[simp] theorem State.awaitBus_dagAlt : s.awaitBus.dagAlt = s.dagAlt := rfl
@[simp] theorem State.awaitBus_seq : s.awaitBus.seq = s.seq := rfl
@[simp] theorem State.awaitBus_reg : s.awaitBus.reg = s.reg := rfl
@[simp] theorem State.awaitBus_changed : s.awaitBus.changed = s.changed := rfl
@[simp] theorem State.awaitBus_shadow1 : s.awaitBus.shadow1 = s.shadow1 := rfl
@[simp] theorem State.awaitBus_shadow2 : s.awaitBus.shadow2 = s.shadow2 := rfl
@[simp] theorem State.awaitBus_stackBits : s.awaitBus.stackBits = s.stackBits := rfl
@[simp] theorem State.awaitBus_mem : s.awaitBus.mem = s.mem := rfl
@[simp] theorem State.awaitBus_pins : s.awaitBus.pins = s.pins := rfl
@[simp] theorem State.awaitBus_inputs : s.awaitBus.inputs = s.inputs := rfl
@[simp] theorem State.awaitBus_outputs : s.awaitBus.outputs = s.outputs := rfl
@[simp] theorem State.awaitBus_freeIdx : s.awaitBus.freeIdx = s.freeIdx := rfl
@[simp] theorem State.awaitBus_iop : s.awaitBus.iop = s.iop := rfl
@[simp] theorem State.awaitBus_recent : s.awaitBus.recent = { s.recent with busWait := true } := rfl

/-! ### `State.mapChan` -/

@[simp] theorem State.mapChan_x (c : Fin 14) (f : Channel → Channel) : (s.mapChan c f).x = s.x := rfl
@[simp] theorem State.mapChan_y (c : Fin 14) (f : Channel → Channel) : (s.mapChan c f).y = s.y := rfl
@[simp] theorem State.mapChan_dag (c : Fin 14) (f : Channel → Channel) : (s.mapChan c f).dag = s.dag := rfl
@[simp] theorem State.mapChan_dagAlt (c : Fin 14) (f : Channel → Channel) : (s.mapChan c f).dagAlt = s.dagAlt := rfl
@[simp] theorem State.mapChan_seq (c : Fin 14) (f : Channel → Channel) : (s.mapChan c f).seq = s.seq := rfl
@[simp] theorem State.mapChan_reg (c : Fin 14) (f : Channel → Channel) : (s.mapChan c f).reg = s.reg := rfl
@[simp] theorem State.mapChan_changed (c : Fin 14) (f : Channel → Channel) : (s.mapChan c f).changed = s.changed := rfl
@[simp] theorem State.mapChan_recent (c : Fin 14) (f : Channel → Channel) : (s.mapChan c f).recent = s.recent := rfl
@[simp] theorem State.mapChan_shadow1 (c : Fin 14) (f : Channel → Channel) : (s.mapChan c f).shadow1 = s.shadow1 := rfl
@[simp] theorem State.mapChan_shadow2 (c : Fin 14) (f : Channel → Channel) : (s.mapChan c f).shadow2 = s.shadow2 := rfl
@[simp] theorem State.mapChan_stackBits (c : Fin 14) (f : Channel → Channel) : (s.mapChan c f).stackBits = s.stackBits := rfl
@[simp] theorem State.mapChan_mem (c : Fin 14) (f : Channel → Channel) : (s.mapChan c f).mem = s.mem := rfl
@[simp] theorem State.mapChan_iop (c : Fin 14) (f : Channel → Channel) : (s.mapChan c f).iop = { s.iop with chan := s.iop.chan.set c.val (f s.iop.chan[c]) c.isLt } := rfl
@[simp] theorem State.mapChan_pins (c : Fin 14) (f : Channel → Channel) : (s.mapChan c f).pins = s.pins := rfl
@[simp] theorem State.mapChan_inputs (c : Fin 14) (f : Channel → Channel) : (s.mapChan c f).inputs = s.inputs := rfl
@[simp] theorem State.mapChan_outputs (c : Fin 14) (f : Channel → Channel) : (s.mapChan c f).outputs = s.outputs := rfl
@[simp] theorem State.mapChan_freeIdx (c : Fin 14) (f : Channel → Channel) : (s.mapChan c f).freeIdx = s.freeIdx := rfl

/-! ### `State.mapSport` -/

@[simp] theorem State.mapSport_x (x : Fin 2) (f : Sport → Sport) : (s.mapSport x f).x = s.x := rfl
@[simp] theorem State.mapSport_y (x : Fin 2) (f : Sport → Sport) : (s.mapSport x f).y = s.y := rfl
@[simp] theorem State.mapSport_dag (x : Fin 2) (f : Sport → Sport) : (s.mapSport x f).dag = s.dag := rfl
@[simp] theorem State.mapSport_dagAlt (x : Fin 2) (f : Sport → Sport) : (s.mapSport x f).dagAlt = s.dagAlt := rfl
@[simp] theorem State.mapSport_seq (x : Fin 2) (f : Sport → Sport) : (s.mapSport x f).seq = s.seq := rfl
@[simp] theorem State.mapSport_reg (x : Fin 2) (f : Sport → Sport) : (s.mapSport x f).reg = s.reg := rfl
@[simp] theorem State.mapSport_changed (x : Fin 2) (f : Sport → Sport) : (s.mapSport x f).changed = s.changed := rfl
@[simp] theorem State.mapSport_recent (x : Fin 2) (f : Sport → Sport) : (s.mapSport x f).recent = s.recent := rfl
@[simp] theorem State.mapSport_shadow1 (x : Fin 2) (f : Sport → Sport) : (s.mapSport x f).shadow1 = s.shadow1 := rfl
@[simp] theorem State.mapSport_shadow2 (x : Fin 2) (f : Sport → Sport) : (s.mapSport x f).shadow2 = s.shadow2 := rfl
@[simp] theorem State.mapSport_stackBits (x : Fin 2) (f : Sport → Sport) : (s.mapSport x f).stackBits = s.stackBits := rfl
@[simp] theorem State.mapSport_mem (x : Fin 2) (f : Sport → Sport) : (s.mapSport x f).mem = s.mem := rfl
@[simp] theorem State.mapSport_pins (x : Fin 2) (f : Sport → Sport) : (s.mapSport x f).pins = s.pins := rfl
@[simp] theorem State.mapSport_inputs (x : Fin 2) (f : Sport → Sport) : (s.mapSport x f).inputs = s.inputs := rfl
@[simp] theorem State.mapSport_outputs (x : Fin 2) (f : Sport → Sport) : (s.mapSport x f).outputs = s.outputs := rfl
@[simp] theorem State.mapSport_freeIdx (x : Fin 2) (f : Sport → Sport) : (s.mapSport x f).freeIdx = s.freeIdx := rfl

/-! ### `State.note` -/

@[simp] theorem State.note_x (f : Changed → Changed) : (s.note f).x = s.x := rfl
@[simp] theorem State.note_y (f : Changed → Changed) : (s.note f).y = s.y := rfl
@[simp] theorem State.note_dag (f : Changed → Changed) : (s.note f).dag = s.dag := rfl
@[simp] theorem State.note_dagAlt (f : Changed → Changed) : (s.note f).dagAlt = s.dagAlt := rfl
@[simp] theorem State.note_seq (f : Changed → Changed) : (s.note f).seq = s.seq := rfl
@[simp] theorem State.note_reg (f : Changed → Changed) : (s.note f).reg = s.reg := rfl
@[simp] theorem State.note_changed (f : Changed → Changed) : (s.note f).changed = f s.changed := rfl
@[simp] theorem State.note_recent (f : Changed → Changed) : (s.note f).recent = s.recent := rfl
@[simp] theorem State.note_shadow1 (f : Changed → Changed) : (s.note f).shadow1 = s.shadow1 := rfl
@[simp] theorem State.note_shadow2 (f : Changed → Changed) : (s.note f).shadow2 = s.shadow2 := rfl
@[simp] theorem State.note_stackBits (f : Changed → Changed) : (s.note f).stackBits = s.stackBits := rfl
@[simp] theorem State.note_mem (f : Changed → Changed) : (s.note f).mem = s.mem := rfl
@[simp] theorem State.note_iop (f : Changed → Changed) : (s.note f).iop = s.iop := rfl
@[simp] theorem State.note_pins (f : Changed → Changed) : (s.note f).pins = s.pins := rfl
@[simp] theorem State.note_inputs (f : Changed → Changed) : (s.note f).inputs = s.inputs := rfl
@[simp] theorem State.note_outputs (f : Changed → Changed) : (s.note f).outputs = s.outputs := rfl
@[simp] theorem State.note_freeIdx (f : Changed → Changed) : (s.note f).freeIdx = s.freeIdx := rfl

/-! ### `State.output` -/

@[simp] theorem State.output_x (o : Output) : (s.output o).x = s.x := rfl
@[simp] theorem State.output_y (o : Output) : (s.output o).y = s.y := rfl
@[simp] theorem State.output_dag (o : Output) : (s.output o).dag = s.dag := rfl
@[simp] theorem State.output_dagAlt (o : Output) : (s.output o).dagAlt = s.dagAlt := rfl
@[simp] theorem State.output_seq (o : Output) : (s.output o).seq = s.seq := rfl
@[simp] theorem State.output_reg (o : Output) : (s.output o).reg = s.reg := rfl
@[simp] theorem State.output_changed (o : Output) : (s.output o).changed = s.changed := rfl
@[simp] theorem State.output_recent (o : Output) : (s.output o).recent = s.recent := rfl
@[simp] theorem State.output_shadow1 (o : Output) : (s.output o).shadow1 = s.shadow1 := rfl
@[simp] theorem State.output_shadow2 (o : Output) : (s.output o).shadow2 = s.shadow2 := rfl
@[simp] theorem State.output_stackBits (o : Output) : (s.output o).stackBits = s.stackBits := rfl
@[simp] theorem State.output_mem (o : Output) : (s.output o).mem = s.mem := rfl
@[simp] theorem State.output_iop (o : Output) : (s.output o).iop = s.iop := rfl
@[simp] theorem State.output_pins (o : Output) : (s.output o).pins = s.pins := rfl
@[simp] theorem State.output_inputs (o : Output) : (s.output o).inputs = s.inputs := rfl
@[simp] theorem State.output_outputs (o : Output) : (s.output o).outputs = o :: s.outputs := rfl
@[simp] theorem State.output_freeIdx (o : Output) : (s.output o).freeIdx = s.freeIdx := rfl

/-! ### `State.stkyxOr` -/

@[simp] theorem State.stkyxOr_x (v : W32) : (s.stkyxOr v).x = s.x := rfl
@[simp] theorem State.stkyxOr_y (v : W32) : (s.stkyxOr v).y = s.y := rfl
@[simp] theorem State.stkyxOr_dag (v : W32) : (s.stkyxOr v).dag = s.dag := rfl
@[simp] theorem State.stkyxOr_dagAlt (v : W32) : (s.stkyxOr v).dagAlt = s.dagAlt := rfl
@[simp] theorem State.stkyxOr_seq (v : W32) : (s.stkyxOr v).seq = s.seq := rfl
@[simp] theorem State.stkyxOr_reg (v : W32) : (s.stkyxOr v).reg = { s.reg with stkyx := s.reg.stkyx ||| v } := rfl
@[simp] theorem State.stkyxOr_changed (v : W32) : (s.stkyxOr v).changed = s.changed := rfl
@[simp] theorem State.stkyxOr_recent (v : W32) : (s.stkyxOr v).recent = s.recent := rfl
@[simp] theorem State.stkyxOr_shadow1 (v : W32) : (s.stkyxOr v).shadow1 = s.shadow1 := rfl
@[simp] theorem State.stkyxOr_shadow2 (v : W32) : (s.stkyxOr v).shadow2 = s.shadow2 := rfl
@[simp] theorem State.stkyxOr_stackBits (v : W32) : (s.stkyxOr v).stackBits = s.stackBits := rfl
@[simp] theorem State.stkyxOr_mem (v : W32) : (s.stkyxOr v).mem = s.mem := rfl
@[simp] theorem State.stkyxOr_iop (v : W32) : (s.stkyxOr v).iop = s.iop := rfl
@[simp] theorem State.stkyxOr_pins (v : W32) : (s.stkyxOr v).pins = s.pins := rfl
@[simp] theorem State.stkyxOr_inputs (v : W32) : (s.stkyxOr v).inputs = s.inputs := rfl
@[simp] theorem State.stkyxOr_outputs (v : W32) : (s.stkyxOr v).outputs = s.outputs := rfl
@[simp] theorem State.stkyxOr_freeIdx (v : W32) : (s.stkyxOr v).freeIdx = s.freeIdx := rfl

/-! ### `State.stackState` -/

@[simp] theorem State.stackState_x (m v : W32) : (s.stackState m v).x = s.x := rfl
@[simp] theorem State.stackState_y (m v : W32) : (s.stackState m v).y = s.y := rfl
@[simp] theorem State.stackState_dag (m v : W32) : (s.stackState m v).dag = s.dag := rfl
@[simp] theorem State.stackState_dagAlt (m v : W32) : (s.stackState m v).dagAlt = s.dagAlt := rfl
@[simp] theorem State.stackState_seq (m v : W32) : (s.stackState m v).seq = s.seq := rfl
@[simp] theorem State.stackState_reg (m v : W32) : (s.stackState m v).reg = { s.reg with stkyx := putBits s.reg.stkyx m v } := rfl
@[simp] theorem State.stackState_changed (m v : W32) : (s.stackState m v).changed = s.changed := rfl
@[simp] theorem State.stackState_recent (m v : W32) : (s.stackState m v).recent = s.recent := rfl
@[simp] theorem State.stackState_shadow1 (m v : W32) : (s.stackState m v).shadow1 = s.shadow1 := rfl
@[simp] theorem State.stackState_shadow2 (m v : W32) : (s.stackState m v).shadow2 = s.shadow2 := rfl
@[simp] theorem State.stackState_stackBits (m v : W32) : (s.stackState m v).stackBits = s.stackBits &&& ~~~m := rfl
@[simp] theorem State.stackState_mem (m v : W32) : (s.stackState m v).mem = s.mem := rfl
@[simp] theorem State.stackState_iop (m v : W32) : (s.stackState m v).iop = s.iop := rfl
@[simp] theorem State.stackState_pins (m v : W32) : (s.stackState m v).pins = s.pins := rfl
@[simp] theorem State.stackState_inputs (m v : W32) : (s.stackState m v).inputs = s.inputs := rfl
@[simp] theorem State.stackState_outputs (m v : W32) : (s.stackState m v).outputs = s.outputs := rfl
@[simp] theorem State.stackState_freeIdx (m v : W32) : (s.stackState m v).freeIdx = s.freeIdx := rfl

/-! ### `State.setCount` -/

@[simp] theorem State.setCount_x (n : Nat) (v : W32) : (s.setCount n v).x = s.x := rfl
@[simp] theorem State.setCount_y (n : Nat) (v : W32) : (s.setCount n v).y = s.y := rfl
@[simp] theorem State.setCount_dag (n : Nat) (v : W32) : (s.setCount n v).dag = s.dag := rfl
@[simp] theorem State.setCount_dagAlt (n : Nat) (v : W32) : (s.setCount n v).dagAlt = s.dagAlt := rfl
@[simp] theorem State.setCount_seq (n : Nat) (v : W32) : (s.setCount n v).seq = { s.seq with loopCount := s.seq.loopCount.setIfInBounds n v } := rfl
@[simp] theorem State.setCount_reg (n : Nat) (v : W32) : (s.setCount n v).reg = s.reg := rfl
@[simp] theorem State.setCount_changed (n : Nat) (v : W32) : (s.setCount n v).changed = s.changed := rfl
@[simp] theorem State.setCount_recent (n : Nat) (v : W32) : (s.setCount n v).recent = s.recent := rfl
@[simp] theorem State.setCount_shadow1 (n : Nat) (v : W32) : (s.setCount n v).shadow1 = s.shadow1 := rfl
@[simp] theorem State.setCount_shadow2 (n : Nat) (v : W32) : (s.setCount n v).shadow2 = s.shadow2 := rfl
@[simp] theorem State.setCount_stackBits (n : Nat) (v : W32) : (s.setCount n v).stackBits = s.stackBits := rfl
@[simp] theorem State.setCount_mem (n : Nat) (v : W32) : (s.setCount n v).mem = s.mem := rfl
@[simp] theorem State.setCount_iop (n : Nat) (v : W32) : (s.setCount n v).iop = s.iop := rfl
@[simp] theorem State.setCount_pins (n : Nat) (v : W32) : (s.setCount n v).pins = s.pins := rfl
@[simp] theorem State.setCount_inputs (n : Nat) (v : W32) : (s.setCount n v).inputs = s.inputs := rfl
@[simp] theorem State.setCount_outputs (n : Nat) (v : W32) : (s.setCount n v).outputs = s.outputs := rfl
@[simp] theorem State.setCount_freeIdx (n : Nat) (v : W32) : (s.setCount n v).freeIdx = s.freeIdx := rfl

/-! ### `State.enqueue` -/

@[simp] theorem State.enqueue_x (c : Fin 14) (v : W64) : (s.enqueue c v).x = s.x := rfl
@[simp] theorem State.enqueue_y (c : Fin 14) (v : W64) : (s.enqueue c v).y = s.y := rfl
@[simp] theorem State.enqueue_dag (c : Fin 14) (v : W64) : (s.enqueue c v).dag = s.dag := rfl
@[simp] theorem State.enqueue_dagAlt (c : Fin 14) (v : W64) : (s.enqueue c v).dagAlt = s.dagAlt := rfl
@[simp] theorem State.enqueue_seq (c : Fin 14) (v : W64) : (s.enqueue c v).seq = s.seq := rfl
@[simp] theorem State.enqueue_reg (c : Fin 14) (v : W64) : (s.enqueue c v).reg = s.reg := rfl
@[simp] theorem State.enqueue_changed (c : Fin 14) (v : W64) : (s.enqueue c v).changed = s.changed := rfl
@[simp] theorem State.enqueue_recent (c : Fin 14) (v : W64) : (s.enqueue c v).recent = s.recent := rfl
@[simp] theorem State.enqueue_shadow1 (c : Fin 14) (v : W64) : (s.enqueue c v).shadow1 = s.shadow1 := rfl
@[simp] theorem State.enqueue_shadow2 (c : Fin 14) (v : W64) : (s.enqueue c v).shadow2 = s.shadow2 := rfl
@[simp] theorem State.enqueue_stackBits (c : Fin 14) (v : W64) : (s.enqueue c v).stackBits = s.stackBits := rfl
@[simp] theorem State.enqueue_mem (c : Fin 14) (v : W64) : (s.enqueue c v).mem = s.mem := rfl
@[simp] theorem State.enqueue_pins (c : Fin 14) (v : W64) : (s.enqueue c v).pins = s.pins := rfl
@[simp] theorem State.enqueue_inputs (c : Fin 14) (v : W64) : (s.enqueue c v).inputs = s.inputs := rfl
@[simp] theorem State.enqueue_outputs (c : Fin 14) (v : W64) : (s.enqueue c v).outputs = s.outputs := rfl
@[simp] theorem State.enqueue_freeIdx (c : Fin 14) (v : W64) : (s.enqueue c v).freeIdx = s.freeIdx := rfl

/-! ### `State.dequeue` -/

@[simp] theorem State.dequeue_x (c : Fin 14) (v : W64) : (s.dequeue c v).x = s.x := rfl
@[simp] theorem State.dequeue_y (c : Fin 14) (v : W64) : (s.dequeue c v).y = s.y := rfl
@[simp] theorem State.dequeue_dag (c : Fin 14) (v : W64) : (s.dequeue c v).dag = s.dag := rfl
@[simp] theorem State.dequeue_dagAlt (c : Fin 14) (v : W64) : (s.dequeue c v).dagAlt = s.dagAlt := rfl
@[simp] theorem State.dequeue_seq (c : Fin 14) (v : W64) : (s.dequeue c v).seq = s.seq := rfl
@[simp] theorem State.dequeue_reg (c : Fin 14) (v : W64) : (s.dequeue c v).reg = s.reg := rfl
@[simp] theorem State.dequeue_changed (c : Fin 14) (v : W64) : (s.dequeue c v).changed = s.changed := rfl
@[simp] theorem State.dequeue_recent (c : Fin 14) (v : W64) : (s.dequeue c v).recent = s.recent := rfl
@[simp] theorem State.dequeue_shadow1 (c : Fin 14) (v : W64) : (s.dequeue c v).shadow1 = s.shadow1 := rfl
@[simp] theorem State.dequeue_shadow2 (c : Fin 14) (v : W64) : (s.dequeue c v).shadow2 = s.shadow2 := rfl
@[simp] theorem State.dequeue_stackBits (c : Fin 14) (v : W64) : (s.dequeue c v).stackBits = s.stackBits := rfl
@[simp] theorem State.dequeue_mem (c : Fin 14) (v : W64) : (s.dequeue c v).mem = s.mem := rfl
@[simp] theorem State.dequeue_pins (c : Fin 14) (v : W64) : (s.dequeue c v).pins = s.pins := rfl
@[simp] theorem State.dequeue_inputs (c : Fin 14) (v : W64) : (s.dequeue c v).inputs = s.inputs := rfl
@[simp] theorem State.dequeue_outputs (c : Fin 14) (v : W64) : (s.dequeue c v).outputs = s.outputs := rfl
@[simp] theorem State.dequeue_freeIdx (c : Fin 14) (v : W64) : (s.dequeue c v).freeIdx = s.freeIdx := rfl

@[simp] theorem State.start_changed : s.start.changed = Changed.none := rfl
@[simp] theorem State.start_recent : s.start.recent = { Recent.none with flushedBefore := s.recent.flushed } := rfl
@[simp] theorem State.start_freeIdx : s.start.freeIdx = s.freeIdx + 16 := rfl

/-! ### `State.setLatch` -/

@[simp] theorem State.setLatch_x (k : Irq) (b : Bool) : (s.setLatch k b).x = s.x := by unfold State.setLatch; split <;> rfl
@[simp] theorem State.setLatch_y (k : Irq) (b : Bool) : (s.setLatch k b).y = s.y := by unfold State.setLatch; split <;> rfl
@[simp] theorem State.setLatch_dag (k : Irq) (b : Bool) : (s.setLatch k b).dag = s.dag := by unfold State.setLatch; split <;> rfl
@[simp] theorem State.setLatch_dagAlt (k : Irq) (b : Bool) : (s.setLatch k b).dagAlt = s.dagAlt := by unfold State.setLatch; split <;> rfl
@[simp] theorem State.setLatch_seq (k : Irq) (b : Bool) : (s.setLatch k b).seq = s.seq := by unfold State.setLatch; split <;> rfl
@[simp] theorem State.setLatch_changed (k : Irq) (b : Bool) : (s.setLatch k b).changed = s.changed := by unfold State.setLatch; split <;> rfl
@[simp] theorem State.setLatch_recent (k : Irq) (b : Bool) : (s.setLatch k b).recent = s.recent := by unfold State.setLatch; split <;> rfl
@[simp] theorem State.setLatch_shadow1 (k : Irq) (b : Bool) : (s.setLatch k b).shadow1 = s.shadow1 := by unfold State.setLatch; split <;> rfl
@[simp] theorem State.setLatch_shadow2 (k : Irq) (b : Bool) : (s.setLatch k b).shadow2 = s.shadow2 := by unfold State.setLatch; split <;> rfl
@[simp] theorem State.setLatch_stackBits (k : Irq) (b : Bool) : (s.setLatch k b).stackBits = s.stackBits := by unfold State.setLatch; split <;> rfl
@[simp] theorem State.setLatch_mem (k : Irq) (b : Bool) : (s.setLatch k b).mem = s.mem := by unfold State.setLatch; split <;> rfl
@[simp] theorem State.setLatch_iop (k : Irq) (b : Bool) : (s.setLatch k b).iop = s.iop := by unfold State.setLatch; split <;> rfl
@[simp] theorem State.setLatch_pins (k : Irq) (b : Bool) : (s.setLatch k b).pins = s.pins := by unfold State.setLatch; split <;> rfl
@[simp] theorem State.setLatch_inputs (k : Irq) (b : Bool) : (s.setLatch k b).inputs = s.inputs := by unfold State.setLatch; split <;> rfl
@[simp] theorem State.setLatch_outputs (k : Irq) (b : Bool) : (s.setLatch k b).outputs = s.outputs := by unfold State.setLatch; split <;> rfl
@[simp] theorem State.setLatch_freeIdx (k : Irq) (b : Bool) : (s.setLatch k b).freeIdx = s.freeIdx := by unfold State.setLatch; split <;> rfl
@[simp] theorem State.setLatch_mode1 (k : Irq) (b : Bool) : (s.setLatch k b).reg.mode1 = s.reg.mode1 := by unfold State.setLatch; split <;> rfl
@[simp] theorem State.setLatch_mode2 (k : Irq) (b : Bool) : (s.setLatch k b).reg.mode2 = s.reg.mode2 := by unfold State.setLatch; split <;> rfl
@[simp] theorem State.setLatch_mmask (k : Irq) (b : Bool) : (s.setLatch k b).reg.mmask = s.reg.mmask := by unfold State.setLatch; split <;> rfl
@[simp] theorem State.setLatch_astatx (k : Irq) (b : Bool) : (s.setLatch k b).reg.astatx = s.reg.astatx := by unfold State.setLatch; split <;> rfl
@[simp] theorem State.setLatch_astaty (k : Irq) (b : Bool) : (s.setLatch k b).reg.astaty = s.reg.astaty := by unfold State.setLatch; split <;> rfl
@[simp] theorem State.setLatch_stkyx (k : Irq) (b : Bool) : (s.setLatch k b).reg.stkyx = s.reg.stkyx := by unfold State.setLatch; split <;> rfl
@[simp] theorem State.setLatch_stkyy (k : Irq) (b : Bool) : (s.setLatch k b).reg.stkyy = s.reg.stkyy := by unfold State.setLatch; split <;> rfl
@[simp] theorem State.setLatch_imask (k : Irq) (b : Bool) : (s.setLatch k b).reg.imask = s.reg.imask := by unfold State.setLatch; split <;> rfl
@[simp] theorem State.setLatch_imaskp (k : Irq) (b : Bool) : (s.setLatch k b).reg.imaskp = s.reg.imaskp := by unfold State.setLatch; split <;> rfl
@[simp] theorem State.setLatch_flags (k : Irq) (b : Bool) : (s.setLatch k b).reg.flags = s.reg.flags := by unfold State.setLatch; split <;> rfl
@[simp] theorem State.setLatch_px (k : Irq) (b : Bool) : (s.setLatch k b).reg.px = s.reg.px := by unfold State.setLatch; split <;> rfl
@[simp] theorem State.setLatch_tperiod (k : Irq) (b : Bool) : (s.setLatch k b).reg.tperiod = s.reg.tperiod := by unfold State.setLatch; split <;> rfl
@[simp] theorem State.setLatch_tcount (k : Irq) (b : Bool) : (s.setLatch k b).reg.tcount = s.reg.tcount := by unfold State.setLatch; split <;> rfl

/-! ### `State.setService` -/

@[simp] theorem State.setService_x (k : Irq) (b : Bool) : (s.setService k b).x = s.x := by unfold State.setService; split <;> rfl
@[simp] theorem State.setService_y (k : Irq) (b : Bool) : (s.setService k b).y = s.y := by unfold State.setService; split <;> rfl
@[simp] theorem State.setService_dag (k : Irq) (b : Bool) : (s.setService k b).dag = s.dag := by unfold State.setService; split <;> rfl
@[simp] theorem State.setService_dagAlt (k : Irq) (b : Bool) : (s.setService k b).dagAlt = s.dagAlt := by unfold State.setService; split <;> rfl
@[simp] theorem State.setService_seq (k : Irq) (b : Bool) : (s.setService k b).seq = s.seq := by unfold State.setService; split <;> rfl
@[simp] theorem State.setService_changed (k : Irq) (b : Bool) : (s.setService k b).changed = s.changed := by unfold State.setService; split <;> rfl
@[simp] theorem State.setService_recent (k : Irq) (b : Bool) : (s.setService k b).recent = s.recent := by unfold State.setService; split <;> rfl
@[simp] theorem State.setService_shadow1 (k : Irq) (b : Bool) : (s.setService k b).shadow1 = s.shadow1 := by unfold State.setService; split <;> rfl
@[simp] theorem State.setService_shadow2 (k : Irq) (b : Bool) : (s.setService k b).shadow2 = s.shadow2 := by unfold State.setService; split <;> rfl
@[simp] theorem State.setService_stackBits (k : Irq) (b : Bool) : (s.setService k b).stackBits = s.stackBits := by unfold State.setService; split <;> rfl
@[simp] theorem State.setService_mem (k : Irq) (b : Bool) : (s.setService k b).mem = s.mem := by unfold State.setService; split <;> rfl
@[simp] theorem State.setService_iop (k : Irq) (b : Bool) : (s.setService k b).iop = s.iop := by unfold State.setService; split <;> rfl
@[simp] theorem State.setService_pins (k : Irq) (b : Bool) : (s.setService k b).pins = s.pins := by unfold State.setService; split <;> rfl
@[simp] theorem State.setService_inputs (k : Irq) (b : Bool) : (s.setService k b).inputs = s.inputs := by unfold State.setService; split <;> rfl
@[simp] theorem State.setService_outputs (k : Irq) (b : Bool) : (s.setService k b).outputs = s.outputs := by unfold State.setService; split <;> rfl
@[simp] theorem State.setService_freeIdx (k : Irq) (b : Bool) : (s.setService k b).freeIdx = s.freeIdx := by unfold State.setService; split <;> rfl
@[simp] theorem State.setService_mode1 (k : Irq) (b : Bool) : (s.setService k b).reg.mode1 = s.reg.mode1 := by unfold State.setService; split <;> rfl
@[simp] theorem State.setService_mode2 (k : Irq) (b : Bool) : (s.setService k b).reg.mode2 = s.reg.mode2 := by unfold State.setService; split <;> rfl
@[simp] theorem State.setService_mmask (k : Irq) (b : Bool) : (s.setService k b).reg.mmask = s.reg.mmask := by unfold State.setService; split <;> rfl
@[simp] theorem State.setService_astatx (k : Irq) (b : Bool) : (s.setService k b).reg.astatx = s.reg.astatx := by unfold State.setService; split <;> rfl
@[simp] theorem State.setService_astaty (k : Irq) (b : Bool) : (s.setService k b).reg.astaty = s.reg.astaty := by unfold State.setService; split <;> rfl
@[simp] theorem State.setService_stkyx (k : Irq) (b : Bool) : (s.setService k b).reg.stkyx = s.reg.stkyx := by unfold State.setService; split <;> rfl
@[simp] theorem State.setService_stkyy (k : Irq) (b : Bool) : (s.setService k b).reg.stkyy = s.reg.stkyy := by unfold State.setService; split <;> rfl
@[simp] theorem State.setService_imask (k : Irq) (b : Bool) : (s.setService k b).reg.imask = s.reg.imask := by unfold State.setService; split <;> rfl
@[simp] theorem State.setService_irptl (k : Irq) (b : Bool) : (s.setService k b).reg.irptl = s.reg.irptl := by unfold State.setService; split <;> rfl
@[simp] theorem State.setService_flags (k : Irq) (b : Bool) : (s.setService k b).reg.flags = s.reg.flags := by unfold State.setService; split <;> rfl
@[simp] theorem State.setService_px (k : Irq) (b : Bool) : (s.setService k b).reg.px = s.reg.px := by unfold State.setService; split <;> rfl
@[simp] theorem State.setService_tperiod (k : Irq) (b : Bool) : (s.setService k b).reg.tperiod = s.reg.tperiod := by unfold State.setService; split <;> rfl
@[simp] theorem State.setService_tcount (k : Irq) (b : Bool) : (s.setService k b).reg.tcount = s.reg.tcount := by unfold State.setService; split <;> rfl

/-! ### `State.occur` -/

@[simp] theorem State.occur_x (k : Irq) : (s.occur k).x = s.x := by unfold State.occur; split <;> simp
@[simp] theorem State.occur_y (k : Irq) : (s.occur k).y = s.y := by unfold State.occur; split <;> simp
@[simp] theorem State.occur_dag (k : Irq) : (s.occur k).dag = s.dag := by unfold State.occur; split <;> simp
@[simp] theorem State.occur_dagAlt (k : Irq) : (s.occur k).dagAlt = s.dagAlt := by unfold State.occur; split <;> simp
@[simp] theorem State.occur_seq (k : Irq) : (s.occur k).seq = s.seq := by unfold State.occur; split <;> simp
@[simp] theorem State.occur_changed (k : Irq) : (s.occur k).changed = s.changed := by unfold State.occur; split <;> simp
@[simp] theorem State.occur_recent (k : Irq) : (s.occur k).recent = s.recent := by unfold State.occur; split <;> simp
@[simp] theorem State.occur_shadow1 (k : Irq) : (s.occur k).shadow1 = s.shadow1 := by unfold State.occur; split <;> simp
@[simp] theorem State.occur_shadow2 (k : Irq) : (s.occur k).shadow2 = s.shadow2 := by unfold State.occur; split <;> simp
@[simp] theorem State.occur_stackBits (k : Irq) : (s.occur k).stackBits = s.stackBits := by unfold State.occur; split <;> simp
@[simp] theorem State.occur_mem (k : Irq) : (s.occur k).mem = s.mem := by unfold State.occur; split <;> simp
@[simp] theorem State.occur_iop (k : Irq) : (s.occur k).iop = s.iop := by unfold State.occur; split <;> simp
@[simp] theorem State.occur_pins (k : Irq) : (s.occur k).pins = s.pins := by unfold State.occur; split <;> simp
@[simp] theorem State.occur_inputs (k : Irq) : (s.occur k).inputs = s.inputs := by unfold State.occur; split <;> simp
@[simp] theorem State.occur_outputs (k : Irq) : (s.occur k).outputs = s.outputs := by unfold State.occur; split <;> simp
@[simp] theorem State.occur_freeIdx (k : Irq) : (s.occur k).freeIdx = s.freeIdx := by unfold State.occur; split <;> simp
@[simp] theorem State.occur_mode1 (k : Irq) : (s.occur k).reg.mode1 = s.reg.mode1 := by unfold State.occur; split <;> simp
@[simp] theorem State.occur_mode2 (k : Irq) : (s.occur k).reg.mode2 = s.reg.mode2 := by unfold State.occur; split <;> simp
@[simp] theorem State.occur_mmask (k : Irq) : (s.occur k).reg.mmask = s.reg.mmask := by unfold State.occur; split <;> simp
@[simp] theorem State.occur_astatx (k : Irq) : (s.occur k).reg.astatx = s.reg.astatx := by unfold State.occur; split <;> simp
@[simp] theorem State.occur_astaty (k : Irq) : (s.occur k).reg.astaty = s.reg.astaty := by unfold State.occur; split <;> simp
@[simp] theorem State.occur_stkyx (k : Irq) : (s.occur k).reg.stkyx = s.reg.stkyx := by unfold State.occur; split <;> simp
@[simp] theorem State.occur_stkyy (k : Irq) : (s.occur k).reg.stkyy = s.reg.stkyy := by unfold State.occur; split <;> simp
@[simp] theorem State.occur_imask (k : Irq) : (s.occur k).reg.imask = s.reg.imask := by unfold State.occur; split <;> simp
@[simp] theorem State.occur_imaskp (k : Irq) : (s.occur k).reg.imaskp = s.reg.imaskp := by unfold State.occur; split <;> simp
@[simp] theorem State.occur_flags (k : Irq) : (s.occur k).reg.flags = s.reg.flags := by unfold State.occur; split <;> simp
@[simp] theorem State.occur_px (k : Irq) : (s.occur k).reg.px = s.reg.px := by unfold State.occur; split <;> simp
@[simp] theorem State.occur_tperiod (k : Irq) : (s.occur k).reg.tperiod = s.reg.tperiod := by unfold State.occur; split <;> simp
@[simp] theorem State.occur_tcount (k : Irq) : (s.occur k).reg.tcount = s.reg.tcount := by unfold State.occur; split <;> simp

/-! ### `State.occurIf` -/

@[simp] theorem State.occurIf_x (b : Bool) (k : Irq) : (s.occurIf b k).x = s.x := by unfold State.occurIf; split <;> simp
@[simp] theorem State.occurIf_y (b : Bool) (k : Irq) : (s.occurIf b k).y = s.y := by unfold State.occurIf; split <;> simp
@[simp] theorem State.occurIf_dag (b : Bool) (k : Irq) : (s.occurIf b k).dag = s.dag := by unfold State.occurIf; split <;> simp
@[simp] theorem State.occurIf_dagAlt (b : Bool) (k : Irq) : (s.occurIf b k).dagAlt = s.dagAlt := by unfold State.occurIf; split <;> simp
@[simp] theorem State.occurIf_seq (b : Bool) (k : Irq) : (s.occurIf b k).seq = s.seq := by unfold State.occurIf; split <;> simp
@[simp] theorem State.occurIf_changed (b : Bool) (k : Irq) : (s.occurIf b k).changed = s.changed := by unfold State.occurIf; split <;> simp
@[simp] theorem State.occurIf_recent (b : Bool) (k : Irq) : (s.occurIf b k).recent = s.recent := by unfold State.occurIf; split <;> simp
@[simp] theorem State.occurIf_shadow1 (b : Bool) (k : Irq) : (s.occurIf b k).shadow1 = s.shadow1 := by unfold State.occurIf; split <;> simp
@[simp] theorem State.occurIf_shadow2 (b : Bool) (k : Irq) : (s.occurIf b k).shadow2 = s.shadow2 := by unfold State.occurIf; split <;> simp
@[simp] theorem State.occurIf_stackBits (b : Bool) (k : Irq) : (s.occurIf b k).stackBits = s.stackBits := by unfold State.occurIf; split <;> simp
@[simp] theorem State.occurIf_mem (b : Bool) (k : Irq) : (s.occurIf b k).mem = s.mem := by unfold State.occurIf; split <;> simp
@[simp] theorem State.occurIf_iop (b : Bool) (k : Irq) : (s.occurIf b k).iop = s.iop := by unfold State.occurIf; split <;> simp
@[simp] theorem State.occurIf_pins (b : Bool) (k : Irq) : (s.occurIf b k).pins = s.pins := by unfold State.occurIf; split <;> simp
@[simp] theorem State.occurIf_inputs (b : Bool) (k : Irq) : (s.occurIf b k).inputs = s.inputs := by unfold State.occurIf; split <;> simp
@[simp] theorem State.occurIf_outputs (b : Bool) (k : Irq) : (s.occurIf b k).outputs = s.outputs := by unfold State.occurIf; split <;> simp
@[simp] theorem State.occurIf_freeIdx (b : Bool) (k : Irq) : (s.occurIf b k).freeIdx = s.freeIdx := by unfold State.occurIf; split <;> simp
@[simp] theorem State.occurIf_mode1 (b : Bool) (k : Irq) : (s.occurIf b k).reg.mode1 = s.reg.mode1 := by unfold State.occurIf; split <;> simp
@[simp] theorem State.occurIf_mode2 (b : Bool) (k : Irq) : (s.occurIf b k).reg.mode2 = s.reg.mode2 := by unfold State.occurIf; split <;> simp
@[simp] theorem State.occurIf_mmask (b : Bool) (k : Irq) : (s.occurIf b k).reg.mmask = s.reg.mmask := by unfold State.occurIf; split <;> simp
@[simp] theorem State.occurIf_astatx (b : Bool) (k : Irq) : (s.occurIf b k).reg.astatx = s.reg.astatx := by unfold State.occurIf; split <;> simp
@[simp] theorem State.occurIf_astaty (b : Bool) (k : Irq) : (s.occurIf b k).reg.astaty = s.reg.astaty := by unfold State.occurIf; split <;> simp
@[simp] theorem State.occurIf_stkyx (b : Bool) (k : Irq) : (s.occurIf b k).reg.stkyx = s.reg.stkyx := by unfold State.occurIf; split <;> simp
@[simp] theorem State.occurIf_stkyy (b : Bool) (k : Irq) : (s.occurIf b k).reg.stkyy = s.reg.stkyy := by unfold State.occurIf; split <;> simp
@[simp] theorem State.occurIf_imask (b : Bool) (k : Irq) : (s.occurIf b k).reg.imask = s.reg.imask := by unfold State.occurIf; split <;> simp
@[simp] theorem State.occurIf_imaskp (b : Bool) (k : Irq) : (s.occurIf b k).reg.imaskp = s.reg.imaskp := by unfold State.occurIf; split <;> simp
@[simp] theorem State.occurIf_flags (b : Bool) (k : Irq) : (s.occurIf b k).reg.flags = s.reg.flags := by unfold State.occurIf; split <;> simp
@[simp] theorem State.occurIf_px (b : Bool) (k : Irq) : (s.occurIf b k).reg.px = s.reg.px := by unfold State.occurIf; split <;> simp
@[simp] theorem State.occurIf_tperiod (b : Bool) (k : Irq) : (s.occurIf b k).reg.tperiod = s.reg.tperiod := by unfold State.occurIf; split <;> simp
@[simp] theorem State.occurIf_tcount (b : Bool) (k : Irq) : (s.occurIf b k).reg.tcount = s.reg.tcount := by unfold State.occurIf; split <;> simp

/-! ### `State.setPe` -/

@[simp] theorem State.setPe_dag (b : Bool) (p : ProcElem) : (s.setPe b p).dag = s.dag := by unfold State.setPe; split <;> rfl
@[simp] theorem State.setPe_dagAlt (b : Bool) (p : ProcElem) : (s.setPe b p).dagAlt = s.dagAlt := by unfold State.setPe; split <;> rfl
@[simp] theorem State.setPe_seq (b : Bool) (p : ProcElem) : (s.setPe b p).seq = s.seq := by unfold State.setPe; split <;> rfl
@[simp] theorem State.setPe_reg (b : Bool) (p : ProcElem) : (s.setPe b p).reg = s.reg := by unfold State.setPe; split <;> rfl
@[simp] theorem State.setPe_changed (b : Bool) (p : ProcElem) : (s.setPe b p).changed = s.changed := by unfold State.setPe; split <;> rfl
@[simp] theorem State.setPe_recent (b : Bool) (p : ProcElem) : (s.setPe b p).recent = s.recent := by unfold State.setPe; split <;> rfl
@[simp] theorem State.setPe_shadow1 (b : Bool) (p : ProcElem) : (s.setPe b p).shadow1 = s.shadow1 := by unfold State.setPe; split <;> rfl
@[simp] theorem State.setPe_shadow2 (b : Bool) (p : ProcElem) : (s.setPe b p).shadow2 = s.shadow2 := by unfold State.setPe; split <;> rfl
@[simp] theorem State.setPe_stackBits (b : Bool) (p : ProcElem) : (s.setPe b p).stackBits = s.stackBits := by unfold State.setPe; split <;> rfl
@[simp] theorem State.setPe_mem (b : Bool) (p : ProcElem) : (s.setPe b p).mem = s.mem := by unfold State.setPe; split <;> rfl
@[simp] theorem State.setPe_iop (b : Bool) (p : ProcElem) : (s.setPe b p).iop = s.iop := by unfold State.setPe; split <;> rfl
@[simp] theorem State.setPe_pins (b : Bool) (p : ProcElem) : (s.setPe b p).pins = s.pins := by unfold State.setPe; split <;> rfl
@[simp] theorem State.setPe_inputs (b : Bool) (p : ProcElem) : (s.setPe b p).inputs = s.inputs := by unfold State.setPe; split <;> rfl
@[simp] theorem State.setPe_outputs (b : Bool) (p : ProcElem) : (s.setPe b p).outputs = s.outputs := by unfold State.setPe; split <;> rfl
@[simp] theorem State.setPe_freeIdx (b : Bool) (p : ProcElem) : (s.setPe b p).freeIdx = s.freeIdx := by unfold State.setPe; split <;> rfl

/-! ### `State.setDreg` -/

@[simp] theorem State.setDreg_dag (b : Bool) (n : Reg) (v : W40) : (s.setDreg b n v).dag = s.dag := by simp [State.setDreg]
@[simp] theorem State.setDreg_dagAlt (b : Bool) (n : Reg) (v : W40) : (s.setDreg b n v).dagAlt = s.dagAlt := by simp [State.setDreg]
@[simp] theorem State.setDreg_seq (b : Bool) (n : Reg) (v : W40) : (s.setDreg b n v).seq = s.seq := by simp [State.setDreg]
@[simp] theorem State.setDreg_reg (b : Bool) (n : Reg) (v : W40) : (s.setDreg b n v).reg = s.reg := by simp [State.setDreg]
@[simp] theorem State.setDreg_changed (b : Bool) (n : Reg) (v : W40) : (s.setDreg b n v).changed = s.changed := by simp [State.setDreg]
@[simp] theorem State.setDreg_recent (b : Bool) (n : Reg) (v : W40) : (s.setDreg b n v).recent = s.recent := by simp [State.setDreg]
@[simp] theorem State.setDreg_shadow1 (b : Bool) (n : Reg) (v : W40) : (s.setDreg b n v).shadow1 = s.shadow1 := by simp [State.setDreg]
@[simp] theorem State.setDreg_shadow2 (b : Bool) (n : Reg) (v : W40) : (s.setDreg b n v).shadow2 = s.shadow2 := by simp [State.setDreg]
@[simp] theorem State.setDreg_stackBits (b : Bool) (n : Reg) (v : W40) : (s.setDreg b n v).stackBits = s.stackBits := by simp [State.setDreg]
@[simp] theorem State.setDreg_mem (b : Bool) (n : Reg) (v : W40) : (s.setDreg b n v).mem = s.mem := by simp [State.setDreg]
@[simp] theorem State.setDreg_iop (b : Bool) (n : Reg) (v : W40) : (s.setDreg b n v).iop = s.iop := by simp [State.setDreg]
@[simp] theorem State.setDreg_pins (b : Bool) (n : Reg) (v : W40) : (s.setDreg b n v).pins = s.pins := by simp [State.setDreg]
@[simp] theorem State.setDreg_inputs (b : Bool) (n : Reg) (v : W40) : (s.setDreg b n v).inputs = s.inputs := by simp [State.setDreg]
@[simp] theorem State.setDreg_outputs (b : Bool) (n : Reg) (v : W40) : (s.setDreg b n v).outputs = s.outputs := by simp [State.setDreg]
@[simp] theorem State.setDreg_freeIdx (b : Bool) (n : Reg) (v : W40) : (s.setDreg b n v).freeIdx = s.freeIdx := by simp [State.setDreg]

/-! ### `State.setAstat` -/

@[simp] theorem State.setAstat_x (b : Bool) (v : W32) : (s.setAstat b v).x = s.x := by unfold State.setAstat; split <;> rfl
@[simp] theorem State.setAstat_y (b : Bool) (v : W32) : (s.setAstat b v).y = s.y := by unfold State.setAstat; split <;> rfl
@[simp] theorem State.setAstat_dag (b : Bool) (v : W32) : (s.setAstat b v).dag = s.dag := by unfold State.setAstat; split <;> rfl
@[simp] theorem State.setAstat_dagAlt (b : Bool) (v : W32) : (s.setAstat b v).dagAlt = s.dagAlt := by unfold State.setAstat; split <;> rfl
@[simp] theorem State.setAstat_seq (b : Bool) (v : W32) : (s.setAstat b v).seq = s.seq := by unfold State.setAstat; split <;> rfl
@[simp] theorem State.setAstat_changed (b : Bool) (v : W32) : (s.setAstat b v).changed = s.changed := by unfold State.setAstat; split <;> rfl
@[simp] theorem State.setAstat_recent (b : Bool) (v : W32) : (s.setAstat b v).recent = s.recent := by unfold State.setAstat; split <;> rfl
@[simp] theorem State.setAstat_shadow1 (b : Bool) (v : W32) : (s.setAstat b v).shadow1 = s.shadow1 := by unfold State.setAstat; split <;> rfl
@[simp] theorem State.setAstat_shadow2 (b : Bool) (v : W32) : (s.setAstat b v).shadow2 = s.shadow2 := by unfold State.setAstat; split <;> rfl
@[simp] theorem State.setAstat_stackBits (b : Bool) (v : W32) : (s.setAstat b v).stackBits = s.stackBits := by unfold State.setAstat; split <;> rfl
@[simp] theorem State.setAstat_mem (b : Bool) (v : W32) : (s.setAstat b v).mem = s.mem := by unfold State.setAstat; split <;> rfl
@[simp] theorem State.setAstat_iop (b : Bool) (v : W32) : (s.setAstat b v).iop = s.iop := by unfold State.setAstat; split <;> rfl
@[simp] theorem State.setAstat_pins (b : Bool) (v : W32) : (s.setAstat b v).pins = s.pins := by unfold State.setAstat; split <;> rfl
@[simp] theorem State.setAstat_inputs (b : Bool) (v : W32) : (s.setAstat b v).inputs = s.inputs := by unfold State.setAstat; split <;> rfl
@[simp] theorem State.setAstat_outputs (b : Bool) (v : W32) : (s.setAstat b v).outputs = s.outputs := by unfold State.setAstat; split <;> rfl
@[simp] theorem State.setAstat_freeIdx (b : Bool) (v : W32) : (s.setAstat b v).freeIdx = s.freeIdx := by unfold State.setAstat; split <;> rfl
@[simp] theorem State.setAstat_mode1 (b : Bool) (v : W32) : (s.setAstat b v).reg.mode1 = s.reg.mode1 := by unfold State.setAstat; split <;> rfl
@[simp] theorem State.setAstat_mode2 (b : Bool) (v : W32) : (s.setAstat b v).reg.mode2 = s.reg.mode2 := by unfold State.setAstat; split <;> rfl
@[simp] theorem State.setAstat_mmask (b : Bool) (v : W32) : (s.setAstat b v).reg.mmask = s.reg.mmask := by unfold State.setAstat; split <;> rfl
@[simp] theorem State.setAstat_stkyx (b : Bool) (v : W32) : (s.setAstat b v).reg.stkyx = s.reg.stkyx := by unfold State.setAstat; split <;> rfl
@[simp] theorem State.setAstat_stkyy (b : Bool) (v : W32) : (s.setAstat b v).reg.stkyy = s.reg.stkyy := by unfold State.setAstat; split <;> rfl
@[simp] theorem State.setAstat_irptl (b : Bool) (v : W32) : (s.setAstat b v).reg.irptl = s.reg.irptl := by unfold State.setAstat; split <;> rfl
@[simp] theorem State.setAstat_imask (b : Bool) (v : W32) : (s.setAstat b v).reg.imask = s.reg.imask := by unfold State.setAstat; split <;> rfl
@[simp] theorem State.setAstat_imaskp (b : Bool) (v : W32) : (s.setAstat b v).reg.imaskp = s.reg.imaskp := by unfold State.setAstat; split <;> rfl
@[simp] theorem State.setAstat_lirptl (b : Bool) (v : W32) : (s.setAstat b v).reg.lirptl = s.reg.lirptl := by unfold State.setAstat; split <;> rfl
@[simp] theorem State.setAstat_flags (b : Bool) (v : W32) : (s.setAstat b v).reg.flags = s.reg.flags := by unfold State.setAstat; split <;> rfl
@[simp] theorem State.setAstat_px (b : Bool) (v : W32) : (s.setAstat b v).reg.px = s.reg.px := by unfold State.setAstat; split <;> rfl
@[simp] theorem State.setAstat_tperiod (b : Bool) (v : W32) : (s.setAstat b v).reg.tperiod = s.reg.tperiod := by unfold State.setAstat; split <;> rfl
@[simp] theorem State.setAstat_tcount (b : Bool) (v : W32) : (s.setAstat b v).reg.tcount = s.reg.tcount := by unfold State.setAstat; split <;> rfl

/-! ### `State.noteFlips` -/

@[simp] theorem State.noteFlips_x (b : Bool) (d : W32) : (s.noteFlips b d).x = s.x := by unfold State.noteFlips; split <;> rfl
@[simp] theorem State.noteFlips_y (b : Bool) (d : W32) : (s.noteFlips b d).y = s.y := by unfold State.noteFlips; split <;> rfl
@[simp] theorem State.noteFlips_dag (b : Bool) (d : W32) : (s.noteFlips b d).dag = s.dag := by unfold State.noteFlips; split <;> rfl
@[simp] theorem State.noteFlips_dagAlt (b : Bool) (d : W32) : (s.noteFlips b d).dagAlt = s.dagAlt := by unfold State.noteFlips; split <;> rfl
@[simp] theorem State.noteFlips_seq (b : Bool) (d : W32) : (s.noteFlips b d).seq = s.seq := by unfold State.noteFlips; split <;> rfl
@[simp] theorem State.noteFlips_reg (b : Bool) (d : W32) : (s.noteFlips b d).reg = s.reg := by unfold State.noteFlips; split <;> rfl
@[simp] theorem State.noteFlips_changed (b : Bool) (d : W32) : (s.noteFlips b d).changed = s.changed := by unfold State.noteFlips; split <;> rfl
@[simp] theorem State.noteFlips_shadow1 (b : Bool) (d : W32) : (s.noteFlips b d).shadow1 = s.shadow1 := by unfold State.noteFlips; split <;> rfl
@[simp] theorem State.noteFlips_shadow2 (b : Bool) (d : W32) : (s.noteFlips b d).shadow2 = s.shadow2 := by unfold State.noteFlips; split <;> rfl
@[simp] theorem State.noteFlips_stackBits (b : Bool) (d : W32) : (s.noteFlips b d).stackBits = s.stackBits := by unfold State.noteFlips; split <;> rfl
@[simp] theorem State.noteFlips_mem (b : Bool) (d : W32) : (s.noteFlips b d).mem = s.mem := by unfold State.noteFlips; split <;> rfl
@[simp] theorem State.noteFlips_iop (b : Bool) (d : W32) : (s.noteFlips b d).iop = s.iop := by unfold State.noteFlips; split <;> rfl
@[simp] theorem State.noteFlips_pins (b : Bool) (d : W32) : (s.noteFlips b d).pins = s.pins := by unfold State.noteFlips; split <;> rfl
@[simp] theorem State.noteFlips_inputs (b : Bool) (d : W32) : (s.noteFlips b d).inputs = s.inputs := by unfold State.noteFlips; split <;> rfl
@[simp] theorem State.noteFlips_outputs (b : Bool) (d : W32) : (s.noteFlips b d).outputs = s.outputs := by unfold State.noteFlips; split <;> rfl
@[simp] theorem State.noteFlips_freeIdx (b : Bool) (d : W32) : (s.noteFlips b d).freeIdx = s.freeIdx := by unfold State.noteFlips; split <;> rfl

/-! ### `State.orStky` -/

@[simp] theorem State.orStky_x (b : Bool) (v : W32) : (s.orStky b v).x = s.x := by unfold State.orStky; split <;> rfl
@[simp] theorem State.orStky_y (b : Bool) (v : W32) : (s.orStky b v).y = s.y := by unfold State.orStky; split <;> rfl
@[simp] theorem State.orStky_dag (b : Bool) (v : W32) : (s.orStky b v).dag = s.dag := by unfold State.orStky; split <;> rfl
@[simp] theorem State.orStky_dagAlt (b : Bool) (v : W32) : (s.orStky b v).dagAlt = s.dagAlt := by unfold State.orStky; split <;> rfl
@[simp] theorem State.orStky_seq (b : Bool) (v : W32) : (s.orStky b v).seq = s.seq := by unfold State.orStky; split <;> rfl
@[simp] theorem State.orStky_changed (b : Bool) (v : W32) : (s.orStky b v).changed = s.changed := by unfold State.orStky; split <;> rfl
@[simp] theorem State.orStky_shadow1 (b : Bool) (v : W32) : (s.orStky b v).shadow1 = s.shadow1 := by unfold State.orStky; split <;> rfl
@[simp] theorem State.orStky_shadow2 (b : Bool) (v : W32) : (s.orStky b v).shadow2 = s.shadow2 := by unfold State.orStky; split <;> rfl
@[simp] theorem State.orStky_stackBits (b : Bool) (v : W32) : (s.orStky b v).stackBits = s.stackBits := by unfold State.orStky; split <;> rfl
@[simp] theorem State.orStky_mem (b : Bool) (v : W32) : (s.orStky b v).mem = s.mem := by unfold State.orStky; split <;> rfl
@[simp] theorem State.orStky_iop (b : Bool) (v : W32) : (s.orStky b v).iop = s.iop := by unfold State.orStky; split <;> rfl
@[simp] theorem State.orStky_pins (b : Bool) (v : W32) : (s.orStky b v).pins = s.pins := by unfold State.orStky; split <;> rfl
@[simp] theorem State.orStky_inputs (b : Bool) (v : W32) : (s.orStky b v).inputs = s.inputs := by unfold State.orStky; split <;> rfl
@[simp] theorem State.orStky_outputs (b : Bool) (v : W32) : (s.orStky b v).outputs = s.outputs := by unfold State.orStky; split <;> rfl
@[simp] theorem State.orStky_freeIdx (b : Bool) (v : W32) : (s.orStky b v).freeIdx = s.freeIdx := by unfold State.orStky; split <;> rfl
@[simp] theorem State.orStky_mode1 (b : Bool) (v : W32) : (s.orStky b v).reg.mode1 = s.reg.mode1 := by unfold State.orStky; split <;> rfl
@[simp] theorem State.orStky_mode2 (b : Bool) (v : W32) : (s.orStky b v).reg.mode2 = s.reg.mode2 := by unfold State.orStky; split <;> rfl
@[simp] theorem State.orStky_mmask (b : Bool) (v : W32) : (s.orStky b v).reg.mmask = s.reg.mmask := by unfold State.orStky; split <;> rfl
@[simp] theorem State.orStky_astatx (b : Bool) (v : W32) : (s.orStky b v).reg.astatx = s.reg.astatx := by unfold State.orStky; split <;> rfl
@[simp] theorem State.orStky_astaty (b : Bool) (v : W32) : (s.orStky b v).reg.astaty = s.reg.astaty := by unfold State.orStky; split <;> rfl
@[simp] theorem State.orStky_irptl (b : Bool) (v : W32) : (s.orStky b v).reg.irptl = s.reg.irptl := by unfold State.orStky; split <;> rfl
@[simp] theorem State.orStky_imask (b : Bool) (v : W32) : (s.orStky b v).reg.imask = s.reg.imask := by unfold State.orStky; split <;> rfl
@[simp] theorem State.orStky_imaskp (b : Bool) (v : W32) : (s.orStky b v).reg.imaskp = s.reg.imaskp := by unfold State.orStky; split <;> rfl
@[simp] theorem State.orStky_lirptl (b : Bool) (v : W32) : (s.orStky b v).reg.lirptl = s.reg.lirptl := by unfold State.orStky; split <;> rfl
@[simp] theorem State.orStky_flags (b : Bool) (v : W32) : (s.orStky b v).reg.flags = s.reg.flags := by unfold State.orStky; split <;> rfl
@[simp] theorem State.orStky_px (b : Bool) (v : W32) : (s.orStky b v).reg.px = s.reg.px := by unfold State.orStky; split <;> rfl
@[simp] theorem State.orStky_tperiod (b : Bool) (v : W32) : (s.orStky b v).reg.tperiod = s.reg.tperiod := by unfold State.orStky; split <;> rfl
@[simp] theorem State.orStky_tcount (b : Bool) (v : W32) : (s.orStky b v).reg.tcount = s.reg.tcount := by unfold State.orStky; split <;> rfl

/-! ### `State.setDagReg` -/

@[simp] theorem State.setDagReg_x (k : DagKind) (n : Reg) (v : W32) : (s.setDagReg k n v).x = s.x := by unfold State.setDagReg; split <;> rfl
@[simp] theorem State.setDagReg_y (k : DagKind) (n : Reg) (v : W32) : (s.setDagReg k n v).y = s.y := by unfold State.setDagReg; split <;> rfl
@[simp] theorem State.setDagReg_seq (k : DagKind) (n : Reg) (v : W32) : (s.setDagReg k n v).seq = s.seq := by unfold State.setDagReg; split <;> rfl
@[simp] theorem State.setDagReg_reg (k : DagKind) (n : Reg) (v : W32) : (s.setDagReg k n v).reg = s.reg := by unfold State.setDagReg; split <;> rfl
@[simp] theorem State.setDagReg_changed (k : DagKind) (n : Reg) (v : W32) : (s.setDagReg k n v).changed = s.changed := by unfold State.setDagReg; split <;> rfl
@[simp] theorem State.setDagReg_recent (k : DagKind) (n : Reg) (v : W32) : (s.setDagReg k n v).recent = s.recent := by unfold State.setDagReg; split <;> rfl
@[simp] theorem State.setDagReg_shadow1 (k : DagKind) (n : Reg) (v : W32) : (s.setDagReg k n v).shadow1 = s.shadow1 := by unfold State.setDagReg; split <;> rfl
@[simp] theorem State.setDagReg_shadow2 (k : DagKind) (n : Reg) (v : W32) : (s.setDagReg k n v).shadow2 = s.shadow2 := by unfold State.setDagReg; split <;> rfl
@[simp] theorem State.setDagReg_stackBits (k : DagKind) (n : Reg) (v : W32) : (s.setDagReg k n v).stackBits = s.stackBits := by unfold State.setDagReg; split <;> rfl
@[simp] theorem State.setDagReg_mem (k : DagKind) (n : Reg) (v : W32) : (s.setDagReg k n v).mem = s.mem := by unfold State.setDagReg; split <;> rfl
@[simp] theorem State.setDagReg_iop (k : DagKind) (n : Reg) (v : W32) : (s.setDagReg k n v).iop = s.iop := by unfold State.setDagReg; split <;> rfl
@[simp] theorem State.setDagReg_pins (k : DagKind) (n : Reg) (v : W32) : (s.setDagReg k n v).pins = s.pins := by unfold State.setDagReg; split <;> rfl
@[simp] theorem State.setDagReg_inputs (k : DagKind) (n : Reg) (v : W32) : (s.setDagReg k n v).inputs = s.inputs := by unfold State.setDagReg; split <;> rfl
@[simp] theorem State.setDagReg_outputs (k : DagKind) (n : Reg) (v : W32) : (s.setDagReg k n v).outputs = s.outputs := by unfold State.setDagReg; split <;> rfl
@[simp] theorem State.setDagReg_freeIdx (k : DagKind) (n : Reg) (v : W32) : (s.setDagReg k n v).freeIdx = s.freeIdx := by unfold State.setDagReg; split <;> rfl

/-! ### Fields of a word -/

/-- Bits outside a wider mask stay. -/
theorem putBits_outside (a m v w : W32) (h : m &&& ~~~w = 0) : putBits a m v &&& ~~~w = a &&& ~~~w := by
  have hb (i : Nat) (hi : i < 32) : (m[i] && !w[i]) = false := by
    have := congrArg (fun x : W32 => x.getLsbD i) h
    simpa [hi] using this
  unfold putBits
  ext i hi
  simp only [BitVec.getElem_and, BitVec.getElem_or, BitVec.getElem_not]
  have := hb i hi
  revert this
  cases a[i] <;> cases m[i] <;> cases v[i] <;> cases w[i] <;> simp

end Sys2Proof.Machine
end

