-- ==== Sys2Proof/Laws/Outside.lean ====
section
/-!
SUPPORT. Laws/Outside.lean: what the I/O processor, the timer, the pins and the other bus masters cannot touch: the data
and address registers, the sequencer and the mode registers; and they keep memory in canonical form. One lemma per
operation.
-/
namespace Sys2Proof.Machine

/-- From `s` to `t` only memory, the I/O processor, the interrupt latches, the timer, the clock counters and what is given
to the environment can differ. -/
structure Outside (s t : State) : Prop where
  x : t.x = s.x
  y : t.y = s.y
  dag : t.dag = s.dag
  dagAlt : t.dagAlt = s.dagAlt
  seq : t.seq = s.seq
  reg : t.reg = { s.reg with
    irptl := t.reg.irptl, lirptl := t.reg.lirptl, tcount := t.reg.tcount, emuclk := t.reg.emuclk, emuclk2 := t.reg.emuclk2 }
  changed : t.changed = s.changed
  stackBits : t.stackBits = s.stackBits
  pins : t.pins = s.pins
  inputs : t.inputs = s.inputs
  freeIdx : t.freeIdx = s.freeIdx
  mem : s.mem.wf = true → t.mem.wf = true
  /-- of LIRPTL only the latches -/
  ptr : t.reg.lirptl &&& ~~~0x3F#32 = s.reg.lirptl &&& ~~~0x3F#32

namespace Outside

variable {s t : State}

theorem refl (s : State) : Outside s s := ⟨rfl, rfl, rfl, rfl, rfl, rfl, rfl, rfl, rfl, rfl, rfl, id, rfl⟩

theorem trans {u : State} (h : Outside s t) (g : Outside t u) : Outside s u where
  x := g.x.trans h.x
  y := g.y.trans h.y
  dag := g.dag.trans h.dag
  dagAlt := g.dagAlt.trans h.dagAlt
  seq := g.seq.trans h.seq
  reg := by rw [g.reg, h.reg]
  changed := g.changed.trans h.changed
  stackBits := g.stackBits.trans h.stackBits
  pins := g.pins.trans h.pins
  inputs := g.inputs.trans h.inputs
  freeIdx := g.freeIdx.trans h.freeIdx
  mem := fun w => g.mem (h.mem w)
  ptr := g.ptr.trans h.ptr

theorem iop (h : Outside s t) (i : Iop) : Outside s { t with iop := i } := { h with }

theorem recent (h : Outside s t) (r : Recent) : Outside s { t with recent := r } := { h with }

theorem mapIop (h : Outside s t) (f : Iop → Iop) : Outside s (t.mapIop f) := h.iop _

theorem mapChan (h : Outside s t) (c : Fin 14) (f : Channel → Channel) : Outside s (t.mapChan c f) := h.iop _

theorem mapSport (h : Outside s t) (x : Fin 2) (f : Sport → Sport) : Outside s (t.mapSport x f) := h.iop _

theorem enqueue (h : Outside s t) (c : Fin 14) (v : W64) : Outside s (t.enqueue c v) := h.iop _

theorem dequeue (h : Outside s t) (c : Fin 14) (v : W64) : Outside s (t.dequeue c v) := h.iop _

theorem output (h : Outside s t) (o : Output) : Outside s (t.output o) := { h with }

theorem store (h : Outside s t) (k n v : Nat) : Outside s { t with mem := t.mem.store k n v } :=
  { h with mem := fun w => Mem.store_wf k n v (h.mem w) }

theorem put (h : Outside s t) (k : Nat) (v : BitVec 8) : Outside s { t with mem := t.mem.put k v } :=
  { h with mem := fun w => Mem.put_wf (h.mem w) }

theorem setLatch (h : Outside s t) (k : Irq) (b : Bool) : Outside s (t.setLatch k b) := by
  refine h.trans ?_
  unfold State.setLatch
  split
  · rename_i n hn
    refine { refl t with reg := rfl, ptr := ?_ }
    have hb : bitAt n true &&& ~~~0x3F#32 = 0 := by
      cases k <;> simp_all [Irq.link] <;> subst hn <;> decide
    show putBits t.reg.lirptl _ _ &&& _ = _
    exact putBits_outside _ _ _ _ hb
  · exact { refl t with reg := rfl }

theorem occur (h : Outside s t) (k : Irq) : Outside s (t.occur k) := by
  unfold State.occur
  split
  · exact h
  · exact h.setLatch k true

theorem occurIf (h : Outside s t) (b : Bool) (k : Irq) : Outside s (t.occurIf b k) := by
  unfold State.occurIf
  split
  · exact h.occur k
  · exact h

theorem ite {c : Prop} [Decidable c] {u : State} (h : Outside s t) (g : Outside s u) : Outside s (if c then t else u) := by
  split <;> assumption

theorem touchExt (h : Outside s t) (a : W32) : Outside s (t.touchExt a) := by
  unfold State.touchExt
  exact ite ((h.mapIop _).recent _) h

theorem extAdvance (h : Outside s t) (c : Fin 14) (k : W32) : Outside s (t.extAdvance c k) := by
  unfold State.extAdvance
  exact h.mapChan c _

end Outside

variable {s : State}

/-! ### Buffers and registers of the I/O processor -/

theorem coreEnqueue_outside (c : Fin 14) (v : W64) : Run.Sat (s.coreEnqueue c v) (Outside s) := by
  unfold State.coreEnqueue
  refine Run.sat_ite (fun _ => Run.sat_ok ((Outside.refl s).enqueue c v)) fun _ => ?_
  exact Run.sat_ite (fun _ => Run.sat_ok ((Outside.refl s).mapChan c _)) fun _ => Run.sat_error

theorem coreDequeue_outside (c : Fin 14) : Run.Sat (s.coreDequeue c) fun p => Outside s p.2 := by
  unfold State.coreDequeue
  split
  · exact Run.sat_ok ((Outside.refl s).dequeue c _)
  · exact Run.sat_ite (fun _ => Run.sat_ok (Outside.refl s)) fun _ => Run.sat_error

theorem iopRead_outside (r : IopReg) (free : W32) : Run.Sat (s.iopRead r free) fun p => Outside s p.2 := by
  have buf (c : Fin 14) : Run.Sat (do let (v, t) ← s.coreDequeue c; .ok (narrow v free, t)) fun p : W32 × State =>
      Outside s p.2 := Run.sat_bind (coreDequeue_outside c) fun p hp => Run.sat_ok hp
  unfold State.iopRead
  split
  · exact buf _
  · exact buf _
  · exact buf _
  · split
    · exact Run.sat_bind (coreDequeue_outside _) fun p hp => Run.sat_ok hp
    · exact Run.sat_error
  · exact Run.sat_ok (Outside.refl s)

theorem writeSyscon_outside (core : Bool) (v : W32) : Run.Sat (s.writeSyscon core v) (Outside s) :=
  Run.sat_seq fun _ => Run.sat_ok (Outside.ite (((Outside.refl s).mapIop _).recent _) ((Outside.refl s).mapIop _))

theorem writeDmac_outside (core : Bool) (n : Fin 4) (v : W32) : Run.Sat (s.writeDmac core n v) (Outside s) :=
  Run.sat_seq fun _ => Run.sat_seq fun _ => Run.sat_seq fun _ => Run.sat_seq fun _ => Run.sat_seq fun _ =>
    Run.sat_ok (Outside.ite (((Outside.refl s).mapIop _).recent _) ((Outside.refl s).mapIop _))

theorem writeParam_outside (c : Fin 14) (p : Param) (v : W32) : Run.Sat (s.writeParam c p v) (Outside s) :=
  Run.sat_seq fun _ => Run.sat_ok ((Outside.refl s).mapChan c _)

theorem writeLinkGroup_outside (b : Fin 6) (o k : BitVec 10) : Run.Sat (s.writeLinkGroup b o k) (Outside s) :=
  Run.sat_seq fun _ => Run.sat_seq fun _ => Run.sat_ok ((Outside.refl s).mapIop _)

theorem writeLctl_outside (first : Fin 6) (v : W32) : Run.Sat (s.writeLctl first v) (Outside s) := by
  refine Run.sat_seq fun _ => Run.sat_bind (writeLinkGroup_outside _ _ _) fun a ha => ?_
  refine Run.sat_bind (writeLinkGroup_outside _ _ _) fun b hb => ?_
  refine Run.sat_bind (writeLinkGroup_outside _ _ _) fun c hc => ?_
  exact Run.sat_seq fun _ => Run.sat_ok (((ha.trans hb).trans hc).mapIop _)

theorem writeLar_outside (v : W32) : Run.Sat (s.writeLar v) (Outside s) :=
  Run.sat_seq fun _ => Run.sat_seq fun _ => Run.sat_seq fun _ => Run.sat_ok ((Outside.refl s).mapIop _)

theorem quietSport_outside (x : Fin 2) (p : Sport) (tx : Bool) : Outside s (s.quietSport x p tx) := by
  have h : Outside s (if s.iop.sport[x].txOn || !(tx || p.txOn) then s else
      (s.mapChan (txChan x) Channel.clear).mapSport x fun p =>
        { p with chnl := 0, tuvf := false, halfSent := false, sentOnce := false }) :=
    Outside.ite (Outside.refl s) (((Outside.refl s).mapChan _ _).mapSport _ _)
  exact Outside.ite h ((h.mapChan _ _).mapSport _ _)

theorem writeSpCtl_outside (x : Fin 2) (tx : Bool) (v : W32) : Run.Sat (s.writeSpCtl x tx v) (Outside s) :=
  Run.sat_seq fun _ => Run.sat_seq fun _ => Run.sat_seq fun _ =>
    Run.sat_ok (((((Outside.refl s).mapSport _ _).mapChan _ _).trans (quietSport_outside x _ tx)).occurIf _ _)

theorem writeTx_outside (x : Fin 2) (v : W32) : Run.Sat (s.writeTx x v) (Outside s) :=
  Run.sat_bind (coreEnqueue_outside _ _) fun _ ht => Run.sat_ok (ht.occurIf _ _)

theorem writeRx_outside (x : Fin 2) (v : W32) : Run.Sat (s.writeRx x v) (Outside s) := by
  unfold State.writeRx
  split
  · exact coreEnqueue_outside _ _
  · exact Run.sat_error

theorem writeSp_outside (x : Fin 2) (r : SpReg) (v : W32) : Run.Sat (s.writeSp x r v) (Outside s) := by
  unfold State.writeSp
  cases r <;> first
    | exact writeSpCtl_outside _ _ _
    | exact writeTx_outside _ _
    | exact writeRx_outside _ _
    | exact Run.sat_ok ((Outside.refl s).mapSport _ _)

theorem writeVirpt_outside (core : Bool) (v : W32) : Outside s (s.writeVirpt core v) := by
  have h : Outside s (s.mapIop fun i => { i with virpt := v }) := (Outside.refl s).mapIop _
  exact Outside.ite h ((h.setLatch _ _).mapIop _)

theorem iopWrite_outside (core : Bool) (r : IopReg) (v : W32) : Run.Sat (s.iopWrite core r v) (Outside s) := by
  have one (f : Iop → Iop) : Outside s (s.mapIop f) := (Outside.refl s).mapIop f
  unfold State.iopWrite
  cases r <;> first
    | exact Run.sat_ok (Outside.refl s)
    | exact Run.sat_ok (one _)
    | exact coreEnqueue_outside _ _
    | exact writeSyscon_outside _ _
    | exact Run.sat_ok (writeVirpt_outside _ _)
    | exact writeDmac_outside _ _ _
    | exact writeParam_outside _ _ _
    | exact writeLctl_outside _ _
    | exact writeLar_outside _
    | exact writeSp_outside _ _ _
    | exact Run.sat_ok ((one _).recent _)
    | exact Run.sat_seq fun _ => Run.sat_ok (one _)
    | exact Run.sat_seq fun _ => Run.sat_seq fun _ => Run.sat_ok (one _)
    | exact Run.sat_seq fun _ => Run.sat_ok (Outside.ite ((one _).recent _) (one _))

/-! ### DMA -/

theorem complete_outside (c : Fin 14) : Outside s (s.complete c) := by
  have h (f : Channel → Channel) : Outside s (s.mapChan c f) := (Outside.refl s).mapChan c f
  exact Outside.ite ((h _).occur _) (Outside.ite ((h _).occur _) ((h _).occurIf _ _))

theorem dmaMove_outside (c : Fin 14) : Run.Sat (s.dmaMove c) (Outside s) := by
  have finish (t : State) (ht : Outside s t) (h : Channel) (row : Bool) :
      Outside s (if (((t.mapChan c fun _ => h).mapIop fun i => i.rotate c).moveDone c row) then
        ((t.mapChan c fun _ => h).mapIop fun i => i.rotate c).complete c else
        (t.mapChan c fun _ => h).mapIop fun i => i.rotate c) := by
    have hu := (ht.mapChan c fun _ => h).mapIop fun i => i.rotate c
    exact Outside.ite (hu.trans (complete_outside c)) hu
  refine Run.sat_seq fun f => ?_
  dsimp only
  split
  · exact Run.sat_ok (finish _ ((Outside.refl s).enqueue c _) _ _)
  · split
    · exact Run.sat_error
    · exact Run.sat_ok (finish _ (((Outside.refl s).store _ _ _).dequeue c _) _ _)

theorem chainLoad_outside (c : Fin 14) : Outside s (s.chainLoad c) := by
  unfold State.chainLoad
  exact (Outside.refl s).mapChan c _

theorem extLoad_outside (a : W32) (bytes : Nat) : Run.Sat (s.extLoad a bytes) fun p => Outside s p.2 := by
  refine Run.sat_seq fun r => ?_
  cases r
  · exact Run.sat_ok ((Outside.refl s).touchExt a)
  · exact Run.sat_ok (Outside.refl s)
  · exact Run.sat_ok (Outside.refl s)

theorem extStore_outside (a : W32) (bytes : Nat) (v : W64) : Run.Sat (s.extStore a bytes v) (Outside s) := by
  refine Run.sat_seq fun r => ?_
  cases r
  · exact Run.sat_ok (((Outside.refl s).store _ _ _).touchExt a)
  · exact Run.sat_ok ((Outside.refl s).output _)
  · exact Run.sat_ok ((Outside.refl s).output _)

theorem feed_outside (n : Fin 4) (u : W32) : Outside s (s.feed n u) := by
  unfold State.feed
  exact (Outside.refl s).mapChan _ _

theorem extReceive_outside (n : Fin 4) : Run.Sat (s.extReceive n) fun p => Outside s p.1 := by
  refine Run.sat_seq fun z => ?_
  cases z
  · exact Run.sat_bind (extLoad_outside _ _) fun p hp => Run.sat_ok ((hp.enqueue _ _).enqueue _ _)
  · exact Run.sat_bind (extLoad_outside _ _) fun p hp => Run.sat_ok (hp.enqueue _ _)
  · exact Run.sat_bind (extLoad_outside _ _) fun p hp =>
      Run.sat_ok (Outside.ite (hp.enqueue _ _) (hp.trans (feed_outside _ _)))
  · exact Run.sat_bind (extLoad_outside _ _) fun p hp => Run.sat_ok (hp.trans (feed_outside _ _))

theorem bootByte_outside (n : Fin 4) : Outside s (s.bootByte n) := by
  unfold State.bootByte
  dsimp only
  split <;> exact (Outside.refl s).mapChan _ _

theorem extTransfer_outside (n : Fin 4) : Run.Sat (s.extTransfer n) (Outside s) := by
  have finish (t : State) (z : W32) (ht : Outside s t) (f : Channel → Channel) :
      Outside s (if ((t.extAdvance (epChan n) z).mapChan (epChan n) f).masterDone (epChan n) then
        ((t.extAdvance (epChan n) z).mapChan (epChan n) f).complete (epChan n) else
        (t.extAdvance (epChan n) z).mapChan (epChan n) f) := by
    have hu : Outside s ((t.extAdvance (epChan n) z).mapChan (epChan n) f) := (ht.extAdvance _ _).mapChan _ f
    exact Outside.ite (hu.trans (complete_outside _)) hu
  refine Run.sat_seq fun _ => ?_
  dsimp only
  refine Run.sat_seq fun _ => Run.sat_seq fun _ => ?_
  refine Run.sat_ite (fun _ => Run.sat_seq fun q => ?_) fun _ => ?_
  · refine Run.sat_ite (fun _ => Run.sat_ok (finish _ _ (((Outside.refl s).mapChan _ _).put _ _) _)) fun _ => ?_
    exact Run.sat_bind (extStore_outside _ _ _) fun w hw =>
      Run.sat_ok (finish _ _ (((Outside.refl s).mapChan _ _).trans hw) _)
  · refine Run.sat_ite (fun _ => Run.sat_ok (finish _ _ (bootByte_outside n) _)) fun _ => ?_
    exact Run.sat_bind (extReceive_outside n) fun p hp => Run.sat_ok (finish _ _ hp _)

theorem dmaAsk_outside (ch12 : Bool) : Run.Sat (s.dmaAsk ch12) (Outside s) :=
  Run.sat_seq fun _ => Run.sat_seq fun _ => Run.sat_ok ((Outside.refl s).mapChan _ _)

theorem grantIn_outside (n : Fin 4) (data : W64) : Run.Sat (s.grantIn n data) (Outside s) := by
  refine Run.sat_ite (fun _ => Run.sat_seq fun _ => Run.sat_ok (feed_outside _ _)) fun _ => ?_
  refine Run.sat_ite (fun _ => Run.sat_seq fun _ => Run.sat_ok ((Outside.refl s).mapChan _ _)) fun _ => ?_
  exact Run.sat_seq fun _ => Run.sat_ok (((Outside.refl s).enqueue _ _).enqueue _ _)

theorem outerTransfer_outside (n : Fin 4) (ch12 : Bool) (data : W64) :
    Run.Sat (s.outerTransfer n ch12 data) (Outside s) := by
  refine Run.sat_seq fun _ => Run.sat_seq fun _ => Run.sat_seq fun _ => ?_
  have finish (t : State) (z : W32) (ht : Outside s t) :
      Outside s (if ((t.extAdvance (epChan n) z).iop.chan[epChan n].ec == 0) then
        (t.extAdvance (epChan n) z).complete (epChan n) else t.extAdvance (epChan n) z) := by
    have hu : Outside s (t.extAdvance (epChan n) z) := ht.extAdvance _ _
    exact Outside.ite (hu.trans (complete_outside _)) hu
  dsimp only
  refine Run.sat_ite (fun _ => ?_) fun _ => ?_
  · exact Run.sat_bind (extStore_outside _ _ _) fun t ht => Run.sat_ok (finish _ _ ht)
  · exact Run.sat_bind (extLoad_outside _ _) fun p hp => Run.sat_ok (finish _ _ (hp.output _))

theorem dmaGrant_outside (ch12 : Bool) (data : W64) : Run.Sat (s.dmaGrant ch12 data) (Outside s) := by
  have h1 (f : Channel → Channel) : Outside s (s.mapChan (epChan (dmarOf ch12)) f) := (Outside.refl s).mapChan _ f
  refine Run.sat_seq fun _ => Run.sat_ite (fun _ => ?_) fun _ => ?_
  · exact Run.sat_mono (outerTransfer_outside _ _ _) fun t ht => (h1 _).trans ht
  · refine Run.sat_ite (fun _ => Run.sat_ite (fun _ => ?_) fun _ => ?_) fun _ => Run.sat_error
    · exact Run.sat_seq fun _ => Run.sat_ok (((h1 _).mapChan _ _).output _)
    · exact Run.sat_mono (grantIn_outside _ _) fun t ht => (h1 _).trans ht

/-! ### The timer -/

theorem expire_outside : Outside s s.expire := (((Outside.refl s).occur _).occur _).output _

theorem countClock_outside : Outside s s.countClock := { Outside.refl s with reg := rfl }

theorem timerTick_outside (fresh draw : Bool) : Outside s (s.timerTick fresh draw) := by
  have h (v : W32) : Outside s (s.mapReg fun r => { r with tcount := v }) := { Outside.refl s with reg := rfl }
  refine Outside.ite ?_ ?_
  · exact Outside.ite ((h _).trans expire_outside) (h _)
  · exact Outside.ite ((h _).trans expire_outside) (h _)

theorem extraTick_outside : Outside s s.extraTick :=
  Outside.ite ((countClock_outside.trans (timerTick_outside _ _)).recent _) countClock_outside

/-! ### Link ports and serial ports -/

theorem linkTaken_outside (b : Fin 6) : Run.Sat (s.linkTaken b) (Outside s) := by
  refine Run.sat_seq fun _ => ?_
  split
  · exact Run.sat_ok (((Outside.refl s).dequeue _ _).output _)
  · exact Run.sat_error

theorem linkArrived_outside (b : Fin 6) (word : W48) : Run.Sat (s.linkArrived b word) (Outside s) :=
  Run.sat_seq fun _ => Run.sat_ok (((Outside.refl s).enqueue _ _).mapIop _)

theorem linkPartial_outside (b : Fin 6) : Run.Sat (s.linkPartial b) (Outside s) :=
  Run.sat_seq fun _ => Run.sat_ok ((Outside.refl s).mapIop _)

theorem linkLoop_outside (t r : Fin 6) : Run.Sat (s.linkLoop t r) (Outside s) := by
  refine Run.sat_seq fun _ => ?_
  split
  · exact Run.sat_ok (((Outside.refl s).dequeue _ _).enqueue _ _)
  · exact Run.sat_error

theorem rxAppend_outside (x : Fin 2) (v : W32) : Outside s (s.rxAppend x v) := by
  unfold State.rxAppend
  exact (Outside.ite ((Outside.refl s).enqueue _ _) (((Outside.refl s).mapChan _ _).mapSport _ _)).occurIf _ _

theorem rxWord_outside (x : Fin 2) (law : Option Bool) (sign : Bool) (v : W32) : Outside s (s.rxWord x law sign v) := by
  refine Outside.ite ?_ (rxAppend_outside _ _)
  split
  · exact (Outside.refl s).mapSport _ _
  · exact ((Outside.refl s).mapSport _ _).trans (rxAppend_outside _ _)

theorem rxPlain_outside (x : Fin 2) (v : W32) : Outside s (s.rxPlain x v) := rxWord_outside _ _ _ _

theorem txWord_outside (x : Fin 2) (law : Option Bool) : Run.Sat (s.txWord x law) fun p => Outside s p.2 := by
  unfold State.txWord
  dsimp only
  split
  · exact Run.sat_error
  · have last (v : W64) (f : Sport → Sport) (b : Bool) (k : Irq) :
        Outside s (((s.dequeue (txChan x) v).mapSport x f).occurIf b k) :=
      (((Outside.refl s).dequeue _ _).mapSport _ _).occurIf _ _
    refine Run.sat_ite (fun _ => Run.sat_ite (fun _ => Run.sat_ok (last _ _ _ _)) fun _ => ?_) fun _ =>
      Run.sat_ok (last _ _ _ _)
    exact Run.sat_ok ((Outside.refl s).mapSport x fun p => { p with halfSent := true, sentOnce := true })

theorem sportSent_outside (x : Fin 2) : Run.Sat (s.sportSent x) (Outside s) := by
  refine Run.sat_seq fun _ => Run.sat_bind (txWord_outside _ _) fun p hp => ?_
  exact Run.sat_ok (Outside.ite ((hp.output _).trans (rxPlain_outside _ _)) (hp.output _))

theorem sportReceived_outside (x : Fin 2) (v : W32) : Run.Sat (s.sportReceived x v) (Outside s) :=
  Run.sat_seq fun _ => Run.sat_ok (rxPlain_outside _ _)

theorem txEmpty_outside (x : Fin 2) (law : Option Bool) : Outside s (s.txEmpty x law) :=
  ((Outside.refl s).mapSport _ _).output _

theorem sportUnderflow_outside (x : Fin 2) : Run.Sat (s.sportUnderflow x) (Outside s) :=
  Run.sat_seq fun _ => Run.sat_ok (txEmpty_outside _ _)

theorem sportSlot_outside (x : Fin 2) (v : W32) : Run.Sat (s.sportSlot x v) (Outside s) := by
  have finish (t : State) (ht : Outside s t) (b : Bool) (law : Option Bool) (sign : Bool) (f : Sport → Sport) :
      Outside s ((if b then t.rxWord x law sign v else t).mapSport x f) :=
    (Outside.ite (ht.trans (rxWord_outside _ _ _ _)) ht).mapSport _ _
  refine Run.sat_seq fun _ => ?_
  dsimp only
  refine Run.sat_ite (fun _ => Run.sat_ok (finish _ (Outside.refl s) _ _ _ _)) fun _ => ?_
  refine Run.sat_ite (fun _ => Run.sat_ok (finish _ (txEmpty_outside _ _) _ _ _ _)) fun _ => ?_
  exact Run.sat_bind (txWord_outside _ _) fun p hp => Run.sat_ok (finish _ (hp.output _) _ _ _ _)

/-! ### External memory -/

theorem setExtData_outside (a v : W32) : Run.Sat (s.setExtData a v) (Outside s) :=
  Run.sat_seq fun _ => Run.sat_ok ((Outside.refl s).store _ _ _)

theorem setExtCode_outside (a : W24) (w : W48) : Run.Sat (s.setExtCode a w) (Outside s) :=
  Run.sat_seq fun _ => Run.sat_ok ((Outside.refl s).store _ _ _)

theorem setBoot_outside (a : W32) (b : BitVec 8) : Run.Sat (s.setBoot a b) (Outside s) :=
  Run.sat_ok ((Outside.refl s).put _ _)

/-! ### The bus and the other masters -/

theorem giveBus_outside (m : BitVec 3) : Outside s (s.giveBus m) := (Outside.refl s).mapIop _

theorem synchronised_outside (m : BitVec 3) : Run.Sat (s.synchronised m) (Outside s) :=
  Run.sat_seq fun _ => Run.sat_ok (giveBus_outside m)

theorem dropRequest_outside : Run.Sat s.dropRequest (Outside s) :=
  Run.sat_seq fun _ => Run.sat_ok ((Outside.refl s).mapIop _)

theorem busTo_outside (m : BitVec 3) : Run.Sat (s.busTo m) (Outside s) :=
  Run.sat_seq fun _ => Run.sat_ok (giveBus_outside m)

theorem bcntTick_outside : Run.Sat s.bcntTick (Outside s) :=
  Run.sat_seq fun _ => Run.sat_ok ((Outside.refl s).mapIop _)

theorem hostAcquire_outside : Run.Sat s.hostAcquire (Outside s) :=
  Run.sat_seq fun _ => Run.sat_ok ((Outside.refl s).mapIop _)

theorem hostRelease_outside : Run.Sat s.hostRelease (Outside s) :=
  Run.sat_seq fun _ => Run.sat_ok ((Outside.refl s).mapIop _)

theorem pushSlave_outside (sync : Bool) (addr : BitVec 8) (v : W64) : Run.Sat (s.pushSlave sync addr v) (Outside s) :=
  Run.sat_seq fun _ => Run.sat_ok ((Outside.refl s).mapIop _)

theorem pushDirect_outside (sync : Bool) (addr : W32) (width : Nat) (v : W64) :
    Run.Sat (s.pushDirect sync addr width v) (Outside s) :=
  Run.sat_seq fun _ => Run.sat_ok ((Outside.refl s).mapIop _)

theorem latchDirect_outside : Run.Sat s.latchDirect (Outside s) := by
  refine Run.sat_seq fun _ => ?_
  split
  · exact Run.sat_ok ((Outside.refl s).mapIop _)
  · exact Run.sat_error

theorem extWriteIop_outside (sync : Bool) (addr : BitVec 8) (v : W32) : Run.Sat (s.extWriteIop sync addr v) (Outside s) :=
  Run.sat_seq fun _ => pushSlave_outside _ _ _

theorem outsideRead_outside (addr : BitVec 8) : Run.Sat (s.outsideRead addr) fun p => Outside s p.2 := by
  unfold State.outsideRead
  split
  · exact Run.sat_error
  · refine Run.sat_ite (fun _ => coreDequeue_outside _) fun _ => ?_
    exact Run.sat_bind (coreDequeue_outside _) fun p hp => Run.sat_ok hp
  · exact Run.sat_bind (iopRead_outside _ _) fun p hp => Run.sat_ok hp

theorem extReadIop_outside (addr : BitVec 8) : Run.Sat (s.extReadIop addr) (Outside s) :=
  Run.sat_seq fun _ => Run.sat_bind (outsideRead_outside addr) fun _ hp => Run.sat_ok (hp.output _)

theorem extWriteMem_outside (sync : Bool) (a : W32) (width : Nat) (v : W64) :
    Run.Sat (s.extWriteMem sync a width v) (Outside s) :=
  Run.sat_seq fun _ => pushDirect_outside _ _ _ _

theorem extReadMem_outside (a : W32) (width : Nat) : Run.Sat (s.extReadMem a width) (Outside s) :=
  Run.sat_seq fun _ => Run.sat_seq fun _ => Run.sat_ok ((Outside.refl s).output _)

theorem hostPiece_outside (a : W32) (piece : W32) : Run.Sat (s.hostPiece a piece) (Outside s) := by
  have h (f : Iop → Iop) : Outside s (s.mapIop f) := (Outside.refl s).mapIop f
  refine Run.sat_seq fun _ => ?_
  generalize packIn _ _ _ _ = p
  obtain ⟨ps, w⟩ := p
  cases w
  · exact Run.sat_ok (h _)
  · refine Run.sat_ite (fun _ => ?_) fun _ => Run.sat_seq fun _ => ?_
    · exact Run.sat_mono (pushSlave_outside _ _ _) fun _ ht => (h _).trans ht
    · exact Run.sat_mono (pushDirect_outside _ _ _ _) fun _ ht => (h _).trans ht

theorem hostWord_outside (a : W32) : Run.Sat (s.hostWord a) fun p => Outside s p.2 := by
  refine Run.sat_ite (fun _ => Run.sat_seq fun _ => outsideRead_outside _) fun _ => ?_
  exact Run.sat_seq fun _ => Run.sat_seq fun _ => Run.sat_ok (Outside.refl s)

theorem hostRead_outside (a : W32) : Run.Sat (s.hostRead a) (Outside s) := by
  refine Run.sat_seq fun _ => ?_
  dsimp only
  split
  · exact Run.sat_ok (((Outside.refl s).mapIop _).output _)
  · refine Run.sat_bind (hostWord_outside a) fun p hp => ?_
    split
    · exact Run.sat_ok ((hp.mapIop _).output _)
    · exact Run.sat_error

theorem makeSlave_outside (w : SlaveWrite) : Run.Sat (s.makeSlave w) (Outside s) := by
  unfold State.makeSlave
  split
  · exact Run.sat_error
  · exact coreEnqueue_outside _ _
  · exact iopWrite_outside _ _ _

theorem makeAccess_outside (slaveFirst : Bool) : Run.Sat (s.makeAccess slaveFirst) (Outside s) := by
  have direct (d : List DirectWrite) : Run.Sat (State.makeAccess.direct s d) (Outside s) := by
    unfold State.makeAccess.direct
    split
    · exact Run.sat_seq fun _ => Run.sat_ok (((Outside.refl s).mapIop _).store _ _ _)
    · exact Run.sat_error
  unfold State.makeAccess
  split
  · refine Run.sat_ite (fun _ => ?_) fun _ => direct _
    exact Run.sat_mono (makeSlave_outside _) fun _ ht => ((Outside.refl s).mapIop _).trans ht
  · exact direct _

theorem iopStep_outside (slaveFirst : Bool) : Run.Sat (s.iopStep slaveFirst) (Outside s) := by
  unfold State.iopStep
  split
  · exact dmaMove_outside _
  · exact Run.sat_ok (chainLoad_outside _)
  · exact makeAccess_outside _
  · exact Run.sat_error

theorem epbWrite_outside (n : Fin 4) (wide : Bool) (v : W64) : Run.Sat (s.epbWrite n wide v) (Outside s) := by
  have one (w : W64) : Outside s (s.enqueue (epChan n) w) := (Outside.refl s).enqueue _ w
  refine Run.sat_seq fun _ => Run.sat_seq fun _ => ?_
  refine Run.sat_ite (fun _ => Run.sat_ok (feed_outside _ _)) fun _ => ?_
  refine Run.sat_ite (fun _ => Run.sat_seq fun _ => Run.sat_ok (one _)) fun _ => ?_
  refine Run.sat_ite (fun _ => Run.sat_ok (one _)) fun _ => ?_
  exact Run.sat_ite (fun _ => Run.sat_seq fun _ => Run.sat_ok ((one _).enqueue _ _)) fun _ => Run.sat_ok (one _)

theorem epbRead_outside (n : Fin 4) (wide : Bool) : Run.Sat (s.epbRead n wide) (Outside s) := by
  have one (w : W64) : Outside s (s.dequeue (epChan n) w) := (Outside.refl s).dequeue _ w
  refine Run.sat_seq fun _ => Run.sat_ite (fun _ => ?_) fun _ => ?_
  · split
    · exact Run.sat_ok (((Outside.refl s).mapChan _ _).output _)
    · exact Run.sat_error
  · split
    · exact Run.sat_error
    · refine Run.sat_ite (fun _ => Run.sat_seq fun _ => Run.sat_ok ((one _).output _)) fun _ => ?_
      refine Run.sat_ite (fun _ => Run.sat_ok ((one _).output _)) fun _ => ?_
      refine Run.sat_ite (fun _ => ?_) fun _ => Run.sat_ok ((one _).output _)
      split
      · exact Run.sat_ok (((one _).dequeue _ _).output _)
      · exact Run.sat_error

end Sys2Proof.Machine
end

