-- ==== Sys2Proof/Laws/Sequencer.lean ====
section
/-!
SUPPORT. Laws/Sequencer.lean: what the stacks, the loop mechanism, the flow window, taking an interrupt and leaving it can
do, and that they keep the invariant `State.Wf`.
-/
namespace Sys2Proof.Machine

variable {s t u : State}

/-! ### The invariant -/

/-- The invariant looks at memory, the sequencer, IMASK and MODE1 only. -/
theorem State.Wf.of_eq (h : s.Wf) (hm : t.mem = s.mem) (hs : t.seq = s.seq) (hi : t.reg.imask = s.reg.imask)
    (h1 : t.reg.mode1 = s.reg.mode1) : t.Wf where
  mem := hm ▸ h.mem
  loops := hs ▸ h.loops
  statuses := hs ▸ h.statuses
  slots := hs ▸ h.slots
  pcStack := hs ▸ h.pcStack
  cache := hs ▸ h.cache
  imask := hi ▸ h.imask
  mode1 := h1 ▸ h.mode1
  saved := hs ▸ h.saved

/-- What does not touch the core keeps the invariant. -/
theorem State.Wf.outside (h : s.Wf) (o : Outside s t) : t.Wf where
  mem := o.mem h.mem
  loops := o.seq ▸ h.loops
  statuses := o.seq ▸ h.statuses
  slots := o.seq ▸ h.slots
  pcStack := o.seq ▸ h.pcStack
  cache := o.seq ▸ h.cache
  imask := by rw [o.reg]; exact h.imask
  mode1 := by rw [o.reg]; exact h.mode1
  saved := o.seq ▸ h.saved

theorem State.Wf.occur (h : s.Wf) (k : Irq) : (s.occur k).Wf := h.outside ((Outside.refl s).occur k)

theorem State.Wf.occurIf (h : s.Wf) (b : Bool) (k : Irq) : (s.occurIf b k).Wf := h.outside ((Outside.refl s).occurIf b k)

theorem State.Wf.setLatch (h : s.Wf) (k : Irq) (b : Bool) : (s.setLatch k b).Wf := h.outside ((Outside.refl s).setLatch k b)

theorem State.Wf.setService (h : s.Wf) (k : Irq) (b : Bool) : (s.setService k b).Wf :=
  h.of_eq (by simp) (by simp) (by simp) (by simp)

theorem State.Wf.stkyxOr (h : s.Wf) (v : W32) : (s.stkyxOr v).Wf := h.of_eq rfl rfl rfl rfl

theorem State.Wf.stackState (h : s.Wf) (m v : W32) : (s.stackState m v).Wf := h.of_eq rfl rfl rfl rfl

theorem State.Wf.setCount (h : s.Wf) (n : Nat) (v : W32) : (s.setCount n v).Wf := { h with }

theorem State.Wf.start (h : s.Wf) : s.start.Wf := h.of_eq rfl rfl rfl rfl

theorem State.Wf.pause (h : s.Wf) : s.pause.Wf := h.of_eq rfl rfl rfl rfl

theorem State.Wf.note (h : s.Wf) (f : Changed → Changed) : (s.note f).Wf := h.of_eq rfl rfl rfl rfl

theorem State.Wf.iop (h : s.Wf) (i : Iop) : State.Wf { s with iop := i } := h.of_eq rfl rfl rfl rfl

theorem State.Wf.recent (h : s.Wf) (r : Recent) : State.Wf { s with recent := r } := h.of_eq rfl rfl rfl rfl

theorem State.Wf.changed (h : s.Wf) (c : Changed) : State.Wf { s with changed := c } := h.of_eq rfl rfl rfl rfl

theorem State.Wf.inputs (h : s.Wf) (l : List Event) : State.Wf { s with inputs := l } := h.of_eq rfl rfl rfl rfl

/-! ### Pushing and popping -/

theorem State.Wf.pushPc (h : s.Wf) (v : W24) : (s.pushPc v).Wf := by
  unfold State.pushPc
  apply State.Wf.occurIf
  apply State.Wf.stackState
  by_cases hp : s.seq.pcstkp.toNat ≥ 30
  · simp only [hp, if_true]
    exact { h with pcStack := fun _ => rfl }
  · simp only [hp, if_false]
    refine { h with pcStack := fun hq => ?_ }
    have hq : s.seq.pcstkp + 1 = 31 := hq
    exact absurd hp (by bv_omega)

/-- A pop of the PC stack answers exactly without overflow and with an entry, and takes that entry. -/
theorem State.popPc_eq_ok : s.popPc = .ok t ↔ s.seq.stackOverflow = false ∧ s.seq.pcstkp ≠ 0 ∧
    t = ({ s with seq := { s.seq with pcstkp := s.seq.pcstkp - 1 } }).stackState 0x00600000
      (bitAt 22 (s.seq.pcstkp - 1 == 0)) := by
  unfold State.popPc
  simp only [Run.bind_eq_ok, need_eq_ok, Except.ok.injEq, Bool.not_eq_true', bne_iff_ne, ne_eq, exists_const,
    eq_comm (a := t)]

theorem State.Wf.popPc (h : s.Wf) (e : s.popPc = .ok t) : t.Wf := by
  obtain ⟨ho, hn, rfl⟩ := State.popPc_eq_ok.1 e
  apply State.Wf.stackState
  refine { h with pcStack := fun hq => absurd ?_ hn }
  have hp : s.seq.pcstkp - 1 = 31 := hq
  have : s.seq.pcstkp = 32#5 := by rw [← sub_add_cancel s.seq.pcstkp 1, hp]; rfl
  exact this

theorem State.Wf.pushLoop (h : s.Wf) (a c : W32) : (s.pushLoop a c).Wf := by
  unfold State.pushLoop
  dsimp only
  split
  · refine State.Wf.occur (State.Wf.stackState (State.Wf.stkyxOr ?_ _) _ _) _
    exact { h with pcStack := fun _ => rfl }
  · refine State.Wf.stackState ?_ _ _
    refine { h with loops := ?_ }
    show s.seq.loopDepth + 1 ≤ 6
    omega

/-- A pop of the loop stacks answers exactly without overflow and in a loop, and takes their top. -/
theorem State.popLoop_eq_ok : s.popLoop = .ok t ↔ s.seq.stackOverflow = false ∧ s.looping = true ∧
    t = ({ s with seq := { s.seq with loopDepth := s.seq.loopDepth - 1 } }).stackState 0x04000000
      (bitAt 26 (s.seq.loopDepth - 1 == 0)) := by
  unfold State.popLoop
  simp only [Run.bind_eq_ok, need_eq_ok, Except.ok.injEq, Bool.not_eq_true', exists_const, eq_comm (a := t)]

theorem State.Wf.popLoop (h : s.Wf) (e : s.popLoop = .ok t) : t.Wf := by
  obtain ⟨-, -, rfl⟩ := State.popLoop_eq_ok.1 e
  apply State.Wf.stackState
  refine { h with loops := ?_ }
  have := h.loops
  show s.seq.loopDepth - 1 ≤ 6
  omega

/-- A push of the status stack, before MODE1 is cleared, keeps all but the status stack and STKYx. -/
theorem State.Wf.pushSts (h : s.Wf) (m : W32) : (s.pushSts m).Wf := by
  unfold State.pushSts
  dsimp only
  have clear (v : State) (hv : v.Wf) :
      State.Wf { v with reg := { v.reg with mode1 := v.reg.mode1 &&& ~~~m } } := by
    have h1 : v.reg.mode1 &&& ~~~m &&& ~~~mode1Bits = 0 := by
      rw [BitVec.and_assoc, BitVec.and_comm (~~~m), ← BitVec.and_assoc, hv.mode1]
      simp
    exact { hv with mode1 := h1 }
  apply clear
  apply State.Wf.stackState
  split
  · refine State.Wf.occur (State.Wf.stkyxOr ?_ _) _
    exact { h with pcStack := fun _ => rfl }
  · refine { h with statuses := ?_, saved := ?_ }
    · show (_ :: s.seq.statusStack).length ≤ 15
      simp only [List.length_cons]
      omega
    · intro e he
      rcases List.mem_cons.1 he with rfl | he
      · exact h.mode1
      · exact h.saved e he

theorem State.Wf.noteStatus (h : t.Wf) (s : State) : (t.noteStatus s).Wf := h.of_eq rfl rfl rfl rfl

/-- The state after a pop of the entry `e` that leaves `rest`. -/
def State.restore (s : State) (e : StatusEntry) (rest : List StatusEntry) : State :=
  { s with
    seq := { s.seq with statusStack := rest }
    reg := { s.reg with astatx := e.astatx, astaty := e.astaty, mode1 := e.mode1 } }

/-- A pop of the status stack answers exactly without overflow and with an entry, which it restores. -/
theorem State.popSts_eq_ok : s.popSts = .ok t ↔ s.seq.stackOverflow = false ∧ ∃ e rest, s.seq.statusStack = e :: rest ∧
    t = ((s.restore e rest).stackState 0x01000000 (bitAt 24 rest.isEmpty)).noteStatus s := by
  unfold State.popSts
  simp only [Run.bind_eq_ok, need_eq_ok, Bool.not_eq_true', exists_const]
  refine and_congr_right fun _ => ?_
  cases s.seq.statusStack with
  | nil => simp
  | cons e rest =>
    constructor
    · intro h
      exact ⟨e, rest, rfl, (Except.ok.inj h).symm⟩
    · rintro ⟨e', rest', h, rfl⟩
      obtain ⟨rfl, rfl⟩ := List.cons.inj h
      rfl

theorem State.Wf.restore (h : s.Wf) {e : StatusEntry} {rest : List StatusEntry} (he : s.seq.statusStack = e :: rest) :
    (s.restore e rest).Wf := by
  have h1 : rest.length ≤ 15 := by have := h.statuses; rw [he] at this; exact Nat.le_of_succ_le this
  have h2 : ∀ e' ∈ rest, e'.mode1 &&& ~~~mode1Bits = 0 := fun e' he' => h.saved e' (he ▸ List.mem_cons_of_mem _ he')
  have h3 : e.mode1 &&& ~~~mode1Bits = 0 := h.saved e (he ▸ List.mem_cons_self)
  exact { h with statuses := h1, saved := h2, mode1 := h3 }

theorem State.Wf.popSts (h : s.Wf) (e : s.popSts = .ok t) : t.Wf := by
  obtain ⟨-, e, rest, he, rfl⟩ := State.popSts_eq_ok.1 e
  exact ((h.restore he).stackState _ _).noteStatus s

/-! ### Taking an interrupt and leaving it -/

theorem State.Wf.enter (h : s.Wf) (k : Irq) (m : W32) : (s.enter k m).Wf := by
  have h1 := ((h.setLatch k false).setService k true).pushPc s.seq.pc
  have h2 := h1.pushSts m
  unfold State.enter
  dsimp only
  split
  · exact { h2 with slots := Nat.zero_le 2 }
  · exact { h1 with slots := Nat.zero_le 2 }

theorem State.Wf.leave (h : s.Wf) : Run.Sat s.leave State.Wf := by
  unfold State.leave
  split
  · exact Run.sat_ok h
  · have fin (k : Irq) (t : State) (ht : t.Wf) : Run.Sat (.ok (if k == .virpti then
        { t.setService k false with iop := { (t.setService k false).iop with vipd := false } }
        else t.setService k false) : Run State) State.Wf := by
      refine Run.sat_ok ?_
      split
      · exact (ht.setService k false).iop _
      · exact ht.setService k false
    dsimp only
    split
    · exact Run.sat_bind (fun _ e => h.popSts e) (fin _)
    · exact fin _ _ h

/-! ### The flow of a step -/

theorem State.Wf.noteExit (h : t.Wf) : (s.noteExit t).Wf := by
  unfold State.noteExit
  split
  · exact { h with }
  · exact h

theorem State.Wf.endLoop (h : t.Wf) : Run.Sat (s.endLoop t) State.Wf := by
  refine Run.sat_bind (fun _ e => h.popLoop e) fun a ha => Run.sat_bind (fun _ e => ha.popPc e) fun b hb => ?_
  refine Run.sat_ok (State.Wf.noteExit ?_)
  split
  · exact hb.setCount _ _
  · exact hb

theorem State.Wf.loopStep (h : t.Wf) : Run.Sat (s.loopStep t) State.Wf := by
  unfold State.loopStep
  split
  · exact Run.sat_ok h
  · exact Run.sat_ok (h.setCount _ _)
  · exact Run.sat_ok h
  · exact Run.sat_ok (h.setCount _ _)
  · exact h.endLoop
  · exact h.endLoop

/-- The state that an instruction writes its results to. -/
theorem State.Wf.begin (h : s.Wf) : Run.Sat s.begin State.Wf := Run.sat_seq fun _ => h.start.loopStep

/-- Where the window goes does not touch the stacks, and leaves two delay slots at most. -/
theorem State.Wf.moved (h : t.Wf) (nf : W24) (c : Changed) {q : Sequencer} (hq : q = { t.seq with prevKind := .other }.slot) :
    State.Wf { t with changed := c, seq := (s.goOn nf q).keepPasses } := by
  have hs : t.seq.dbSlots - 1 ≤ 2 := by have := h.slots; omega
  subst hq
  unfold State.goOn
  split <;> exact { h with slots := hs }

/-- A new window keeps the invariant if it keeps the stacks and the delay slots. -/
theorem State.Wf.window (h : t.Wf) (nf : W24) (fl : Flow) : Run.Sat (s.window nf fl t) State.Wf := by
  have hs : t.seq.dbSlots - 1 ≤ 2 := by have := h.slots; omega
  unfold State.window
  dsimp only
  split
  · exact Run.sat_ok { h with slots := hs }
  · exact Run.sat_seq fun _ => Run.sat_ok { h with slots := Nat.le_refl 2 }
  · exact Run.sat_seq fun _ => Run.sat_ok { h with slots := hs }
  · exact Run.sat_seq fun _ => Run.sat_ok (h.moved nf t.changed rfl)

/-- The flow of a step keeps the invariant if what the instruction asks does. -/
theorem State.Wf.flow {ask : W24 → State → Run (State × Flow)} (h : t.Wf)
    (ha : ∀ f v, v.Wf → Run.Sat (ask f v) fun p => p.1.Wf) : Run.Sat (s.flow t ask) State.Wf :=
  Run.sat_bind (ha _ t h) fun _ hp => State.Wf.window hp _ _

theorem State.Wf.advance (h : t.Wf) : Run.Sat (s.advance t) State.Wf :=
  h.flow fun _ _ hv => Run.sat_ok hv

end Sys2Proof.Machine
end

