-- ==== Sys2Proof/Laws/Access.lean ====
section
/-!
SUPPORT. Laws/Access.lean: register writes, memory accesses and the compute part keep the invariant `State.Wf`.
-/
namespace Sys2Proof.Machine

variable {s t u : State}

/-! ### Registers -/

theorem State.Wf.setPe (h : t.Wf) (y : Bool) (p : ProcElem) : (t.setPe y p).Wf :=
  h.of_eq (by simp) (by simp) (by simp) (by simp)

theorem State.Wf.setDreg (h : t.Wf) (y : Bool) (n : Reg) (v : W40) : (t.setDreg y n v).Wf := h.setPe _ _

theorem State.Wf.setAstat (h : t.Wf) (y : Bool) (v : W32) : (t.setAstat y v).Wf :=
  h.of_eq (by simp) (by simp) (by simp) (by simp)

theorem State.Wf.noteFlips (h : t.Wf) (y : Bool) (d : W32) : (t.noteFlips y d).Wf :=
  h.of_eq (by simp) (by simp) (by simp) (by simp)

theorem State.Wf.orStky (h : t.Wf) (y : Bool) (v : W32) : (t.orStky y v).Wf :=
  h.of_eq (by simp) (by simp) (by simp) (by simp)

theorem State.Wf.setDagReg (h : t.Wf) (k : DagKind) (n : Reg) (v : W32) : (t.setDagReg k n v).Wf :=
  h.of_eq (by simp) (by simp) (by simp) (by simp)

theorem State.Wf.mapReg (h : t.Wf) (f : SysRegs → SysRegs) (h1 : (f t.reg).mode1 = t.reg.mode1)
    (hi : (f t.reg).imask = t.reg.imask) : (t.mapReg f).Wf := h.of_eq rfl rfl hi h1

theorem SysRegs.hold_mode1 (r : SysRegs) : r.hold.mode1 = r.mode1 := by unfold SysRegs.hold; split <;> rfl

theorem SysRegs.hold_imask (r : SysRegs) : r.hold.imask = r.imask := by unfold SysRegs.hold; split <;> rfl

theorem State.Wf.holdLatches (h : t.Wf) : t.holdLatches.Wf :=
  h.mapReg _ (SysRegs.hold_mode1 _) (SysRegs.hold_imask _)

theorem State.Wf.writeStkyx (h : t.Wf) (v : W32) : (t.writeStkyx v).Wf := by
  unfold State.writeStkyx
  dsimp only
  split <;> exact h.of_eq rfl rfl rfl rfl

theorem State.Wf.writeStkyy (h : t.Wf) (v : W32) : (t.writeStkyy v).Wf := h.of_eq rfl rfl rfl rfl

theorem State.Wf.writeAstat (h : t.Wf) (y : Bool) (v : W32) : (t.writeAstat y v).Wf := by
  unfold State.writeAstat
  split <;> exact h.of_eq rfl rfl rfl rfl

/-- A program write of a system register keeps the invariant: MODE1 takes no reserved bit, IMASK keeps its two low bits. -/
theorem State.Wf.writeSys (h : t.Wf) (k : SReg) (v : W32) : Run.Sat (t.writeSys k v) State.Wf := by
  have plain (g : Changed → Changed) (f : SysRegs → SysRegs) (h1 : (f t.reg).mode1 = t.reg.mode1)
      (hi : (f t.reg).imask = t.reg.imask) : Run.Sat (.ok ((t.note g).mapReg f) : Run State) State.Wf :=
    Run.sat_ok ((h.note g).mapReg f h1 hi)
  unfold State.writeSys
  cases k
  case mode1 =>
    refine Run.sat_bind (P := fun _ => v &&& ~~~mode1Bits = 0) (fun _ e => ?_) fun _ hv => Run.sat_ok ?_
    · simpa using need_eq_ok.1 e
    · exact { h with mode1 := hv }
  case imask =>
    refine Run.sat_seq fun _ => Run.sat_ok ?_
    have hi : (v ||| 3) &&& 3 = (3 : W32) := by
      ext i
      simp only [BitVec.getElem_and, BitVec.getElem_or]
      cases v[i] <;> simp
    exact { h with imask := hi }
  case irptl =>
    exact Run.sat_seq fun _ => Run.sat_seq fun _ => plain _ _ (SysRegs.hold_mode1 _) (SysRegs.hold_imask _)
  case lirptl =>
    exact Run.sat_seq fun _ => Run.sat_seq fun _ => plain _ _ (SysRegs.hold_mode1 _) (SysRegs.hold_imask _)
  case imaskp => exact Run.sat_seq fun _ => Run.sat_ok h
  case stkyx => exact Run.sat_seq fun _ => Run.sat_ok (h.writeStkyx v)
  case stkyy => exact Run.sat_seq fun _ => Run.sat_ok (h.writeStkyy v)
  case astatx => exact Run.sat_seq fun _ => Run.sat_ok (h.writeAstat false v)
  case astaty => exact Run.sat_seq fun _ => Run.sat_ok (h.writeAstat true v)
  all_goals first
    | exact Run.sat_ok (h.mapReg _ rfl rfl)
    | exact plain _ _ rfl rfl
    | exact Run.sat_seq fun _ => plain _ _ rfl rfl

theorem State.Wf.writePcstkp (h : t.Wf) (p : BitVec 5) : (t.writePcstkp p).Wf := by
  unfold State.writePcstkp
  split
  · exact h.recent _
  · refine State.Wf.occurIf (State.Wf.recent (State.Wf.stackState ?_ _ _) _) _ _
    have hp : p = 31 → (t.seq.stackOverflow || p == 31) = true := by rintro rfl; simp
    exact { h with pcStack := hp }

theorem State.Wf.writeLaddr (h : t.Wf) (v : W32) : Run.Sat (t.writeLaddr v) State.Wf := by
  unfold State.writeLaddr
  split
  · exact Run.sat_ok h
  · exact Run.sat_seq fun _ => Run.sat_ok { h with }

theorem State.Wf.writeCurlcntr (h : t.Wf) (v : W32) : (t.writeCurlcntr v).Wf := by
  unfold State.writeCurlcntr
  split
  · exact h.setCount _ _
  · exact h

theorem State.Wf.writePcstk (h : t.Wf) (v : W24) : (t.writePcstk v).Wf := by
  unfold State.writePcstk
  split
  · exact h
  · exact { h with }

/-- A write of any universal register keeps the invariant. -/
theorem State.Wf.write32 (h : t.Wf) (r : UReg) (v : W32) : Run.Sat (t.write32 r v) State.Wf := by
  unfold State.write32
  cases r <;> first
    | exact Run.sat_ok h
    | exact Run.sat_ok (h.setDreg _ _ _)
    | exact Run.sat_ok (h.setDagReg _ _ _)
    | exact Run.sat_ok (h.writePcstk _)
    | exact Run.sat_ok (h.writePcstkp _)
    | exact h.writeLaddr _
    | exact Run.sat_ok (h.writeCurlcntr _)
    | exact Run.sat_ok (h.setCount _ _)
    | exact Run.sat_ok (h.mapReg _ rfl rfl)
    | exact Run.sat_ok ((h.mapReg _ rfl rfl).recent _)
    | exact h.writeSys _ _

theorem State.Wf.write40 (h : t.Wf) (r : UReg) (v : W40) (wide : Bool) : Run.Sat (t.write40 r v wide) State.Wf := by
  unfold State.write40
  split
  · exact Run.sat_ok (h.setDreg _ _ _)
  · exact Run.sat_ok (h.setDreg _ _ _)
  · exact Run.sat_ok (h.mapReg _ rfl rfl)
  · exact h.write32 _ _

/-! ### Index registers and words of memory -/

theorem State.Wf.wrapEvent (h : t.Wf) (i : Reg) : (t.wrapEvent i).Wf := by
  unfold State.wrapEvent
  split
  · exact (h.stkyxOr _).occur _
  · split
    · exact (h.stkyxOr _).occur _
    · exact h

theorem State.Wf.updateIndex (h : t.Wf) (i : Reg) (m : W32) (always : Bool) :
    Run.Sat (s.updateIndex t i m always) State.Wf := by
  have last : Run.Sat (do
      need (!s.circular i always || circOk (s.dagReg .i i) (s.dagReg .b i) (s.dagReg .l i) m) .circularBufferRange
      .ok (t.setDagReg .i i (s.indexAfter i m always))) State.Wf := Run.sat_seq fun _ => Run.sat_ok (h.setDagReg _ _ _)
  exact Run.sat_seq fun _ => Run.sat_ite (fun _ => Run.sat_seq fun _ => last) fun _ => last

theorem State.Wf.reportWrap (h : t.Wf) (i : Reg) (m : W32) (always : Bool) : (s.reportWrap t i m always).Wf := by
  unfold State.reportWrap
  split
  · exact h.wrapEvent i
  · exact h

theorem State.Wf.modifyIndex (h : t.Wf) (i : Reg) (m : W32) (always : Bool) :
    Run.Sat (s.modifyIndex t i m always) State.Wf :=
  Run.sat_bind (h.updateIndex i m always) fun _ hu => Run.sat_ok (hu.reportWrap i m always)

theorem State.Wf.postModify (h : t.Wf) (m : AddrMode) : Run.Sat (s.postModify t m) State.Wf := by
  unfold State.postModify
  split
  · exact h.updateIndex _ _ _
  · exact Run.sat_ok h

theorem State.Wf.postReport (h : t.Wf) (m : AddrMode) : (s.postReport t m).Wf := by
  unfold State.postReport
  split
  · exact h.reportWrap _ _ _
  · exact h

theorem State.Wf.touchExt (h : t.Wf) (a : W32) : (t.touchExt a).Wf := h.outside ((Outside.refl t).touchExt a)

theorem State.Wf.detect (h : t.Wf) (a : W32) (lw : Bool) : Run.Sat (s.detect t a lw) State.Wf :=
  Run.sat_seq fun _ => Run.sat_seq fun _ => Run.sat_ok (h.stkyxOr _)

theorem State.Wf.readWord (h : t.Wf) (l : Loc) (site : Nat) : Run.Sat (s.readWord t l site) fun p => p.2.Wf := by
  unfold State.readWord
  split
  · exact Run.sat_seq fun _ => Run.sat_ok h
  · exact Run.sat_seq fun _ => Run.sat_ok (h.touchExt _)
  · exact Run.sat_seq fun _ => Run.sat_ok h
  · exact Run.sat_ok h
  · exact Run.sat_ok h

theorem State.Wf.store (h : t.Wf) (k n v : Nat) (m : List WriteMark) :
    State.Wf { t with mem := t.mem.store k n v, shadow1 := m } := { h with mem := Mem.store_wf k n v h.mem }

theorem State.Wf.output (h : t.Wf) (o : Output) : (t.output o).Wf := h.of_eq rfl rfl rfl rfl

theorem State.Wf.writeWord (h : t.Wf) (l : Loc) (v : W64) : Run.Sat (s.writeWord t l v) State.Wf := by
  unfold State.writeWord
  split
  · refine Run.sat_seq fun _ => ?_
    exact Run.sat_ite (fun _ => Run.sat_seq fun _ => Run.sat_ok (h.store _ _ _ _)) fun _ => Run.sat_ok (h.store _ _ _ _)
  · exact Run.sat_seq fun _ => Run.sat_ok (State.Wf.touchExt (h.outside ((Outside.refl t).store _ _ _)) _)
  · exact Run.sat_seq fun _ => Run.sat_ok h
  · exact Run.sat_ok h
  · exact Run.sat_ok h

theorem State.Wf.sameAccess (h : t.Wf) (u : State) : (u.sameAccess t).Wf := h.outside (((Outside.refl t).mapIop _).recent _)

theorem State.Wf.send (h : t.Wf) (l : Loc) (v : W64) (w : Option W64) : (t.send l v w).Wf := by
  unfold State.send
  split
  · exact h
  · split
    · exact h.output _
    · split
      · exact (h.output _).output _
      · exact h.output _

theorem State.Wf.readIop (h : t.Wf) (a : BitVec 8) (px pair : Bool) :
    Run.Sat (s.readIop t a px pair) fun p => p.2.2.Wf := by
  refine Run.sat_seq fun r => ?_
  dsimp only
  refine Run.sat_ite (fun _ => ?_) fun _ => ?_
  · exact Run.sat_bind (iopRead_outside _ _) fun p hp => Run.sat_ok (h.outside hp)
  · exact Run.sat_bind (coreDequeue_outside _) fun p hp => Run.sat_ok (h.outside hp)

theorem State.Wf.writeIop (h : t.Wf) (a : BitVec 8) (px pair : Bool) (f : Nat → W64) :
    Run.Sat (s.writeIop t a px pair f) State.Wf := by
  refine Run.sat_seq fun r => ?_
  dsimp only
  refine Run.sat_ite (fun _ => ?_) fun _ => ?_
  · exact Run.sat_bind (iopWrite_outside _ _ _) fun _ o => Run.sat_ok ((h.outside o).recent _)
  · exact Run.sat_bind (coreEnqueue_outside _ _) fun _ o => Run.sat_ok ((h.outside o).recent _)

/-! ### Transfers -/

theorem State.Wf.putLoaded (h : t.Wf) (m : W32) (x : Loaded) : Run.Sat (t.putLoaded m x) State.Wf := by
  unfold State.putLoaded
  split
  · exact h.write32 _ _
  · split
    · exact Run.sat_ok (h.mapReg _ rfl rfl)
    · exact Run.sat_ok (h.setDreg _ _ _)
    · exact Run.sat_ok (h.setDreg _ _ _)
    · exact h.write32 _ _
  · split
    · exact Run.sat_ok (h.mapReg _ rfl rfl)
    · refine Run.sat_bind (h.write32 _ _) fun v hv => ?_
      split
      · exact hv.write32 _ _
      · exact Run.sat_ok hv
  · split
    · exact Run.sat_ok (h.mapReg _ rfl rfl)
    · exact h.write32 _ _

theorem State.Wf.putAll (h : t.Wf) (m : W32) (xs : List Loaded) : Run.Sat (t.putAll m xs) State.Wf := by
  induction xs generalizing t with
  | nil => exact Run.sat_ok h
  | cons x xs ih => exact Run.sat_bind (h.putLoaded m x) fun v hv => ih hv

theorem State.Wf.storeReg (h : t.Wf) (d : Datum) (l : Loc) (lw : Bool) : Run.Sat (s.storeReg t d l lw) State.Wf := by
  unfold State.storeReg
  dsimp only
  split
  · have rest (r : BitVec 8) : Run.Sat (do
        let w ← regWidth r d.isPx (lw && s.simd && d.pairs)
        s.datumReady d w
        let u ← s.writeIop t r d.isPx (lw && s.simd && d.pairs) (s.datumWord d)
        .ok (u.send { l with width := w } (s.datumWord d w) none)) State.Wf :=
      Run.sat_seq fun _ => Run.sat_seq fun _ => Run.sat_bind (h.writeIop _ _ _ _) fun _ hu => Run.sat_ok (hu.send _ _ _)
    exact Run.sat_ite (fun _ => Run.sat_seq fun _ => rest _) fun _ => rest _
  · exact Run.sat_seq fun _ => Run.sat_seq fun _ => Run.sat_seq fun _ => Run.sat_ok (h.output _)
  · exact Run.sat_ok h

theorem State.Wf.storeDatum (h : t.Wf) (d : Datum) (a : W32) (lw : Bool) (g : Gate) (e : Bool) :
    Run.Sat (s.store t d a lw g e) State.Wf := by
  have implicit (l : Loc) (w : W64) (v : State) (hv : v.Wf) : Run.Sat
      (match s.implicitDatum d l g e with
      | some c => do
        s.datumReady c l.width
        let m ← s.implicitLoc l
        let t2 ← s.writeWord v m (s.datumWord c l.width)
        .ok ((v.sameAccess t2).send l w (some (s.datumWord c l.width)))
      | none => .ok (v.send l w none)) State.Wf := by
    split
    · exact Run.sat_seq fun _ => Run.sat_seq fun m => Run.sat_bind (hv.writeWord m _) fun _ hu =>
        Run.sat_ok ((hu.sameAccess v).send _ _ _)
    · exact Run.sat_ok (hv.send _ _ _)
  refine Run.sat_seq fun l => ?_
  dsimp only
  refine Run.sat_ite (fun _ => h.storeReg d l lw) fun _ => Run.sat_seq fun _ => ?_
  refine Run.sat_ite (fun _ => Run.sat_seq fun _ => ?_) fun _ => implicit l _ t h
  exact Run.sat_bind (h.writeWord l _) fun w hw => implicit l _ w hw

theorem State.Wf.loadReg (h : t.Wf) (l : Loc) (px pair : Bool) (site : Nat) :
    Run.Sat (s.loadReg t l px pair site) fun p => p.2.2.Wf := by
  unfold State.loadReg
  split
  · exact h.readIop _ _ _
  · exact Run.sat_seq fun _ => Run.sat_seq fun _ => Run.sat_ok h
  · exact Run.sat_ok h

theorem State.Wf.loadIop (h : t.Wf) (r : UReg) (l : Loc) (lw : Bool) (gates : Bool × Bool) (site : Nat) :
    Run.Sat (s.loadIop t r l lw gates site) fun p => p.2.Wf :=
  Run.sat_bind (h.loadReg l _ _ _) fun _ hp => Run.sat_seq fun _ => Run.sat_ok hp

theorem State.Wf.loadBoth (h : t.Wf) (r : UReg) (l : Loc) (gates : Bool × Bool) (site : Nat) :
    Run.Sat (s.loadBoth t r l gates site) fun p => p.2.Wf :=
  Run.sat_bind (h.readWord l site) fun _ hp => Run.sat_seq fun _ => Run.sat_ok hp

theorem State.Wf.loadEach (h : t.Wf) (r : UReg) (l : Loc) (g : Gate) (e : Bool) (site : Nat) :
    Run.Sat (s.loadEach t r l g e site) fun p => p.2.Wf := by
  have implicit (xs : List Loaded) (v : State) (hv : v.Wf) : Run.Sat
      (match s.implicitReg r l g e with
      | some c => do
        s.mayWrite c
        let m ← s.implicitLoc l
        let (w, t2) ← s.readWord v m (site + 1)
        .ok (xs ++ [⟨c, l.width, w⟩], v.sameAccess t2)
      | none => .ok (xs, v) : Run (List Loaded × State)) fun p => p.2.Wf := by
    split
    · exact Run.sat_seq fun _ => Run.sat_seq fun m => Run.sat_bind (hv.readWord m _) fun p hp => Run.sat_ok (hp.sameAccess v)
    · exact Run.sat_ok hv
  refine Run.sat_ite (fun _ => Run.sat_seq fun _ => ?_) fun _ => implicit [] t h
  exact Run.sat_bind (h.readWord l site) fun p hp => implicit _ p.2 hp

theorem State.Wf.load (h : t.Wf) (r : UReg) (a : W32) (lw b : Bool) (g : Gate) (e : Bool) (site : Nat) :
    Run.Sat (s.load t r a lw b g e site) fun p => p.2.Wf := by
  refine Run.sat_seq fun l => ?_
  dsimp only
  have rest : Run.Sat (if b then s.loadBoth t r l (if b then s.broadcastGate r g else (g.x, false)) site
      else s.loadEach t r l g e site) fun p => p.2.Wf :=
    Run.sat_ite (fun _ => h.loadBoth _ _ _ _) fun _ => h.loadEach _ _ _ _ _
  refine Run.sat_ite (fun _ => h.loadIop _ _ _ _ _) fun _ => Run.sat_seq fun _ => ?_
  exact Run.sat_ite (fun _ => Run.sat_seq fun _ => rest) fun _ => rest

theorem cache_le (v : Vector (List CacheEntry) 16) (k : Fin 16) (es : List CacheEntry) (h : ∀ i : Fin 16, v[i].length ≤ 2)
    (he : es.length ≤ 2) (i : Fin 16) : (v.set k.val es k.isLt)[i].length ≤ 2 := by
  simp only [Fin.getElem_fin, Vector.getElem_set]
  split
  · exact he
  · exact h i

theorem State.Wf.pmAccess (h : t.Wf) : Run.Sat (s.pmAccess t) State.Wf := by
  refine Run.sat_seq fun _ => Run.sat_ite (fun _ => Run.sat_ok h) fun _ => ?_
  dsimp only
  split
  · rename_i e he
    refine Run.sat_ok ?_
    have hl : (e :: (t.seq.cache[cacheSet s.upcoming.2]).filter fun x => x.tag != s.upcoming.2).length ≤ 2 := by
      have h1 := h.cache (cacheSet s.upcoming.2)
      have h2 : (t.seq.cache[cacheSet s.upcoming.2].filter fun x => x.tag != s.upcoming.2).length <
          t.seq.cache[cacheSet s.upcoming.2].length := by
        refine List.length_filter_lt_length_iff_exists.2 ⟨e, List.mem_of_find?_eq_some he, ?_⟩
        have := List.find?_some he
        simpa using this
      simp only [List.length_cons]
      omega
    exact { h with cache := cache_le _ _ _ h.cache hl }
  · split
    · refine Run.sat_ite (fun _ => Run.sat_ok h) fun _ => Run.sat_ok ?_
      exact { h with cache := cache_le _ _ _ h.cache (by simp) }
    · exact Run.sat_ok h

/-- A memory move keeps the invariant. -/
theorem State.Wf.memMove (h : t.Wf) (m : MemMove) (g : Gate) (e : Bool) (site : Nat) :
    Run.Sat (s.memMove t m g e site) fun p => p.2.Wf := by
  have post (xs : List Loaded) (v : State) (hv : v.Wf) : Run.Sat (do
      let t3 ← s.postModify v m.mode
      .ok (xs, t3) : Run (List Loaded × State)) fun p => p.2.Wf :=
    Run.sat_bind (hv.postModify m.mode) fun w hw => Run.sat_ok hw
  refine Run.sat_ite (fun _ => Run.sat_ok h) fun _ => Run.sat_seq fun _ => Run.sat_seq fun a => Run.sat_seq fun _ => ?_
  refine Run.sat_ite (fun _ => Run.sat_ok h) fun _ => Run.sat_seq fun _ => ?_
  have access (v : State) (hv : v.Wf) : Run.Sat (do
      let (xs, t2) ← match m.op with
        | .load u => do
          s.useMode1 (broadcastMask m.mode)
          s.load v u a m.lw (broadcastBy s.reg.mode1 u m.mode) g e site
        | .store d => do
          let t2 ← s.store v d a m.lw g e
          .ok (([] : List Loaded), t2)
      let t3 ← s.postModify t2 m.mode
      .ok (xs, t3) : Run (List Loaded × State)) fun p => p.2.Wf := by
    dsimp only
    split
    · exact Run.sat_seq fun _ => Run.sat_bind (hv.load _ _ _ _ _ _ _) fun p hp => post p.1 p.2 hp
    · exact Run.sat_bind (hv.storeDatum _ _ _ _ _) fun w hw => post _ w hw
  dsimp only
  refine Run.sat_ite (fun _ => Run.sat_bind h.pmAccess fun v hv => ?_) fun _ => ?_
  · have := access v hv
    revert this
    cases m.op <;> exact id
  · have := access t h
    revert this
    cases m.op <;> exact id

theorem State.Wf.report (h : t.Wf) (m : MemMove) (g : Gate) : Run.Sat (s.report t m g) State.Wf := by
  refine Run.sat_ite (fun _ => Run.sat_ok h) fun _ => Run.sat_seq fun a => ?_
  dsimp only
  exact Run.sat_ite (fun _ => Run.sat_bind (h.detect a m.lw) fun v hv => Run.sat_ok (hv.postReport _)) fun _ =>
    Run.sat_ok (h.postReport _)

theorem State.Wf.move (h : t.Wf) (m : MemMove) (g : Gate) (ds : List Reg) : Run.Sat (s.move t m g ds) State.Wf := by
  refine Run.sat_bind (h.memMove m g false 4) fun p hp => Run.sat_seq fun _ => Run.sat_bind (hp.putAll _ _) fun v hv => ?_
  refine Run.sat_bind (hv.report m g) fun w hw => Run.sat_ok ?_
  split
  · exact hw.recent _
  · exact hw

/-- Two words of this processor's own memory share a location where their columns meet. -/
theorem Loc.overlaps_cells {l m : Loc} {f g : Nat} (hl : l.place = .cells f) (hm : m.place = .cells g) :
    l.overlaps m = meets f (l.width / 16) g (m.width / 16) := by
  simp [Loc.overlaps, Loc.together, Loc.owner, Loc.column?, hl, hm]

/-- A word of external memory shares no location with one of this processor's own memory. -/
theorem Loc.overlaps_ext_cells {l m : Loc} {f : Nat} (hl : l.place = .ext) (hm : m.place = .cells f) : l.overlaps m = false := by
  simp [Loc.overlaps, Loc.column?, Loc.reg?, hl, hm]

/-- The two accesses of a Type 1 instruction keep the invariant. -/
theorem State.Wf.dualAccess (h : t.Wf) (dw : Bool) (di dm : DagNum) (dr : Reg) (pw : Bool) (pi pm : DagNum) (pr : Reg) :
    Run.Sat (s.dualAccess t dw di dm dr pw pi pm pr) State.Wf := by
  refine Run.sat_seq fun _ => Run.sat_seq fun a1 => Run.sat_seq fun l1 => Run.sat_seq fun a2 => Run.sat_seq fun l2 => ?_
  refine Run.sat_seq fun _ => ?_
  have moves (m1 m2 : MemMove) (n1 n2 : MemMove) (e : Bool) : Run.Sat (do
      let (xs, t1) ← s.memMove t m1 ⟨true, true, false⟩ e 4
      let (ys, t2) ← s.memMove t1 m2 ⟨true, true, false⟩ e 6
      let t3 ← t2.putAll s.reg.mode1 (ys ++ xs)
      let t4 ← s.report t3 n1 ⟨true, true, false⟩
      s.report t4 n2 ⟨true, true, false⟩) State.Wf :=
    Run.sat_bind (P := fun p : List Loaded × State => p.2.Wf) (h.memMove m1 _ e 4) fun p hp =>
      Run.sat_bind (P := fun p : List Loaded × State => p.2.Wf) (hp.memMove m2 _ e 6) fun q hq =>
        Run.sat_bind (hq.putAll _ _) fun v hv => Run.sat_bind (hv.report n1 _) fun w hw => hw.report n2 _
  refine Run.sat_ite (fun _ => ?_) fun _ => moves _ _ _ _ _
  exact Run.sat_seq fun _ => Run.sat_seq fun _ => Run.sat_seq fun _ => moves _ _ _ _ _

/-! ### The compute part and the register moves -/

theorem State.Wf.putPe (h : t.Wf) (y : Bool) (o : PeOut) : (s.putPe t y o).Wf :=
  (((h.setPe _ _).setAstat _ _).noteFlips _ _).orStky _ _

theorem State.Wf.runPes (h : t.Wf) (f : PeIn → PeOut) (ex ey : Bool) : (s.runPes t f ex ey).Wf := by
  unfold State.runPes
  dsimp only
  have h1 : (if ex then s.putPe t false (f (s.peIn false)) else t).Wf := by
    split
    · exact h.putPe _ _
    · exact h
  split
  · exact h1.putPe _ _
  · exact h1

theorem State.Wf.computePart (h : t.Wf) (k : Compute) (g : Bool × Bool) : Run.Sat (s.computePart t k g) State.Wf :=
  Run.sat_ite (fun _ => Run.sat_ok h) fun _ => Run.sat_seq fun _ => Run.sat_seq fun _ => Run.sat_seq fun _ =>
    Run.sat_seq fun _ => Run.sat_ok (h.runPes _ _ _)

theorem State.Wf.shiftPart (h : t.Wf) (op : ShImm) (ex : BitVec 4) (data : BitVec 8) (rn rx : Reg) (g : Bool × Bool) :
    Run.Sat (s.shiftPart t op ex data rn rx g) State.Wf :=
  Run.sat_ite (fun _ => Run.sat_ok h) fun _ => Run.sat_seq fun _ => Run.sat_ok (h.runPes _ _ _)

theorem State.Wf.copyReg (h : t.Wf) (dst src : UReg) : Run.Sat (s.copyReg t dst src) State.Wf :=
  Run.sat_seq fun _ => Run.sat_seq fun _ => h.write40 _ _ _

theorem State.Wf.uregMove (h : t.Wf) (dst src : UReg) (g : Gate) : Run.Sat (s.uregMove t dst src g) State.Wf := by
  have tail (v : State) (hv : v.Wf) : Run.Sat (match (if s.simd && g.y then dst.comp else none) with
      | some c => s.copyReg v c (implicitSource src)
      | none => .ok v) State.Wf := by
    split
    · exact hv.copyReg _ _
    · exact Run.sat_ok hv
  refine Run.sat_seq fun _ => ?_
  dsimp only
  exact Run.sat_ite (fun _ => Run.sat_bind (h.copyReg _ _) fun v hv => tail v hv) fun _ => tail t h

theorem State.Wf.swapRegs (h : t.Wf) (y x : Reg) (g : Gate) : Run.Sat (s.swapRegs t y x g) State.Wf := by
  have tail (v : State) (hv : v.Wf) : Run.Sat (if g.y then s.copyReg v (.s y) (.r x) else .ok v) State.Wf :=
    Run.sat_ite (fun _ => hv.copyReg _ _) fun _ => Run.sat_ok hv
  refine Run.sat_seq fun _ => ?_
  dsimp only
  exact Run.sat_ite (fun _ => Run.sat_bind (h.copyReg _ _) fun v hv => tail v hv) fun _ => tail t h

theorem State.Wf.modifyByReg (h : t.Wf) (g : Bool) (i m : DagNum) : Run.Sat (s.modifyByReg t g i m) State.Wf :=
  Run.sat_seq fun _ => h.modifyIndex _ _ _

theorem State.Wf.putImmediate (h : t.Wf) (r : UReg) (v : W32) : Run.Sat (s.putImmediate t r v) State.Wf := by
  refine Run.sat_seq fun _ => Run.sat_seq fun _ => Run.sat_bind (h.write32 r v) fun w hw => ?_
  split
  · exact hw.write32 _ _
  · exact Run.sat_ok hw

theorem State.Wf.flushIf (h : t.Wf) (b : Bool) : (t.flushIf b).Wf := by
  unfold State.flushIf
  split
  · exact { h with cache := fun i => by simp }
  · exact h

end Sys2Proof.Machine
end

