-- ==== Sys2Proof/Laws/Complete.lean ====
section
/-!
SUPPORT. Laws/Complete.lean: in a settled state no latency stands in the way, and in a steady state an instruction
begins, computes, and reaches its end if it asks nothing of the sequencer.
-/
namespace Sys2Proof.Machine

variable {s t u : State}

/-! ### No latency -/

theorem State.Settled.useMode1 (h : s.Settled) (m : W32) : s.useMode1 m = .ok () := by
  simp [State.useMode1, h.changed, Changed.none]

theorem State.Settled.testReady (h : s.Settled) (x : Test) : s.testReady x = .ok () := by
  simp [State.testReady, h.useMode1, h.changed, h.btf, Changed.none]

theorem State.Settled.pcStackReady (h : s.Settled) : s.pcStackReady = .ok () := by
  simp [State.pcStackReady, h.pcstkp]

/-- A condition can be evaluated, outside the short loops also NOT LCE. -/
theorem State.Settled.condReady (h : s.Settled) (c : Cond) (hc : c = .lce → s.inShortLoop = false) :
    s.condReady c = .ok () :=
  match c, hc with
  | .is x, _ => h.testReady x
  | .isNot x, _ => h.testReady x
  | .always, _ => rfl
  | .lce, hc => by simp [State.condReady, h.useMode1, h.curlcntr, hc rfl]

/-- Outside the short loops every register but a full loop counter can be read. -/
theorem State.Settled.mayRead (h : s.Settled) (r : UReg) (hl : s.inShortLoop = false ∨ r.ofFlow = false)
    (hn : r ≠ .lcntr ∨ s.seq.loopDepth < 6) : s.mayRead r = .ok () := by
  have h1 : (r.ofFlow && s.inShortLoop) = false := by rcases hl with h | h <;> simp [h]
  have h2 : (r == .lcntr && decide (s.seq.loopDepth ≥ 6)) = false := by
    rcases hn with h | h
    · simp [h]
    · simp; omega
  simp [State.mayRead, h.useMode1, h.pcstkp, h1, h2]

/-- A register that holds no stack can be written. -/
theorem State.Settled.mayWrite (h : s.Settled) (r : UReg) (hr : r.ofFlow = false) : s.mayWrite r = .ok () := by
  have h1 : r.ofStack = false := by cases r <;> first | rfl | simp [UReg.ofFlow] at hr
  have h2 : (r == .lcntr) = false := by cases r <;> first | rfl | simp [UReg.ofFlow] at hr
  have h3 : (r == .curlcntr) = false := by cases r <;> first | rfl | simp [UReg.ofFlow] at hr
  simp [State.mayWrite, h.useMode1, h.pcstkp, hr, h1, h2, h3]

/-- An immediate shift runs, on the elements asked for. -/
theorem State.Settled.shiftPart (h : s.Settled) (op : ShImm) (ex : BitVec 4) (data : BitVec 8) (rn rx : Reg)
    (g : Bool × Bool) : s.shiftPart t op ex data rn rx g = .ok (s.runPes t (shImmPe op ex data rn rx) g.1 g.2) := by
  unfold State.shiftPart
  split
  · rcases g with ⟨_ | _, _ | _⟩ <;> simp_all [State.runPes]
  · simp [h.useMode1]

/-! ### The end of an instruction -/

/-- The loop mechanism's tests can be made. -/
theorem State.Settled.loopReady (h : s.Settled) : s.loopReady = .ok () := by
  unfold State.loopReady
  split
  · rfl
  · simp only [h.pcstkp, Bool.not_false, need_true, Run.ok_bind]
    split
    · split <;> first | exact h.testReady _ | rfl
    · rfl

/-- What the loop mechanism can do to a state: nothing when it has no work, else counts, pops, and notes the last passes of a
short loop. -/
structure LoopDone (s t u : State) : Prop where
  rest : u = { t with seq := u.seq, stackBits := u.stackBits, reg := { t.reg with stkyx := u.reg.stkyx } }
  seq : u.seq = { t.seq with
    pcstkp := u.seq.pcstkp, loopCount := u.seq.loopCount, loopDepth := u.seq.loopDepth, lastPasses := u.seq.lastPasses }
  stkyx : u.reg.stkyx &&& ~~~stackStateBits = t.reg.stkyx &&& ~~~stackStateBits
  none : s.loopAct = .none → u = t

theorem LoopDone.refl (s t : State) : LoopDone s t t := ⟨rfl, rfl, rfl, fun _ => rfl⟩

/-- Only an active loop gives the loop mechanism work. -/
theorem State.looping_of_loopAct (h : s.loopAct ≠ .none) : s.looping = true := by
  by_contra hl
  simp [State.loopAct, State.testDue, hl] at h

theorem LoopDone.setCount (h : s.loopAct ≠ .none) (hu : LoopDone s t u) (n : Nat) (v : W32) :
    LoopDone s t (u.setCount n v) where
  rest := by rw [hu.rest]; rfl
  seq := by
    show ({ u.seq with loopCount := _ } : Sequencer) = _
    rw [hu.seq]; rfl
  stkyx := hu.stkyx
  none := fun h' => absurd h' h

theorem LoopDone.noteExit (h : s.loopAct ≠ .none) (hu : LoopDone s t u) : LoopDone s t (s.noteExit u) := by
  unfold State.noteExit
  split
  · refine ⟨?_, ?_, hu.stkyx, fun h' => absurd h' h⟩
    · show ({ u with seq := _ } : State) = _
      rw [hu.rest]
    · show ({ u.seq with lastPasses := _ } : Sequencer) = _
      rw [hu.seq]
  · exact hu

/-- With an entry on each stack the loop mechanism always reaches its end. -/
theorem State.Steady.loopStep (h : s.Steady) : ∃ u, s.loopStep s.start = .ok u ∧ LoopDone s s.start u := by
  obtain ⟨-, ho, hp, -⟩ := h
  have ending (ha : s.loopAct ≠ .none) : ∃ u, s.endLoop s.start = .ok u ∧ LoopDone s s.start u := by
    have hl := State.looping_of_loopAct ha
    have e1 := State.popLoop_eq_ok (s := s.start).2 ⟨ho, hl, rfl⟩
    set v := ({ s.start with seq := { s.start.seq with loopDepth := s.start.seq.loopDepth - 1 } }).stackState 0x04000000
      (bitAt 26 (s.start.seq.loopDepth - 1 == 0)) with hv
    have e2 := State.popPc_eq_ok (s := v).2 ⟨ho, hp hl, rfl⟩
    set w := ({ v with seq := { v.seq with pcstkp := v.seq.pcstkp - 1 } }).stackState 0x00600000
      (bitAt 22 (v.seq.pcstkp - 1 == 0)) with hw
    have hd : LoopDone s s.start w := by
      refine ⟨rfl, rfl, ?_, fun h' => absurd h' ha⟩
      show putBits (putBits s.start.reg.stkyx _ _) _ _ &&& _ = _
      rw [putBits_outside _ _ _ _ (by decide), putBits_outside _ _ _ _ (by decide)]
    refine ⟨_, ?_, LoopDone.noteExit ha (u := if condOfCode s.loopTerm == .lce then
      w.setCount w.seq.loopDepth (s.free 9 &&& 1) else w) ?_⟩
    · simp only [State.endLoop, e1, e2, Run.ok_bind]
    · split
      · exact hd.setCount ha _ _
      · exact hd
  unfold State.loopStep
  split
  · exact ⟨_, rfl, LoopDone.refl s _⟩
  · rename_i ha; exact ⟨_, rfl, (LoopDone.refl s _).setCount (by simp [ha]) _ _⟩
  · exact ⟨_, rfl, LoopDone.refl s _⟩
  · rename_i ha; exact ⟨_, rfl, (LoopDone.refl s _).setCount (by simp [ha]) _ _⟩
  · rename_i ha; exact ending (by simp [ha])
  · rename_i ha; exact ending (by simp [ha])

/-- In a steady state an instruction begins, in the state `State.begun`, which differs from the start of the step by what
the loop mechanism did. -/
theorem State.Steady.begin (h : s.Steady) : s.begin = .ok s.begun ∧ LoopDone s s.start s.begun := by
  obtain ⟨u, hu, hd⟩ := h.loopStep
  have hb : s.begin = .ok u := by simp [State.begin, h.1.loopReady, hu]
  have : s.begun = u := by simp [State.begun, hb]
  exact ⟨this ▸ hb, this ▸ hd⟩

/-- With no loop test due nothing has happened yet. -/
theorem State.Steady.begun_eq (h : s.Steady) (ha : s.loopAct = .none) : s.begun = s.start := h.begin.2.none ha

/-- The empty compute writes nothing. -/
theorem State.Steady.runPes_none (h : s.Steady) (g : Bool × Bool) : s.runPes s.begun (computePe .none) g.1 g.2 = s.begun := by
  have hd := h.begin.2.rest
  have one (y : Bool) : s.putPe s.begun y (computePe .none (s.peIn y)) = s.begun := by
    rw [hd]
    cases y <;>
      simp [computePe, PeOut.none, State.putPe, ProcElem.take, State.peIn, State.setPe, State.pe, State.setAstat,
        State.astat, State.noteFlips, State.orStky, State.start, Recent.none]
  rcases g with ⟨_ | _, _ | _⟩ <;> simp [State.runPes, one]

/-- A compute that has no clash runs, on the elements asked for. -/
theorem State.Steady.computePart (h : s.Steady) (k : Compute) (g : Bool × Bool) (hk : k.dualClash = false) :
    s.computePart s.begun k g = .ok (s.runPes s.begun (computePe k) g.1 g.2) := by
  unfold State.computePart
  split
  · rename_i hc
    by_cases hn : k = .none
    · rw [hn, h.runPes_none]
    · rcases g with ⟨_ | _, _ | _⟩ <;> simp_all [State.runPes]
  · simp [h.1.useMode1, h.1.changed, Changed.none, hk]

/-- In a steady state an instruction that asks nothing of the sequencer reaches its end, on every written state that has left
the fetch pipeline alone. -/
theorem State.Steady.advance (h : s.Steady) (hd : t.seq.daddr = s.seq.daddr) (hf : t.seq.faddr = s.seq.faddr) :
    ∃ u, s.advance t = .ok u ∧ s.Advanced t u := by
  have hw : s.wrapsPc = false := h.2.2.2
  refine ⟨{ t with seq := (s.goOn s.nextFetch { t.seq with prevKind := .other }.slot).keepPasses }, ?_, ?_, ?_⟩
  · simp [State.advance, State.flow, State.window, hw]
  · unfold State.goOn
    split <;> rfl
  · unfold State.goOn State.WindowAfter
    cases ha : s.loopAct <;>
      simp_all [Sequencer.keepPasses, Sequencer.shift, Sequencer.slot, State.nextFetch,
        State.returning, State.follow, ite_and]

end Sys2Proof.Machine
end

