-- ==== Sys2Proof/Laws/Meanings.lean ====
section
/-!
SUPPORT. Laws/Meanings.lean: the shared parts of the instructions' meanings, and the environment's resets, keep the
invariant `State.Wf`.
-/
namespace Sys2Proof.Machine

variable {s t : State}

/-- A step that goes on to a state keeps the invariant. -/
def Keeps (o : Host.Outcome State Fault Refusal) : Prop := ∀ t, o = .next t → t.Wf

theorem Keeps.outcome (h : s.Wf) {r : Run State} (hr : Run.Sat r State.Wf) : Keeps (outcome s r) := by
  intro t ht
  rcases outcome_eq_next.1 ht with he | ⟨-, rfl⟩ | ⟨-, rfl⟩
  · exact hr t he
  · exact h
  · exact h.recent _

/-! ### Compute and move -/

theorem runCompute_keeps (h : s.Wf) (k : Compute) : Keeps (runCompute k s) :=
  Keeps.outcome h (Run.sat_bind h.begin fun _ h0 => Run.sat_bind (h0.computePart _ _) fun _ hv => hv.advance)

theorem runMove_keeps (h : s.Wf) (c : Cond) (k : Compute) (m : MemMove) : Keeps (runMove c k m s) :=
  Keeps.outcome h (Run.sat_seq fun _ => Run.sat_bind h.begin fun _ h0 => Run.sat_bind (h0.computePart _ _) fun _ hv =>
    Run.sat_bind (hv.move _ _ _) fun _ hw => hw.advance)

theorem runAccess_keeps (h : s.Wf) (m : MemMove) : Keeps (runAccess m s) :=
  Keeps.outcome h (Run.sat_bind h.begin fun _ h0 => Run.sat_bind (h0.move _ _ _) fun _ hw => hw.advance)

/-! ### Branches and returns -/

theorem State.Wf.abortLoop (h : t.Wf) (a : W24) : Run.Sat (t.abortLoop a) State.Wf :=
  Run.sat_bind (fun _ e => h.popLoop e) fun _ hv => Run.sat_bind (fun _ e => hv.popPc e) fun _ hw =>
    Run.sat_seq fun _ => Run.sat_ok hw

theorem State.Wf.jumpIf (h : t.Wf) (c : Cond) (la db ci : Bool) (target : Run W24) :
    Run.Sat (s.jumpIf t c la db ci target) State.Wf := by
  refine Run.sat_seq fun _ => Run.sat_ite (fun _ => Run.sat_seq fun _ => Run.sat_seq fun a => h.flow fun _ u hu => ?_)
    fun _ => h.advance
  have fin (w : State) (hw : w.Wf) : Run.Sat (do
      need (w.entryAllowed a) .loopEndEntry
      .ok (w, branchTo db false a) : Run (State × Flow)) fun p => p.1.Wf := Run.sat_seq fun _ => Run.sat_ok hw
  have leave (w : State) (hw : w.Wf) : Run.Sat (do
      let u2 ← if ci then w.leave else .ok w
      need (u2.entryAllowed a) .loopEndEntry
      .ok (u2, branchTo db false a) : Run (State × Flow)) fun p => p.1.Wf := by
    dsimp only
    exact Run.sat_ite (fun _ => Run.sat_bind hw.leave fun v hv => fin v hv) fun _ => fin w hw
  dsimp only
  refine Run.sat_ite (fun hla => Run.sat_seq fun _ => ?_) fun hla => ?_
  · rw [if_pos hla]
    exact Run.sat_bind (hu.abortLoop a) fun w hw => leave w hw
  · rw [if_neg hla]
    exact leave u hu

theorem State.Wf.callIf (h : t.Wf) (c : Cond) (db : Bool) (target : Run W24) :
    Run.Sat (s.callIf t c db target) State.Wf := by
  refine Run.sat_seq fun _ => Run.sat_ite (fun _ => ?_) fun _ => h.advance
  refine Run.sat_seq fun _ => Run.sat_seq fun _ => Run.sat_seq fun _ => Run.sat_seq fun a => h.flow fun _ u hu => ?_
  exact Run.sat_seq fun _ => Run.sat_ok (hu.pushPc _)

theorem State.Wf.returnIf (h : t.Wf) (c : Cond) (db : Bool) (after : W24 → State → Run State)
    (ha : ∀ a u, u.Wf → Run.Sat (after a u) State.Wf) : Run.Sat (s.returnIf t c db after) State.Wf := by
  refine Run.sat_seq fun _ => Run.sat_ite (fun _ => ?_) fun _ => h.advance
  refine Run.sat_seq fun _ => Run.sat_seq fun _ => h.flow fun _ u hu => ?_
  exact Run.sat_bind (fun _ e => hu.popPc e) fun v hv => Run.sat_bind (ha _ v hv) fun w hw => Run.sat_ok hw

theorem withGate_keeps (h : s.Wf) (c : Cond) (els : Bool) (k : Compute) (branch : State → Run State)
    (hb : ∀ t, t.Wf → Run.Sat (branch t) State.Wf) : Keeps (withGate c els k s branch) :=
  Keeps.outcome h (Run.sat_seq fun _ => Run.sat_bind h.begin fun _ h0 =>
    Run.sat_bind (h0.computePart _ _) fun v hv => hb v hv)

theorem jumpElse_keeps (h : s.Wf) (write : Bool) (di dm : DagNum) (c : Cond) (target : State → Run W24) (d : Reg)
    (k : Compute) : Keeps (jumpElse write di dm c target d k s) := by
  refine Keeps.outcome h (Run.sat_seq fun _ => Run.sat_bind h.begin fun t0 h0 =>
    Run.sat_ite (fun _ => h0.jumpIf _ _ _ _ _) fun _ => ?_)
  exact Run.sat_seq fun _ => Run.sat_bind (h0.computePart _ _) fun _ hv =>
    Run.sat_bind (hv.move _ _ _) fun _ hw => hw.advance

theorem State.Wf.doUntil (h : s.Wf) (term : Cond) (rel : W24) (count : Option W32) :
    Run.Sat (s.doUntil term rel count) State.Wf := by
  refine Run.sat_seq fun _ => Run.sat_seq fun _ => Run.sat_seq fun _ => Run.sat_seq fun _ => Run.sat_seq fun _ =>
    Run.sat_bind h.begin fun _ h0 => h0.flow fun _ u hu => ?_
  refine Run.sat_seq fun _ => Run.sat_ok ?_
  have h1 : (match count with | some n => u.setCount u.seq.loopDepth n | none => u).Wf := by
    split
    · exact hu.setCount _ _
    · exact hu
  exact (h1.pushLoop _ _).pushPc _

/-! ### System register bits, stacks and the frame -/

theorem bitWrite_keeps (h : s.Wf) (k : SReg) (f : W32 → W32) : Keeps (bitWrite k f s) := by
  have rest : Run.Sat (do
      let t0 ← s.begin
      let t ← t0.writeSys k (f (s.readBack t0 k))
      let u ← match (if s.simd then sregComp k else none) with
        | some d => t.writeSys d (f (s.readBack t0 d))
        | none => .ok t
      s.advance u) State.Wf := by
    refine Run.sat_bind h.begin fun _ h0 => Run.sat_bind (h0.writeSys _ _) fun t ht => ?_
    dsimp only
    split
    · exact Run.sat_bind (ht.writeSys _ _) fun u hu => hu.advance
    · exact ht.advance
  refine Keeps.outcome h ?_
  exact Run.sat_ite (fun _ => Run.sat_seq fun _ => rest) fun _ => rest

theorem bitTest_keeps (h : s.Wf) (k : SReg) (f : W32 → Bool) : Keeps (bitTest k f s) :=
  Keeps.outcome h (Run.sat_seq fun _ => Run.sat_bind h.begin fun _ h0 => State.Wf.advance (h0.of_eq rfl rfl rfl rfl))

theorem pushAll_keeps (h : s.Wf) (loop sts pc flush : Bool) : Keeps (pushAll loop sts pc flush s) := by
  have rest (t0 : State) (h0 : t0.Wf) : Run.Sat (s.flow t0 fun _ u =>
      let u1 := if loop then u.pushLoop 0 u.lcntr else u
      let u2 := if sts then (u1.pushSts s.reg.mmask).noteStatus u1 else u1
      let u3 := if pc then u2.pushPc ((s.free 10).setWidth 24) else u2
      .ok (u3.flushIf flush, .next)) State.Wf := by
    refine h0.flow fun _ u hu => Run.sat_ok ?_
    have h1 : (if loop then u.pushLoop 0 u.lcntr else u).Wf := by split <;> first | exact hu.pushLoop _ _ | exact hu
    have h2 (v : State) (hv : v.Wf) : (if sts then (v.pushSts s.reg.mmask).noteStatus v else v).Wf := by
      split <;> first | exact (hv.pushSts _).noteStatus _ | exact hv
    have h3 (v : State) (hv : v.Wf) : (if pc then v.pushPc ((s.free 10).setWidth 24) else v).Wf := by
      split <;> first | exact hv.pushPc _ | exact hv
    exact (h3 _ (h2 _ h1)).flushIf _
  refine Keeps.outcome h (Run.sat_seq fun _ => ?_)
  dsimp only
  exact Run.sat_ite (fun _ => Run.sat_seq fun _ => Run.sat_seq fun _ => Run.sat_bind h.begin rest) fun _ =>
    Run.sat_seq fun _ => Run.sat_bind h.begin rest

theorem popAll_keeps (h : s.Wf) (loop sts pc flush : Bool) : Keeps (popAll loop sts pc flush s) := by
  have rest (t0 : State) (h0 : t0.Wf) : Run.Sat (s.flow t0 fun _ u => do
      let u1 ← if loop then u.popLoop else .ok u
      let u2 ← if sts then u1.popSts else .ok u1
      let u3 ← if pc then u2.popPc else .ok u2
      .ok (u3.flushIf flush, .next)) State.Wf := by
    refine h0.flow fun _ u hu => ?_
    have h3 (v : State) (hv : v.Wf) : Run.Sat (do
        let u3 ← if pc then v.popPc else .ok v
        .ok (u3.flushIf flush, .next) : Run (State × Flow)) fun p => p.1.Wf := by
      dsimp only
      exact Run.sat_ite (fun _ => Run.sat_bind (fun _ e => hv.popPc e) fun w hw => Run.sat_ok (hw.flushIf _))
        fun _ => Run.sat_ok (hv.flushIf _)
    have h2 (v : State) (hv : v.Wf) : Run.Sat (do
        let u2 ← if sts then v.popSts else .ok v
        let u3 ← if pc then u2.popPc else .ok u2
        .ok (u3.flushIf flush, .next) : Run (State × Flow)) fun p => p.1.Wf := by
      dsimp only
      exact Run.sat_ite (fun _ => Run.sat_bind (fun _ e => hv.popSts e) fun w hw => h3 w hw) fun _ => h3 v hv
    dsimp only
    exact Run.sat_ite (fun _ => Run.sat_bind (fun _ e => hu.popLoop e) fun w hw => h2 w hw) fun _ => h2 u hu
  refine Keeps.outcome h (Run.sat_seq fun _ => ?_)
  dsimp only
  exact Run.sat_ite (fun _ => Run.sat_seq fun _ => Run.sat_bind h.begin rest) fun _ => Run.sat_bind h.begin rest

theorem cjump_keeps (h : s.Wf) (target : State → W24) : Keeps (cjump target s) := by
  refine Keeps.outcome h ?_
  refine Run.sat_seq fun _ => Run.sat_seq fun _ => Run.sat_seq fun _ => Run.sat_seq fun _ => Run.sat_seq fun _ =>
    Run.sat_bind h.begin fun _ h0 => ?_
  refine State.Wf.flow ?_ fun _ u hu => Run.sat_seq fun _ => Run.sat_ok hu
  apply State.Wf.setDagReg
  split
  · exact (h0.setDreg _ _ _).setDreg _ _ _
  · exact h0.setDreg _ _ _

/-! ### Reset -/

theorem resetSequencer_depth (b : BootMode) : (resetSequencer b).loopDepth = 0 ∧ (resetSequencer b).statusStack = [] ∧
    (resetSequencer b).dbSlots = 0 ∧ (resetSequencer b).pcstkp = 0 ∧ (resetSequencer b).cache = .replicate 16 [] := by
  cases b <;> exact ⟨rfl, rfl, rfl, rfl, rfl⟩

/-- A reset leaves memory as it is and everything else as the invariant has it. -/
theorem State.Wf.resetWith (h : s.mem.wf = true) (i : Iop) : (s.resetWith i).Wf := by
  obtain ⟨h1, h2, h3, h4, h5⟩ := resetSequencer_depth s.pins.boot
  have hm : ∀ b f, (resetMasks b (SysRegs.atReset f)).mode1 = 0 := by intro b f; cases b <;> rfl
  have hi : ∀ b f, (resetMasks b (SysRegs.atReset f)).imask &&& 3 = 3 := by
    intro b f; cases b <;> simp [resetMasks, SysRegs.atReset]
  exact
    { mem := h
      loops := by show (resetSequencer _).loopDepth ≤ 6; omega
      statuses := by show (resetSequencer _).statusStack.length ≤ 15; rw [h2]; exact Nat.zero_le _
      slots := by show (resetSequencer _).dbSlots ≤ 2; omega
      pcStack := fun hp => by
        have : (resetSequencer s.pins.boot).pcstkp = 31 := hp
        rw [h4] at this
        exact absurd this (by decide)
      cache := fun j => by show ((resetSequencer s.pins.boot).cache[j]).length ≤ 2; rw [h5]; simp
      imask := hi _ _
      mode1 := by show (resetMasks _ _).mode1 &&& _ = 0; rw [hm]; rfl
      saved := fun e he => by
        have : e ∈ (resetSequencer s.pins.boot).statusStack := he
        rw [h2] at this
        exact absurd this List.not_mem_nil }

end Sys2Proof.Machine
end

