-- ==== Sys2Proof/Laws/CoreStep.lean ====
section
/-!
SUPPORT. Laws/CoreStep.lean: the parts of a step around the instruction: the tick, the sampled flags, the level sources,
the hold of the latches, and the environment's pins.
-/
namespace Sys2Proof.Machine

variable {s t : State}

/-- The level sources touch nothing but interrupt latches. -/
theorem levels_outside : Outside t (s.levels t) := by
  have step (l : List Irq) : ∀ u, Outside t u → Outside t (l.foldl State.occur u) := by
    induction l with
    | nil => exact fun u hu => hu
    | cons k l ih => exact fun u hu => ih _ (hu.occur k)
  exact step _ t (Outside.refl t)

theorem stepTick_outside : Outside t (s.stepTick t) :=
  Outside.recent (Outside.ite (countClock_outside.trans (timerTick_outside _ _)) countClock_outside) _

theorem State.Wf.sampleFlags (h : t.Wf) : (s.sampleFlags t).Wf := h.of_eq rfl rfl rfl rfl

/-- The end of a core step keeps the invariant. -/
theorem State.Wf.finish (h : t.Wf) : (s.finish t).Wf := by
  have h1 : ((s.levels (s.sampleFlags (s.stepTick t))).holdLatches).Wf :=
    State.Wf.holdLatches (State.Wf.outside (State.Wf.sampleFlags (h.outside stepTick_outside)) levels_outside)
  exact { h1 with }

theorem State.Wf.noteFetch (h : t.Wf) : (s.noteFetch t).Wf := by
  unfold State.noteFetch
  split
  · exact h.touchExt _
  · exact h

theorem State.Wf.idleStep (h : s.Wf) : s.idleStep.Wf := { h.pause with }

theorem State.Wf.wait (h : s.Wf) : s.wait.Wf := { h with }

theorem State.Wf.setBusPins (h : s.Wf) (br : BitVec 6) (pa : Bool) : (s.setBusPins br pa).Wf := { h with }

theorem State.Wf.samplePins (h : s.Wf) : s.samplePins.Wf := by
  have one (n : Nat) (k : Irq) (t : State) (ht : t.Wf) : (t.sampleIrq n k).Wf := by
    unfold State.sampleIrq
    dsimp only
    split
    · exact ht.occurIf _ _
    · exact ht.occurIf _ _
  exact { one 2 _ _ (one 1 _ _ (one 0 _ _ h)) with }

theorem State.Wf.afterEvent (h : t.Wf) : t.afterEvent.Wf := by
  have h1 : (if t.seq.idle then t.levels t else t).Wf := by
    split
    · exact h.outside levels_outside
    · exact h
  exact { h1.holdLatches with }

/-! ### The hold of the latches -/

theorem held_low (v : W32) : (v &&& ~~~((v >>> 24) &&& 0x3F#32)) &&& ((v &&& ~~~((v >>> 24) &&& 0x3F#32)) >>> 24) &&&
    0x3F#32 = 0 := by
  ext i hi
  simp only [BitVec.getElem_and, BitVec.getElem_not, BitVec.getElem_ushiftRight, BitVec.getLsbD_and, BitVec.getLsbD_not,
    BitVec.getLsbD_ushiftRight]
  interval_cases i <;> simp

/-- After the hold no latch of an interrupt in service is set while nesting is off (60_exceptions.md R603). -/
theorem State.holdLatches_held : t.holdLatches.LatchesHeld := by
  intro hn
  have hn' : nestm t.reg.mode1 = false := by
    have : t.holdLatches.reg.mode1 = t.reg.mode1 := SysRegs.hold_mode1 _
    rwa [this] at hn
  have hi : t.holdLatches.reg.irptl = t.reg.irptl &&& ~~~t.reg.imaskp := by
    show t.reg.hold.irptl = _
    rw [SysRegs.hold, if_neg (by simp [hn'])]
  have hm : t.holdLatches.reg.imaskp = t.reg.imaskp := by
    show t.reg.hold.imaskp = _
    rw [SysRegs.hold, if_neg (by simp [hn'])]
  have hl : t.holdLatches.reg.lirptl = t.reg.lirptl &&& ~~~((t.reg.lirptl >>> 24) &&& 0x3F#32) := by
    show t.reg.hold.lirptl = _
    rw [SysRegs.hold, if_neg (by simp [hn'])]
  rw [hi, hm, hl]
  refine ⟨?_, held_low _⟩
  ext i hi
  simp

/-- The hold of the latches is the last thing a core step does to them. -/
theorem State.finish_held : (s.finish t).LatchesHeld := State.holdLatches_held (t := s.levels (s.sampleFlags (s.stepTick t)))

theorem State.afterEvent_held : t.afterEvent.LatchesHeld :=
  State.holdLatches_held (t := if t.seq.idle then t.levels t else t)

end Sys2Proof.Machine
end

