-- ==== Sys2Proof/Laws/PerInstr.lean ====
section
/-!
SUPPORT. Laws/PerInstr.lean: for every instruction, the fixed bits that its row of the opcode table begins with stand at the
top of its word (30_encoding.md R200 to R203, R250). A row of the compute field stands for the Type 2 word without IF.
-/
namespace Sys2Proof

/-- The bits above the low part of two appended words. -/
theorem extract_hi {v w start len : Nat} (a : BitVec v) (b : BitVec w) (h : w ≤ start) :
    (a ++ b).extractLsb' start len = a.extractLsb' (start - w) len := BitVec.extractLsb'_append_eq_of_le h

/-- The top of a Type 2 word without IF, down into its compute field. -/
theorem opens (k : Compute) (n : Nat) (x : BitVec n) (hn : n ≤ 23) (h : (encodeCompute k).extractLsb' (23 - n) n = x) :
    (type2 .always k).extractLsb' (23 - n) (25 + n) = 0x0027C00#25 ++ x := by
  subst h
  have e : type2 .always k = 0x0027C00#25 ++ encodeCompute k := by
    show 0x0027C00#25 ++ encodeCompute k = _
    rfl
  rw [e]
  ext j hj
  simp only [BitVec.getElem_extractLsb', BitVec.getElem_append, BitVec.getLsbD_append]
  by_cases hc : j < n
  · simp [hc, show 23 - n + j < 23 by omega]
  · simp [hc, show ¬ 23 - n + j < 23 by omega, show 23 - n + j - 23 = j - n by omega, BitVec.getLsbD_eq_getElem (show j - n < 25 by omega)]

/-- How many fixed bits the row of an instruction begins with, and their value. -/
def Instr.opening : Instr → Nat × Nat
  | .dualMove _ _ _ _ _ _ _ _ _ => (3, 0x1)
  | .condCompute _ _ => (8, 0x1)
  | .uregMem _ _ _ _ _ _ _ _ _ => (3, 0x2)
  | .dregMemImm _ _ _ _ _ _ _ _ => (4, 0x6)
  | .uregMove _ _ _ _ => (5, 0xE)
  | .swap _ _ _ _ => (5, 0xF)
  | .shiftImmMem _ _ _ _ _ _ _ _ _ _ _ => (4, 0x8)
  | .shiftImm _ _ _ _ _ _ => (8, 0x2)
  | .modify _ _ _ _ _ => (8, 0x4)
  | .jumpAbs _ _ _ _ _ => (9, 0xC)
  | .jumpRel _ _ _ _ _ => (9, 0xE)
  | .callAbs _ _ _ => (9, 0xD)
  | .callRel _ _ _ => (9, 0xF)
  | .jumpInd _ _ _ _ _ _ _ _ => (9, 0x10)
  | .jumpRel6 _ _ _ _ _ _ _ => (9, 0x12)
  | .callInd _ _ _ _ _ _ => (9, 0x11)
  | .callRel6 _ _ _ _ _ => (9, 0x13)
  | .jumpIndElse _ _ _ _ _ _ _ _ => (3, 0x6)
  | .jumpRelElse _ _ _ _ _ _ _ => (3, 0x7)
  | .rts _ _ _ _ _ => (8, 0xA)
  | .rti _ _ _ _ => (8, 0xB)
  | .doImm _ _ => (8, 0xC)
  | .doUreg _ _ => (9, 0x1A)
  | .doUntil _ _ => (8, 0xE)
  | .uregAbs _ _ _ _ _ => (6, 0x4)
  | .uregPre _ _ _ _ _ _ => (3, 0x5)
  | .storeImm _ _ _ _ => (4, 0x9)
  | .loadImm _ _ => (9, 0x1E)
  | .bitSet _ _ => (11, 0xA0)
  | .bitClr _ _ => (11, 0xA1)
  | .bitTgl _ _ => (11, 0xA2)
  | .bitTst _ _ => (11, 0xA4)
  | .bitXor _ _ => (11, 0xA5)
  | .modifyImm _ _ _ => (9, 0x2C)
  | .bitrev _ _ _ => (9, 0x2D)
  | .pushLoop _ _ _ => (9, 0x2F)
  | .popLoop _ _ _ => (8, 0x17)
  | .pushSts _ _ => (8, 0x17)
  | .popSts _ _ => (8, 0x17)
  | .pushPc _ => (8, 0x17)
  | .popPc _ => (8, 0x17)
  | .flushCache => (8, 0x17)
  | .nop => (9, 0x0)
  | .idle => (9, 0x1)
  | .cjumpAbs _ => (24, 0x180400)
  | .cjumpRel _ => (24, 0x184400)
  | .rframe => (48, 0x190000000000)
  | .add _ _ _ => (36, 0x13E00001)
  | .sub _ _ _ => (36, 0x13E00002)
  | .addCi _ _ _ => (36, 0x13E00005)
  | .subCi _ _ _ => (36, 0x13E00006)
  | .avg _ _ _ => (36, 0x13E00009)
  | .comp _ _ => (36, 0x13E0000A)
  | .compu _ _ => (36, 0x13E0000B)
  | .plusCi _ _ => (36, 0x13E00025)
  | .plusCiM1 _ _ => (36, 0x13E00026)
  | .inc _ _ => (36, 0x13E00029)
  | .dec _ _ => (36, 0x13E0002A)
  | .neg _ _ => (36, 0x13E00022)
  | .abs _ _ => (36, 0x13E00030)
  | .pass _ _ => (36, 0x13E00021)
  | .and _ _ _ => (36, 0x13E00040)
  | .or _ _ _ => (36, 0x13E00041)
  | .xor _ _ _ => (36, 0x13E00042)
  | .not _ _ => (36, 0x13E00043)
  | .min _ _ _ => (36, 0x13E00061)
  | .max _ _ _ => (36, 0x13E00062)
  | .clip _ _ _ => (36, 0x13E00063)
  | .fadd _ _ _ => (36, 0x13E00081)
  | .fsub _ _ _ => (36, 0x13E00082)
  | .fabsAdd _ _ _ => (36, 0x13E00091)
  | .fabsSub _ _ _ => (36, 0x13E00092)
  | .favg _ _ _ => (36, 0x13E00089)
  | .fcomp _ _ => (36, 0x13E0008A)
  | .fneg _ _ => (36, 0x13E000A2)
  | .fabs _ _ => (36, 0x13E000B0)
  | .fpass _ _ => (36, 0x13E000A1)
  | .frnd _ _ => (36, 0x13E000A5)
  | .scalb _ _ _ => (36, 0x13E000BD)
  | .mant _ _ => (36, 0x13E000AD)
  | .logb _ _ => (36, 0x13E000C1)
  | .fix _ _ => (36, 0x13E000C9)
  | .fixBy _ _ _ => (36, 0x13E000D9)
  | .trunc _ _ => (36, 0x13E000CD)
  | .truncBy _ _ _ => (36, 0x13E000DD)
  | .float _ _ => (36, 0x13E000CA)
  | .floatBy _ _ _ => (36, 0x13E000DA)
  | .recips _ _ => (36, 0x13E000C4)
  | .rsqrts _ _ => (36, 0x13E000C5)
  | .copysign _ _ _ => (36, 0x13E000E0)
  | .fmin _ _ _ => (36, 0x13E000E1)
  | .fmax _ _ _ => (36, 0x13E000E2)
  | .fclip _ _ _ => (36, 0x13E000E3)
  | .mulRn _ _ _ _ => (30, 0x4F8005)
  | .mulMrf _ _ _ => (30, 0x4F8005)
  | .mulMrb _ _ _ => (30, 0x4F8005)
  | .rnMrfPlus _ _ _ _ => (30, 0x4F8006)
  | .rnMrbPlus _ _ _ _ => (30, 0x4F8006)
  | .mrfPlus _ _ _ => (30, 0x4F8006)
  | .mrbPlus _ _ _ => (30, 0x4F8006)
  | .rnMrfMinus _ _ _ _ => (30, 0x4F8007)
  | .rnMrbMinus _ _ _ _ => (30, 0x4F8007)
  | .mrfMinus _ _ _ => (30, 0x4F8007)
  | .mrbMinus _ _ _ => (30, 0x4F8007)
  | .rnSatMrf _ _ => (32, 0x13E0010)
  | .rnSatMrb _ _ => (32, 0x13E0010)
  | .satMrf _ => (32, 0x13E0010)
  | .satMrb _ => (32, 0x13E0010)
  | .rnRndMrf _ _ => (35, 0x9F0008C)
  | .rnRndMrb _ _ => (35, 0x9F0008D)
  | .rndMrf _ => (35, 0x9F0008E)
  | .rndMrb _ => (35, 0x9F0008F)
  | .clrMrf => (36, 0x13E00114)
  | .clrMrb => (36, 0x13E00116)
  | .mulF _ _ _ => (36, 0x13E00130)
  | .mrToReg _ _ => (32, 0x13E0040)
  | .regToMr _ _ => (32, 0x13E0041)
  | .lshift _ _ _ => (36, 0x13E00200)
  | .orLshift _ _ _ => (36, 0x13E00220)
  | .ashift _ _ _ => (36, 0x13E00204)
  | .orAshift _ _ _ => (36, 0x13E00224)
  | .rot _ _ _ => (36, 0x13E00208)
  | .bclr _ _ _ => (36, 0x13E002C4)
  | .bset _ _ _ => (36, 0x13E002C0)
  | .btgl _ _ _ => (36, 0x13E002C8)
  | .btst _ _ => (36, 0x13E002CC)
  | .fdep _ _ _ => (36, 0x13E00244)
  | .orFdep _ _ _ => (36, 0x13E00264)
  | .fdepSe _ _ _ => (36, 0x13E0024C)
  | .orFdepSe _ _ _ => (36, 0x13E0026C)
  | .fext _ _ _ => (36, 0x13E00240)
  | .fextSe _ _ _ => (36, 0x13E00248)
  | .exp _ _ => (36, 0x13E00280)
  | .expEx _ _ => (36, 0x13E00284)
  | .leftz _ _ => (36, 0x13E00288)
  | .lefto _ _ => (36, 0x13E0028C)
  | .fpack _ _ => (36, 0x13E00290)
  | .funpack _ _ => (36, 0x13E00294)
  | .dualFix _ _ _ _ => (32, 0x13E0007)
  | .dualFlt _ _ _ _ => (32, 0x13E000F)
  | .mfMulAdd _ => (32, 0x13E0044)
  | .mfMulSub _ => (32, 0x13E0045)
  | .mfMulAvg _ => (32, 0x13E0046)
  | .mfMrfPlusAdd _ => (32, 0x13E0048)
  | .mfMrfPlusSub _ => (32, 0x13E0049)
  | .mfMrfPlusAvg _ => (32, 0x13E004A)
  | .mfRmPlusAdd _ => (32, 0x13E004C)
  | .mfRmPlusSub _ => (32, 0x13E004D)
  | .mfRmPlusAvg _ => (32, 0x13E004E)
  | .mfMrfMinusAdd _ => (32, 0x13E0050)
  | .mfMrfMinusSub _ => (32, 0x13E0051)
  | .mfMrfMinusAvg _ => (32, 0x13E0052)
  | .mfRmMinusAdd _ => (32, 0x13E0054)
  | .mfRmMinusSub _ => (32, 0x13E0055)
  | .mfRmMinusAvg _ => (32, 0x13E0056)
  | .mfFmulAdd _ => (32, 0x13E0058)
  | .mfFmulSub _ => (32, 0x13E0059)
  | .mfFmulFloat _ => (32, 0x13E005A)
  | .mfFmulFix _ => (32, 0x13E005B)
  | .mfFmulAvg _ => (32, 0x13E005C)
  | .mfFmulAbs _ => (32, 0x13E005D)
  | .mfFmulMax _ => (32, 0x13E005E)
  | .mfFmulMin _ => (32, 0x13E005F)
  | .mfDualFix _ _ => (28, 0x13E006)
  | .mfDualFlt _ _ => (28, 0x13E007)
  | .noCompute => (48, 0x13E00000000)

namespace Laws.Opening

set_option Elab.async false
set_option linter.unusedSimpArgs false

/-- The word of the instruction begins with the fixed bits its row of the opcode table begins with. -/
def Statement (i : Instr) : Prop :=
  (encode i).extractLsb' (48 - i.opening.1) i.opening.1 = BitVec.ofNat i.opening.1 i.opening.2

theorem dualMove (dmWrite : Bool) (dmI dmM : DagNum) (dmReg : Reg) (pmWrite : Bool) (pmI pmM : DagNum) (pmReg : Reg) (k : Compute) : Statement (.dualMove dmWrite dmI dmM dmReg pmWrite pmI pmM pmReg k) := by
  show (encode _).extractLsb' 45 3 = 0x1#3
  unfold encode
  simp (disch := decide) only [type2, type18, type20, extract_hi, Nat.reduceSub]
  rfl
theorem condCompute (c : Cond) (k : Compute) : Statement (.condCompute c k) := by
  show (encode _).extractLsb' 40 8 = 0x1#8
  unfold encode
  simp (disch := decide) only [type2, type18, type20, extract_hi, Nat.reduceSub]
  rfl
theorem uregMem (post : Bool) (i m : DagNum) (c : Cond) (dag2 write lw : Bool) (u : UReg) (k : Compute) : Statement (.uregMem post i m c dag2 write lw u k) := by
  show (encode _).extractLsb' 45 3 = 0x2#3
  unfold encode
  simp (disch := decide) only [type2, type18, type20, extract_hi, Nat.reduceSub]
  rfl
theorem dregMemImm (i : DagNum) (dag2 write post : Bool) (c : Cond) (data : BitVec 6) (d : Reg) (k : Compute) : Statement (.dregMemImm i dag2 write post c data d k) := by
  show (encode _).extractLsb' 44 4 = 0x6#4
  unfold encode
  simp (disch := decide) only [type2, type18, type20, extract_hi, Nat.reduceSub]
  rfl
theorem uregMove (src : UReg) (c : Cond) (dst : UReg) (k : Compute) : Statement (.uregMove src c dst k) := by
  show (encode _).extractLsb' 43 5 = 0xE#5
  unfold encode
  simp (disch := decide) only [type2, type18, type20, extract_hi, Nat.reduceSub]
  rfl
theorem swap (y : Reg) (c : Cond) (x : Reg) (k : Compute) : Statement (.swap y c x k) := by
  show (encode _).extractLsb' 43 5 = 0xF#5
  unfold encode
  simp (disch := decide) only [type2, type18, type20, extract_hi, Nat.reduceSub]
  rfl
theorem shiftImmMem (i m : DagNum) (c : Cond) (dag2 write : Bool) (dataEx : BitVec 4) (d : Reg) (op : ShImm) (data : BitVec 8) (rn rx : Reg) : Statement (.shiftImmMem i m c dag2 write dataEx d op data rn rx) := by
  show (encode _).extractLsb' 44 4 = 0x8#4
  unfold encode
  simp (disch := decide) only [type2, type18, type20, extract_hi, Nat.reduceSub]
  rfl
theorem shiftImm (c : Cond) (dataEx : BitVec 4) (op : ShImm) (data : BitVec 8) (rn rx : Reg) : Statement (.shiftImm c dataEx op data rn rx) := by
  show (encode _).extractLsb' 40 8 = 0x2#8
  unfold encode
  simp (disch := decide) only [type2, type18, type20, extract_hi, Nat.reduceSub]
  rfl
theorem modify (dag2 : Bool) (c : Cond) (i m : DagNum) (k : Compute) : Statement (.modify dag2 c i m k) := by
  show (encode _).extractLsb' 40 8 = 0x4#8
  unfold encode
  simp (disch := decide) only [type2, type18, type20, extract_hi, Nat.reduceSub]
  rfl
theorem jumpAbs (la : Bool) (c : Cond) (db ci : Bool) (addr : W24) : Statement (.jumpAbs la c db ci addr) := by
  show (encode _).extractLsb' 39 9 = 0xC#9
  unfold encode
  simp (disch := decide) only [type2, type18, type20, extract_hi, Nat.reduceSub]
  rfl
theorem jumpRel (la : Bool) (c : Cond) (db ci : Bool) (rel : W24) : Statement (.jumpRel la c db ci rel) := by
  show (encode _).extractLsb' 39 9 = 0xE#9
  unfold encode
  simp (disch := decide) only [type2, type18, type20, extract_hi, Nat.reduceSub]
  rfl
theorem callAbs (c : Cond) (db : Bool) (addr : W24) : Statement (.callAbs c db addr) := by
  show (encode _).extractLsb' 39 9 = 0xD#9
  unfold encode
  simp (disch := decide) only [type2, type18, type20, extract_hi, Nat.reduceSub]
  rfl
theorem callRel (c : Cond) (db : Bool) (rel : W24) : Statement (.callRel c db rel) := by
  show (encode _).extractLsb' 39 9 = 0xF#9
  unfold encode
  simp (disch := decide) only [type2, type18, type20, extract_hi, Nat.reduceSub]
  rfl
theorem jumpInd (la : Bool) (c : Cond) (i m : DagNum) (db els ci : Bool) (k : Compute) : Statement (.jumpInd la c i m db els ci k) := by
  show (encode _).extractLsb' 39 9 = 0x10#9
  unfold encode
  simp (disch := decide) only [type2, type18, type20, extract_hi, Nat.reduceSub]
  rfl
theorem jumpRel6 (la : Bool) (c : Cond) (rel : BitVec 6) (db els ci : Bool) (k : Compute) : Statement (.jumpRel6 la c rel db els ci k) := by
  show (encode _).extractLsb' 39 9 = 0x12#9
  unfold encode
  simp (disch := decide) only [type2, type18, type20, extract_hi, Nat.reduceSub]
  rfl
theorem callInd (c : Cond) (i m : DagNum) (db els : Bool) (k : Compute) : Statement (.callInd c i m db els k) := by
  show (encode _).extractLsb' 39 9 = 0x11#9
  unfold encode
  simp (disch := decide) only [type2, type18, type20, extract_hi, Nat.reduceSub]
  rfl
theorem callRel6 (c : Cond) (rel : BitVec 6) (db els : Bool) (k : Compute) : Statement (.callRel6 c rel db els k) := by
  show (encode _).extractLsb' 39 9 = 0x13#9
  unfold encode
  simp (disch := decide) only [type2, type18, type20, extract_hi, Nat.reduceSub]
  rfl
theorem jumpIndElse (write : Bool) (dmI dmM : DagNum) (c : Cond) (i m : DagNum) (d : Reg) (k : Compute) : Statement (.jumpIndElse write dmI dmM c i m d k) := by
  show (encode _).extractLsb' 45 3 = 0x6#3
  unfold encode
  simp (disch := decide) only [type2, type18, type20, extract_hi, Nat.reduceSub]
  rfl
theorem jumpRelElse (write : Bool) (dmI dmM : DagNum) (c : Cond) (rel : BitVec 6) (d : Reg) (k : Compute) : Statement (.jumpRelElse write dmI dmM c rel d k) := by
  show (encode _).extractLsb' 45 3 = 0x7#3
  unfold encode
  simp (disch := decide) only [type2, type18, type20, extract_hi, Nat.reduceSub]
  rfl
theorem rts (c : Cond) (db els lr : Bool) (k : Compute) : Statement (.rts c db els lr k) := by
  show (encode _).extractLsb' 40 8 = 0xA#8
  unfold encode
  simp (disch := decide) only [type2, type18, type20, extract_hi, Nat.reduceSub]
  rfl
theorem rti (c : Cond) (db els : Bool) (k : Compute) : Statement (.rti c db els k) := by
  show (encode _).extractLsb' 40 8 = 0xB#8
  unfold encode
  simp (disch := decide) only [type2, type18, type20, extract_hi, Nat.reduceSub]
  rfl
theorem doImm (count : W16) (rel : W24) : Statement (.doImm count rel) := by
  show (encode _).extractLsb' 40 8 = 0xC#8
  unfold encode
  simp (disch := decide) only [type2, type18, type20, extract_hi, Nat.reduceSub]
  rfl
theorem doUreg (u : UReg) (rel : W24) : Statement (.doUreg u rel) := by
  show (encode _).extractLsb' 39 9 = 0x1A#9
  unfold encode
  simp (disch := decide) only [type2, type18, type20, extract_hi, Nat.reduceSub]
  rfl
theorem doUntil (term : Cond) (rel : W24) : Statement (.doUntil term rel) := by
  show (encode _).extractLsb' 40 8 = 0xE#8
  unfold encode
  simp (disch := decide) only [type2, type18, type20, extract_hi, Nat.reduceSub]
  rfl
theorem uregAbs (dag2 write lw : Bool) (u : UReg) (addr : W32) : Statement (.uregAbs dag2 write lw u addr) := by
  show (encode _).extractLsb' 42 6 = 0x4#6
  unfold encode
  simp (disch := decide) only [type2, type18, type20, extract_hi, Nat.reduceSub]
  rfl
theorem uregPre (dag2 : Bool) (i : DagNum) (write lw : Bool) (u : UReg) (data : W32) : Statement (.uregPre dag2 i write lw u data) := by
  show (encode _).extractLsb' 45 3 = 0x5#3
  unfold encode
  simp (disch := decide) only [type2, type18, type20, extract_hi, Nat.reduceSub]
  rfl
theorem storeImm (i m : DagNum) (dag2 : Bool) (data : W32) : Statement (.storeImm i m dag2 data) := by
  show (encode _).extractLsb' 44 4 = 0x9#4
  unfold encode
  simp (disch := decide) only [type2, type18, type20, extract_hi, Nat.reduceSub]
  rfl
theorem loadImm (u : UReg) (data : W32) : Statement (.loadImm u data) := by
  show (encode _).extractLsb' 39 9 = 0x1E#9
  unfold encode
  simp (disch := decide) only [type2, type18, type20, extract_hi, Nat.reduceSub]
  rfl
theorem bitSet (s : SReg) (data : W32) : Statement (.bitSet s data) := by
  show (encode _).extractLsb' 37 11 = 0xA0#11
  unfold encode
  simp (disch := decide) only [type2, type18, type20, extract_hi, Nat.reduceSub]
  rfl
theorem bitClr (s : SReg) (data : W32) : Statement (.bitClr s data) := by
  show (encode _).extractLsb' 37 11 = 0xA1#11
  unfold encode
  simp (disch := decide) only [type2, type18, type20, extract_hi, Nat.reduceSub]
  rfl
theorem bitTgl (s : SReg) (data : W32) : Statement (.bitTgl s data) := by
  show (encode _).extractLsb' 37 11 = 0xA2#11
  unfold encode
  simp (disch := decide) only [type2, type18, type20, extract_hi, Nat.reduceSub]
  rfl
theorem bitTst (s : SReg) (data : W32) : Statement (.bitTst s data) := by
  show (encode _).extractLsb' 37 11 = 0xA4#11
  unfold encode
  simp (disch := decide) only [type2, type18, type20, extract_hi, Nat.reduceSub]
  rfl
theorem bitXor (s : SReg) (data : W32) : Statement (.bitXor s data) := by
  show (encode _).extractLsb' 37 11 = 0xA5#11
  unfold encode
  simp (disch := decide) only [type2, type18, type20, extract_hi, Nat.reduceSub]
  rfl
theorem modifyImm (dag2 : Bool) (i : DagNum) (data : W32) : Statement (.modifyImm dag2 i data) := by
  show (encode _).extractLsb' 39 9 = 0x2C#9
  unfold encode
  simp (disch := decide) only [type2, type18, type20, extract_hi, Nat.reduceSub]
  rfl
theorem bitrev (dag2 : Bool) (i : DagNum) (data : W32) : Statement (.bitrev dag2 i data) := by
  show (encode _).extractLsb' 39 9 = 0x2D#9
  unfold encode
  simp (disch := decide) only [type2, type18, type20, extract_hi, Nat.reduceSub]
  rfl
theorem pushLoop (sts pc flush : Bool) : Statement (.pushLoop sts pc flush) := by
  show (encode _).extractLsb' 39 9 = 0x2F#9
  unfold encode
  simp (disch := decide) only [type2, type18, type20, extract_hi, Nat.reduceSub]
  rfl
theorem popLoop (sts pc flush : Bool) : Statement (.popLoop sts pc flush) := by
  show (encode _).extractLsb' 40 8 = 0x17#8
  unfold encode
  simp (disch := decide) only [type2, type18, type20, extract_hi, Nat.reduceSub]
  rfl
theorem pushSts (pc flush : Bool) : Statement (.pushSts pc flush) := by
  show (encode _).extractLsb' 40 8 = 0x17#8
  unfold encode
  simp (disch := decide) only [type2, type18, type20, extract_hi, Nat.reduceSub]
  rfl
theorem popSts (pc flush : Bool) : Statement (.popSts pc flush) := by
  show (encode _).extractLsb' 40 8 = 0x17#8
  unfold encode
  simp (disch := decide) only [type2, type18, type20, extract_hi, Nat.reduceSub]
  rfl
theorem pushPc (flush : Bool) : Statement (.pushPc flush) := by
  show (encode _).extractLsb' 40 8 = 0x17#8
  unfold encode
  simp (disch := decide) only [type2, type18, type20, extract_hi, Nat.reduceSub]
  rfl
theorem popPc (flush : Bool) : Statement (.popPc flush) := by
  show (encode _).extractLsb' 40 8 = 0x17#8
  unfold encode
  simp (disch := decide) only [type2, type18, type20, extract_hi, Nat.reduceSub]
  rfl
theorem flushCache : Statement (.flushCache) := by
  show (encode _).extractLsb' 40 8 = 0x17#8
  unfold encode
  simp (disch := decide) only [type2, type18, type20, extract_hi, Nat.reduceSub]
  rfl
theorem nop : Statement (.nop) := by
  show (encode _).extractLsb' 39 9 = 0x0#9
  unfold encode
  simp (disch := decide) only [type2, type18, type20, extract_hi, Nat.reduceSub]
  rfl
theorem idle : Statement (.idle) := by
  show (encode _).extractLsb' 39 9 = 0x1#9
  unfold encode
  simp (disch := decide) only [type2, type18, type20, extract_hi, Nat.reduceSub]
  rfl
theorem cjumpAbs (addr : W24) : Statement (.cjumpAbs addr) := by
  show (encode _).extractLsb' 24 24 = 0x180400#24
  unfold encode
  simp (disch := decide) only [type2, type18, type20, extract_hi, Nat.reduceSub]
  rfl
theorem cjumpRel (rel : W24) : Statement (.cjumpRel rel) := by
  show (encode _).extractLsb' 24 24 = 0x184400#24
  unfold encode
  simp (disch := decide) only [type2, type18, type20, extract_hi, Nat.reduceSub]
  rfl
theorem rframe : Statement (.rframe) := by
  show (encode _).extractLsb' 0 48 = 0x190000000000#48
  unfold encode
  simp (disch := decide) only [type2, type18, type20, extract_hi, Nat.reduceSub]
  rfl
theorem add (rn rx ry : Reg) : Statement (.add rn rx ry) := by
  show (type2 .always (.aluBin .add rn rx ry)).extractLsb' 12 36 = 0x13E00001#36
  exact opens (.aluBin .add rn rx ry) 11 0x1#11 (by decide) (by
    unfold encodeCompute single
    simp (disch := decide) only [MulMod.opcode, extract_hi, Nat.reduceSub]
    rfl)
theorem sub (rn rx ry : Reg) : Statement (.sub rn rx ry) := by
  show (type2 .always (.aluBin .sub rn rx ry)).extractLsb' 12 36 = 0x13E00002#36
  exact opens (.aluBin .sub rn rx ry) 11 0x2#11 (by decide) (by
    unfold encodeCompute single
    simp (disch := decide) only [MulMod.opcode, extract_hi, Nat.reduceSub]
    rfl)
theorem addCi (rn rx ry : Reg) : Statement (.addCi rn rx ry) := by
  show (type2 .always (.aluBin .addCi rn rx ry)).extractLsb' 12 36 = 0x13E00005#36
  exact opens (.aluBin .addCi rn rx ry) 11 0x5#11 (by decide) (by
    unfold encodeCompute single
    simp (disch := decide) only [MulMod.opcode, extract_hi, Nat.reduceSub]
    rfl)
theorem subCi (rn rx ry : Reg) : Statement (.subCi rn rx ry) := by
  show (type2 .always (.aluBin .subCi rn rx ry)).extractLsb' 12 36 = 0x13E00006#36
  exact opens (.aluBin .subCi rn rx ry) 11 0x6#11 (by decide) (by
    unfold encodeCompute single
    simp (disch := decide) only [MulMod.opcode, extract_hi, Nat.reduceSub]
    rfl)
theorem avg (rn rx ry : Reg) : Statement (.avg rn rx ry) := by
  show (type2 .always (.aluBin .avg rn rx ry)).extractLsb' 12 36 = 0x13E00009#36
  exact opens (.aluBin .avg rn rx ry) 11 0x9#11 (by decide) (by
    unfold encodeCompute single
    simp (disch := decide) only [MulMod.opcode, extract_hi, Nat.reduceSub]
    rfl)
theorem comp (rx ry : Reg) : Statement (.comp rx ry) := by
  show (type2 .always (.aluCmp .comp rx ry)).extractLsb' 12 36 = 0x13E0000A#36
  exact opens (.aluCmp .comp rx ry) 11 0xA#11 (by decide) (by
    unfold encodeCompute single
    simp (disch := decide) only [MulMod.opcode, extract_hi, Nat.reduceSub]
    rfl)
theorem compu (rx ry : Reg) : Statement (.compu rx ry) := by
  show (type2 .always (.aluCmp .compu rx ry)).extractLsb' 12 36 = 0x13E0000B#36
  exact opens (.aluCmp .compu rx ry) 11 0xB#11 (by decide) (by
    unfold encodeCompute single
    simp (disch := decide) only [MulMod.opcode, extract_hi, Nat.reduceSub]
    rfl)
theorem plusCi (rn rx : Reg) : Statement (.plusCi rn rx) := by
  show (type2 .always (.aluUn .plusCi rn rx)).extractLsb' 12 36 = 0x13E00025#36
  exact opens (.aluUn .plusCi rn rx) 11 0x25#11 (by decide) (by
    unfold encodeCompute single
    simp (disch := decide) only [MulMod.opcode, extract_hi, Nat.reduceSub]
    rfl)
theorem plusCiM1 (rn rx : Reg) : Statement (.plusCiM1 rn rx) := by
  show (type2 .always (.aluUn .plusCiM1 rn rx)).extractLsb' 12 36 = 0x13E00026#36
  exact opens (.aluUn .plusCiM1 rn rx) 11 0x26#11 (by decide) (by
    unfold encodeCompute single
    simp (disch := decide) only [MulMod.opcode, extract_hi, Nat.reduceSub]
    rfl)
theorem inc (rn rx : Reg) : Statement (.inc rn rx) := by
  show (type2 .always (.aluUn .inc rn rx)).extractLsb' 12 36 = 0x13E00029#36
  exact opens (.aluUn .inc rn rx) 11 0x29#11 (by decide) (by
    unfold encodeCompute single
    simp (disch := decide) only [MulMod.opcode, extract_hi, Nat.reduceSub]
    rfl)
theorem dec (rn rx : Reg) : Statement (.dec rn rx) := by
  show (type2 .always (.aluUn .dec rn rx)).extractLsb' 12 36 = 0x13E0002A#36
  exact opens (.aluUn .dec rn rx) 11 0x2A#11 (by decide) (by
    unfold encodeCompute single
    simp (disch := decide) only [MulMod.opcode, extract_hi, Nat.reduceSub]
    rfl)
theorem neg (rn rx : Reg) : Statement (.neg rn rx) := by
  show (type2 .always (.aluUn .neg rn rx)).extractLsb' 12 36 = 0x13E00022#36
  exact opens (.aluUn .neg rn rx) 11 0x22#11 (by decide) (by
    unfold encodeCompute single
    simp (disch := decide) only [MulMod.opcode, extract_hi, Nat.reduceSub]
    rfl)
theorem abs (rn rx : Reg) : Statement (.abs rn rx) := by
  show (type2 .always (.aluUn .abs rn rx)).extractLsb' 12 36 = 0x13E00030#36
  exact opens (.aluUn .abs rn rx) 11 0x30#11 (by decide) (by
    unfold encodeCompute single
    simp (disch := decide) only [MulMod.opcode, extract_hi, Nat.reduceSub]
    rfl)
theorem pass (rn rx : Reg) : Statement (.pass rn rx) := by
  show (type2 .always (.aluUn .pass rn rx)).extractLsb' 12 36 = 0x13E00021#36
  exact opens (.aluUn .pass rn rx) 11 0x21#11 (by decide) (by
    unfold encodeCompute single
    simp (disch := decide) only [MulMod.opcode, extract_hi, Nat.reduceSub]
    rfl)
theorem and (rn rx ry : Reg) : Statement (.and rn rx ry) := by
  show (type2 .always (.aluBin .and rn rx ry)).extractLsb' 12 36 = 0x13E00040#36
  exact opens (.aluBin .and rn rx ry) 11 0x40#11 (by decide) (by
    unfold encodeCompute single
    simp (disch := decide) only [MulMod.opcode, extract_hi, Nat.reduceSub]
    rfl)
theorem or (rn rx ry : Reg) : Statement (.or rn rx ry) := by
  show (type2 .always (.aluBin .or rn rx ry)).extractLsb' 12 36 = 0x13E00041#36
  exact opens (.aluBin .or rn rx ry) 11 0x41#11 (by decide) (by
    unfold encodeCompute single
    simp (disch := decide) only [MulMod.opcode, extract_hi, Nat.reduceSub]
    rfl)
theorem xor (rn rx ry : Reg) : Statement (.xor rn rx ry) := by
  show (type2 .always (.aluBin .xor rn rx ry)).extractLsb' 12 36 = 0x13E00042#36
  exact opens (.aluBin .xor rn rx ry) 11 0x42#11 (by decide) (by
    unfold encodeCompute single
    simp (disch := decide) only [MulMod.opcode, extract_hi, Nat.reduceSub]
    rfl)
theorem not (rn rx : Reg) : Statement (.not rn rx) := by
  show (type2 .always (.aluUn .not rn rx)).extractLsb' 12 36 = 0x13E00043#36
  exact opens (.aluUn .not rn rx) 11 0x43#11 (by decide) (by
    unfold encodeCompute single
    simp (disch := decide) only [MulMod.opcode, extract_hi, Nat.reduceSub]
    rfl)
theorem min (rn rx ry : Reg) : Statement (.min rn rx ry) := by
  show (type2 .always (.aluBin .min rn rx ry)).extractLsb' 12 36 = 0x13E00061#36
  exact opens (.aluBin .min rn rx ry) 11 0x61#11 (by decide) (by
    unfold encodeCompute single
    simp (disch := decide) only [MulMod.opcode, extract_hi, Nat.reduceSub]
    rfl)
theorem max (rn rx ry : Reg) : Statement (.max rn rx ry) := by
  show (type2 .always (.aluBin .max rn rx ry)).extractLsb' 12 36 = 0x13E00062#36
  exact opens (.aluBin .max rn rx ry) 11 0x62#11 (by decide) (by
    unfold encodeCompute single
    simp (disch := decide) only [MulMod.opcode, extract_hi, Nat.reduceSub]
    rfl)
theorem clip (rn rx ry : Reg) : Statement (.clip rn rx ry) := by
  show (type2 .always (.aluBin .clip rn rx ry)).extractLsb' 12 36 = 0x13E00063#36
  exact opens (.aluBin .clip rn rx ry) 11 0x63#11 (by decide) (by
    unfold encodeCompute single
    simp (disch := decide) only [MulMod.opcode, extract_hi, Nat.reduceSub]
    rfl)
theorem fadd (rn rx ry : Reg) : Statement (.fadd rn rx ry) := by
  show (type2 .always (.aluBin .fadd rn rx ry)).extractLsb' 12 36 = 0x13E00081#36
  exact opens (.aluBin .fadd rn rx ry) 11 0x81#11 (by decide) (by
    unfold encodeCompute single
    simp (disch := decide) only [MulMod.opcode, extract_hi, Nat.reduceSub]
    rfl)
theorem fsub (rn rx ry : Reg) : Statement (.fsub rn rx ry) := by
  show (type2 .always (.aluBin .fsub rn rx ry)).extractLsb' 12 36 = 0x13E00082#36
  exact opens (.aluBin .fsub rn rx ry) 11 0x82#11 (by decide) (by
    unfold encodeCompute single
    simp (disch := decide) only [MulMod.opcode, extract_hi, Nat.reduceSub]
    rfl)
theorem fabsAdd (rn rx ry : Reg) : Statement (.fabsAdd rn rx ry) := by
  show (type2 .always (.aluBin .fabsAdd rn rx ry)).extractLsb' 12 36 = 0x13E00091#36
  exact opens (.aluBin .fabsAdd rn rx ry) 11 0x91#11 (by decide) (by
    unfold encodeCompute single
    simp (disch := decide) only [MulMod.opcode, extract_hi, Nat.reduceSub]
    rfl)
theorem fabsSub (rn rx ry : Reg) : Statement (.fabsSub rn rx ry) := by
  show (type2 .always (.aluBin .fabsSub rn rx ry)).extractLsb' 12 36 = 0x13E00092#36
  exact opens (.aluBin .fabsSub rn rx ry) 11 0x92#11 (by decide) (by
    unfold encodeCompute single
    simp (disch := decide) only [MulMod.opcode, extract_hi, Nat.reduceSub]
    rfl)
theorem favg (rn rx ry : Reg) : Statement (.favg rn rx ry) := by
  show (type2 .always (.aluBin .favg rn rx ry)).extractLsb' 12 36 = 0x13E00089#36
  exact opens (.aluBin .favg rn rx ry) 11 0x89#11 (by decide) (by
    unfold encodeCompute single
    simp (disch := decide) only [MulMod.opcode, extract_hi, Nat.reduceSub]
    rfl)
theorem fcomp (rx ry : Reg) : Statement (.fcomp rx ry) := by
  show (type2 .always (.aluCmp .fcomp rx ry)).extractLsb' 12 36 = 0x13E0008A#36
  exact opens (.aluCmp .fcomp rx ry) 11 0x8A#11 (by decide) (by
    unfold encodeCompute single
    simp (disch := decide) only [MulMod.opcode, extract_hi, Nat.reduceSub]
    rfl)
theorem fneg (rn rx : Reg) : Statement (.fneg rn rx) := by
  show (type2 .always (.aluUn .fneg rn rx)).extractLsb' 12 36 = 0x13E000A2#36
  exact opens (.aluUn .fneg rn rx) 11 0xA2#11 (by decide) (by
    unfold encodeCompute single
    simp (disch := decide) only [MulMod.opcode, extract_hi, Nat.reduceSub]
    rfl)
theorem fabs (rn rx : Reg) : Statement (.fabs rn rx) := by
  show (type2 .always (.aluUn .fabs rn rx)).extractLsb' 12 36 = 0x13E000B0#36
  exact opens (.aluUn .fabs rn rx) 11 0xB0#11 (by decide) (by
    unfold encodeCompute single
    simp (disch := decide) only [MulMod.opcode, extract_hi, Nat.reduceSub]
    rfl)
theorem fpass (rn rx : Reg) : Statement (.fpass rn rx) := by
  show (type2 .always (.aluUn .fpass rn rx)).extractLsb' 12 36 = 0x13E000A1#36
  exact opens (.aluUn .fpass rn rx) 11 0xA1#11 (by decide) (by
    unfold encodeCompute single
    simp (disch := decide) only [MulMod.opcode, extract_hi, Nat.reduceSub]
    rfl)
theorem frnd (rn rx : Reg) : Statement (.frnd rn rx) := by
  show (type2 .always (.aluUn .frnd rn rx)).extractLsb' 12 36 = 0x13E000A5#36
  exact opens (.aluUn .frnd rn rx) 11 0xA5#11 (by decide) (by
    unfold encodeCompute single
    simp (disch := decide) only [MulMod.opcode, extract_hi, Nat.reduceSub]
    rfl)
theorem scalb (rn rx ry : Reg) : Statement (.scalb rn rx ry) := by
  show (type2 .always (.aluBin .scalb rn rx ry)).extractLsb' 12 36 = 0x13E000BD#36
  exact opens (.aluBin .scalb rn rx ry) 11 0xBD#11 (by decide) (by
    unfold encodeCompute single
    simp (disch := decide) only [MulMod.opcode, extract_hi, Nat.reduceSub]
    rfl)
theorem mant (rn rx : Reg) : Statement (.mant rn rx) := by
  show (type2 .always (.aluUn .mant rn rx)).extractLsb' 12 36 = 0x13E000AD#36
  exact opens (.aluUn .mant rn rx) 11 0xAD#11 (by decide) (by
    unfold encodeCompute single
    simp (disch := decide) only [MulMod.opcode, extract_hi, Nat.reduceSub]
    rfl)
theorem logb (rn rx : Reg) : Statement (.logb rn rx) := by
  show (type2 .always (.aluUn .logb rn rx)).extractLsb' 12 36 = 0x13E000C1#36
  exact opens (.aluUn .logb rn rx) 11 0xC1#11 (by decide) (by
    unfold encodeCompute single
    simp (disch := decide) only [MulMod.opcode, extract_hi, Nat.reduceSub]
    rfl)
theorem fix (rn rx : Reg) : Statement (.fix rn rx) := by
  show (type2 .always (.aluUn .fix rn rx)).extractLsb' 12 36 = 0x13E000C9#36
  exact opens (.aluUn .fix rn rx) 11 0xC9#11 (by decide) (by
    unfold encodeCompute single
    simp (disch := decide) only [MulMod.opcode, extract_hi, Nat.reduceSub]
    rfl)
theorem fixBy (rn rx ry : Reg) : Statement (.fixBy rn rx ry) := by
  show (type2 .always (.aluBin .fixBy rn rx ry)).extractLsb' 12 36 = 0x13E000D9#36
  exact opens (.aluBin .fixBy rn rx ry) 11 0xD9#11 (by decide) (by
    unfold encodeCompute single
    simp (disch := decide) only [MulMod.opcode, extract_hi, Nat.reduceSub]
    rfl)
theorem trunc (rn rx : Reg) : Statement (.trunc rn rx) := by
  show (type2 .always (.aluUn .trunc rn rx)).extractLsb' 12 36 = 0x13E000CD#36
  exact opens (.aluUn .trunc rn rx) 11 0xCD#11 (by decide) (by
    unfold encodeCompute single
    simp (disch := decide) only [MulMod.opcode, extract_hi, Nat.reduceSub]
    rfl)
theorem truncBy (rn rx ry : Reg) : Statement (.truncBy rn rx ry) := by
  show (type2 .always (.aluBin .truncBy rn rx ry)).extractLsb' 12 36 = 0x13E000DD#36
  exact opens (.aluBin .truncBy rn rx ry) 11 0xDD#11 (by decide) (by
    unfold encodeCompute single
    simp (disch := decide) only [MulMod.opcode, extract_hi, Nat.reduceSub]
    rfl)
theorem float (rn rx : Reg) : Statement (.float rn rx) := by
  show (type2 .always (.aluUn .float rn rx)).extractLsb' 12 36 = 0x13E000CA#36
  exact opens (.aluUn .float rn rx) 11 0xCA#11 (by decide) (by
    unfold encodeCompute single
    simp (disch := decide) only [MulMod.opcode, extract_hi, Nat.reduceSub]
    rfl)
theorem floatBy (rn rx ry : Reg) : Statement (.floatBy rn rx ry) := by
  show (type2 .always (.aluBin .floatBy rn rx ry)).extractLsb' 12 36 = 0x13E000DA#36
  exact opens (.aluBin .floatBy rn rx ry) 11 0xDA#11 (by decide) (by
    unfold encodeCompute single
    simp (disch := decide) only [MulMod.opcode, extract_hi, Nat.reduceSub]
    rfl)
theorem recips (rn rx : Reg) : Statement (.recips rn rx) := by
  show (type2 .always (.aluUn .recips rn rx)).extractLsb' 12 36 = 0x13E000C4#36
  exact opens (.aluUn .recips rn rx) 11 0xC4#11 (by decide) (by
    unfold encodeCompute single
    simp (disch := decide) only [MulMod.opcode, extract_hi, Nat.reduceSub]
    rfl)
theorem rsqrts (rn rx : Reg) : Statement (.rsqrts rn rx) := by
  show (type2 .always (.aluUn .rsqrts rn rx)).extractLsb' 12 36 = 0x13E000C5#36
  exact opens (.aluUn .rsqrts rn rx) 11 0xC5#11 (by decide) (by
    unfold encodeCompute single
    simp (disch := decide) only [MulMod.opcode, extract_hi, Nat.reduceSub]
    rfl)
theorem copysign (rn rx ry : Reg) : Statement (.copysign rn rx ry) := by
  show (type2 .always (.aluBin .copysign rn rx ry)).extractLsb' 12 36 = 0x13E000E0#36
  exact opens (.aluBin .copysign rn rx ry) 11 0xE0#11 (by decide) (by
    unfold encodeCompute single
    simp (disch := decide) only [MulMod.opcode, extract_hi, Nat.reduceSub]
    rfl)
theorem fmin (rn rx ry : Reg) : Statement (.fmin rn rx ry) := by
  show (type2 .always (.aluBin .fmin rn rx ry)).extractLsb' 12 36 = 0x13E000E1#36
  exact opens (.aluBin .fmin rn rx ry) 11 0xE1#11 (by decide) (by
    unfold encodeCompute single
    simp (disch := decide) only [MulMod.opcode, extract_hi, Nat.reduceSub]
    rfl)
theorem fmax (rn rx ry : Reg) : Statement (.fmax rn rx ry) := by
  show (type2 .always (.aluBin .fmax rn rx ry)).extractLsb' 12 36 = 0x13E000E2#36
  exact opens (.aluBin .fmax rn rx ry) 11 0xE2#11 (by decide) (by
    unfold encodeCompute single
    simp (disch := decide) only [MulMod.opcode, extract_hi, Nat.reduceSub]
    rfl)
theorem fclip (rn rx ry : Reg) : Statement (.fclip rn rx ry) := by
  show (type2 .always (.aluBin .fclip rn rx ry)).extractLsb' 12 36 = 0x13E000E3#36
  exact opens (.aluBin .fclip rn rx ry) 11 0xE3#11 (by decide) (by
    unfold encodeCompute single
    simp (disch := decide) only [MulMod.opcode, extract_hi, Nat.reduceSub]
    rfl)
theorem mulRn (m : MulMod) (rn rx ry : Reg) : Statement (.mulRn m rn rx ry) := by
  show (type2 .always (.mulRn .none m rn rx ry)).extractLsb' 18 30 = 0x4F8005#30
  exact opens (.mulRn .none m rn rx ry) 5 0x5#5 (by decide) (by
    unfold encodeCompute single
    simp (disch := decide) only [MulMod.opcode, extract_hi, Nat.reduceSub]
    obtain ⟨_|_, _|_, _|_, _|_⟩ := m <;> rfl)
theorem mulMrf (m : MulMod) (rx ry : Reg) : Statement (.mulMrf m rx ry) := by
  show (type2 .always (.mulMr .f .set m rx ry)).extractLsb' 18 30 = 0x4F8005#30
  exact opens (.mulMr .f .set m rx ry) 5 0x5#5 (by decide) (by
    unfold encodeCompute single
    simp (disch := decide) only [MulMod.opcode, extract_hi, Nat.reduceSub]
    obtain ⟨_|_, _|_, _|_, _|_⟩ := m <;> rfl)
theorem mulMrb (m : MulMod) (rx ry : Reg) : Statement (.mulMrb m rx ry) := by
  show (type2 .always (.mulMr .b .set m rx ry)).extractLsb' 18 30 = 0x4F8005#30
  exact opens (.mulMr .b .set m rx ry) 5 0x5#5 (by decide) (by
    unfold encodeCompute single
    simp (disch := decide) only [MulMod.opcode, extract_hi, Nat.reduceSub]
    obtain ⟨_|_, _|_, _|_, _|_⟩ := m <;> rfl)
theorem rnMrfPlus (m : MulMod) (rn rx ry : Reg) : Statement (.rnMrfPlus m rn rx ry) := by
  show (type2 .always (.mulRn (.plus .f) m rn rx ry)).extractLsb' 18 30 = 0x4F8006#30
  exact opens (.mulRn (.plus .f) m rn rx ry) 5 0x6#5 (by decide) (by
    unfold encodeCompute single
    simp (disch := decide) only [MulMod.opcode, extract_hi, Nat.reduceSub]
    obtain ⟨_|_, _|_, _|_, _|_⟩ := m <;> rfl)
theorem rnMrbPlus (m : MulMod) (rn rx ry : Reg) : Statement (.rnMrbPlus m rn rx ry) := by
  show (type2 .always (.mulRn (.plus .b) m rn rx ry)).extractLsb' 18 30 = 0x4F8006#30
  exact opens (.mulRn (.plus .b) m rn rx ry) 5 0x6#5 (by decide) (by
    unfold encodeCompute single
    simp (disch := decide) only [MulMod.opcode, extract_hi, Nat.reduceSub]
    obtain ⟨_|_, _|_, _|_, _|_⟩ := m <;> rfl)
theorem mrfPlus (m : MulMod) (rx ry : Reg) : Statement (.mrfPlus m rx ry) := by
  show (type2 .always (.mulMr .f .plus m rx ry)).extractLsb' 18 30 = 0x4F8006#30
  exact opens (.mulMr .f .plus m rx ry) 5 0x6#5 (by decide) (by
    unfold encodeCompute single
    simp (disch := decide) only [MulMod.opcode, extract_hi, Nat.reduceSub]
    obtain ⟨_|_, _|_, _|_, _|_⟩ := m <;> rfl)
theorem mrbPlus (m : MulMod) (rx ry : Reg) : Statement (.mrbPlus m rx ry) := by
  show (type2 .always (.mulMr .b .plus m rx ry)).extractLsb' 18 30 = 0x4F8006#30
  exact opens (.mulMr .b .plus m rx ry) 5 0x6#5 (by decide) (by
    unfold encodeCompute single
    simp (disch := decide) only [MulMod.opcode, extract_hi, Nat.reduceSub]
    obtain ⟨_|_, _|_, _|_, _|_⟩ := m <;> rfl)
theorem rnMrfMinus (m : MulMod) (rn rx ry : Reg) : Statement (.rnMrfMinus m rn rx ry) := by
  show (type2 .always (.mulRn (.minus .f) m rn rx ry)).extractLsb' 18 30 = 0x4F8007#30
  exact opens (.mulRn (.minus .f) m rn rx ry) 5 0x7#5 (by decide) (by
    unfold encodeCompute single
    simp (disch := decide) only [MulMod.opcode, extract_hi, Nat.reduceSub]
    obtain ⟨_|_, _|_, _|_, _|_⟩ := m <;> rfl)
theorem rnMrbMinus (m : MulMod) (rn rx ry : Reg) : Statement (.rnMrbMinus m rn rx ry) := by
  show (type2 .always (.mulRn (.minus .b) m rn rx ry)).extractLsb' 18 30 = 0x4F8007#30
  exact opens (.mulRn (.minus .b) m rn rx ry) 5 0x7#5 (by decide) (by
    unfold encodeCompute single
    simp (disch := decide) only [MulMod.opcode, extract_hi, Nat.reduceSub]
    obtain ⟨_|_, _|_, _|_, _|_⟩ := m <;> rfl)
theorem mrfMinus (m : MulMod) (rx ry : Reg) : Statement (.mrfMinus m rx ry) := by
  show (type2 .always (.mulMr .f .minus m rx ry)).extractLsb' 18 30 = 0x4F8007#30
  exact opens (.mulMr .f .minus m rx ry) 5 0x7#5 (by decide) (by
    unfold encodeCompute single
    simp (disch := decide) only [MulMod.opcode, extract_hi, Nat.reduceSub]
    obtain ⟨_|_, _|_, _|_, _|_⟩ := m <;> rfl)
theorem mrbMinus (m : MulMod) (rx ry : Reg) : Statement (.mrbMinus m rx ry) := by
  show (type2 .always (.mulMr .b .minus m rx ry)).extractLsb' 18 30 = 0x4F8007#30
  exact opens (.mulMr .b .minus m rx ry) 5 0x7#5 (by decide) (by
    unfold encodeCompute single
    simp (disch := decide) only [MulMod.opcode, extract_hi, Nat.reduceSub]
    obtain ⟨_|_, _|_, _|_, _|_⟩ := m <;> rfl)
theorem rnSatMrf (m : SatMod) (rn : Reg) : Statement (.rnSatMrf m rn) := by
  show (type2 .always (.satRn .f m rn)).extractLsb' 16 32 = 0x13E0010#32
  exact opens (.satRn .f m rn) 7 0x10#7 (by decide) (by
    unfold encodeCompute single
    simp (disch := decide) only [MulMod.opcode, extract_hi, Nat.reduceSub]
    obtain ⟨_|_, _|_⟩ := m <;> rfl)
theorem rnSatMrb (m : SatMod) (rn : Reg) : Statement (.rnSatMrb m rn) := by
  show (type2 .always (.satRn .b m rn)).extractLsb' 16 32 = 0x13E0010#32
  exact opens (.satRn .b m rn) 7 0x10#7 (by decide) (by
    unfold encodeCompute single
    simp (disch := decide) only [MulMod.opcode, extract_hi, Nat.reduceSub]
    obtain ⟨_|_, _|_⟩ := m <;> rfl)
theorem satMrf (m : SatMod) : Statement (.satMrf m) := by
  show (type2 .always (.satMr .f m)).extractLsb' 16 32 = 0x13E0010#32
  exact opens (.satMr .f m) 7 0x10#7 (by decide) (by
    unfold encodeCompute single
    simp (disch := decide) only [MulMod.opcode, extract_hi, Nat.reduceSub]
    obtain ⟨_|_, _|_⟩ := m <;> rfl)
theorem satMrb (m : SatMod) : Statement (.satMrb m) := by
  show (type2 .always (.satMr .b m)).extractLsb' 16 32 = 0x13E0010#32
  exact opens (.satMr .b m) 7 0x10#7 (by decide) (by
    unfold encodeCompute single
    simp (disch := decide) only [MulMod.opcode, extract_hi, Nat.reduceSub]
    obtain ⟨_|_, _|_⟩ := m <;> rfl)
theorem rnRndMrf (signed : Bool) (rn : Reg) : Statement (.rnRndMrf signed rn) := by
  show (type2 .always (.rndRn .f signed rn)).extractLsb' 13 35 = 0x9F0008C#35
  exact opens (.rndRn .f signed rn) 10 0x8C#10 (by decide) (by
    unfold encodeCompute single
    simp (disch := decide) only [MulMod.opcode, extract_hi, Nat.reduceSub]
    cases signed <;> rfl)
theorem rnRndMrb (signed : Bool) (rn : Reg) : Statement (.rnRndMrb signed rn) := by
  show (type2 .always (.rndRn .b signed rn)).extractLsb' 13 35 = 0x9F0008D#35
  exact opens (.rndRn .b signed rn) 10 0x8D#10 (by decide) (by
    unfold encodeCompute single
    simp (disch := decide) only [MulMod.opcode, extract_hi, Nat.reduceSub]
    cases signed <;> rfl)
theorem rndMrf (signed : Bool) : Statement (.rndMrf signed) := by
  show (type2 .always (.rndMr .f signed)).extractLsb' 13 35 = 0x9F0008E#35
  exact opens (.rndMr .f signed) 10 0x8E#10 (by decide) (by
    unfold encodeCompute single
    simp (disch := decide) only [MulMod.opcode, extract_hi, Nat.reduceSub]
    cases signed <;> rfl)
theorem rndMrb (signed : Bool) : Statement (.rndMrb signed) := by
  show (type2 .always (.rndMr .b signed)).extractLsb' 13 35 = 0x9F0008F#35
  exact opens (.rndMr .b signed) 10 0x8F#10 (by decide) (by
    unfold encodeCompute single
    simp (disch := decide) only [MulMod.opcode, extract_hi, Nat.reduceSub]
    cases signed <;> rfl)
theorem clrMrf : Statement (.clrMrf) := by
  show (type2 .always (.clrMr .f)).extractLsb' 12 36 = 0x13E00114#36
  exact opens (.clrMr .f) 11 0x114#11 (by decide) (by
    unfold encodeCompute single
    simp (disch := decide) only [MulMod.opcode, extract_hi, Nat.reduceSub]
    rfl)
theorem clrMrb : Statement (.clrMrb) := by
  show (type2 .always (.clrMr .b)).extractLsb' 12 36 = 0x13E00116#36
  exact opens (.clrMr .b) 11 0x116#11 (by decide) (by
    unfold encodeCompute single
    simp (disch := decide) only [MulMod.opcode, extract_hi, Nat.reduceSub]
    rfl)
theorem mulF (rn rx ry : Reg) : Statement (.mulF rn rx ry) := by
  show (type2 .always (.mulF rn rx ry)).extractLsb' 12 36 = 0x13E00130#36
  exact opens (.mulF rn rx ry) 11 0x130#11 (by decide) (by
    unfold encodeCompute single
    simp (disch := decide) only [MulMod.opcode, extract_hi, Nat.reduceSub]
    rfl)
theorem mrToReg (p : MrPart) (rk : Reg) : Statement (.mrToReg p rk) := by
  show (type2 .always (.mrToReg p rk)).extractLsb' 16 32 = 0x13E0040#32
  exact opens (.mrToReg p rk) 7 0x40#7 (by decide) (by
    unfold encodeCompute single
    simp (disch := decide) only [MulMod.opcode, extract_hi, Nat.reduceSub]
    rfl)
theorem regToMr (p : MrPart) (rk : Reg) : Statement (.regToMr p rk) := by
  show (type2 .always (.regToMr p rk)).extractLsb' 16 32 = 0x13E0041#32
  exact opens (.regToMr p rk) 7 0x41#7 (by decide) (by
    unfold encodeCompute single
    simp (disch := decide) only [MulMod.opcode, extract_hi, Nat.reduceSub]
    rfl)
theorem lshift (rn rx ry : Reg) : Statement (.lshift rn rx ry) := by
  show (type2 .always (.shBin .lshift rn rx ry)).extractLsb' 12 36 = 0x13E00200#36
  exact opens (.shBin .lshift rn rx ry) 11 0x200#11 (by decide) (by
    unfold encodeCompute single
    simp (disch := decide) only [MulMod.opcode, extract_hi, Nat.reduceSub]
    rfl)
theorem orLshift (rn rx ry : Reg) : Statement (.orLshift rn rx ry) := by
  show (type2 .always (.shBin .orLshift rn rx ry)).extractLsb' 12 36 = 0x13E00220#36
  exact opens (.shBin .orLshift rn rx ry) 11 0x220#11 (by decide) (by
    unfold encodeCompute single
    simp (disch := decide) only [MulMod.opcode, extract_hi, Nat.reduceSub]
    rfl)
theorem ashift (rn rx ry : Reg) : Statement (.ashift rn rx ry) := by
  show (type2 .always (.shBin .ashift rn rx ry)).extractLsb' 12 36 = 0x13E00204#36
  exact opens (.shBin .ashift rn rx ry) 11 0x204#11 (by decide) (by
    unfold encodeCompute single
    simp (disch := decide) only [MulMod.opcode, extract_hi, Nat.reduceSub]
    rfl)
theorem orAshift (rn rx ry : Reg) : Statement (.orAshift rn rx ry) := by
  show (type2 .always (.shBin .orAshift rn rx ry)).extractLsb' 12 36 = 0x13E00224#36
  exact opens (.shBin .orAshift rn rx ry) 11 0x224#11 (by decide) (by
    unfold encodeCompute single
    simp (disch := decide) only [MulMod.opcode, extract_hi, Nat.reduceSub]
    rfl)
theorem rot (rn rx ry : Reg) : Statement (.rot rn rx ry) := by
  show (type2 .always (.shBin .rot rn rx ry)).extractLsb' 12 36 = 0x13E00208#36
  exact opens (.shBin .rot rn rx ry) 11 0x208#11 (by decide) (by
    unfold encodeCompute single
    simp (disch := decide) only [MulMod.opcode, extract_hi, Nat.reduceSub]
    rfl)
theorem bclr (rn rx ry : Reg) : Statement (.bclr rn rx ry) := by
  show (type2 .always (.shBin .bclr rn rx ry)).extractLsb' 12 36 = 0x13E002C4#36
  exact opens (.shBin .bclr rn rx ry) 11 0x2C4#11 (by decide) (by
    unfold encodeCompute single
    simp (disch := decide) only [MulMod.opcode, extract_hi, Nat.reduceSub]
    rfl)
theorem bset (rn rx ry : Reg) : Statement (.bset rn rx ry) := by
  show (type2 .always (.shBin .bset rn rx ry)).extractLsb' 12 36 = 0x13E002C0#36
  exact opens (.shBin .bset rn rx ry) 11 0x2C0#11 (by decide) (by
    unfold encodeCompute single
    simp (disch := decide) only [MulMod.opcode, extract_hi, Nat.reduceSub]
    rfl)
theorem btgl (rn rx ry : Reg) : Statement (.btgl rn rx ry) := by
  show (type2 .always (.shBin .btgl rn rx ry)).extractLsb' 12 36 = 0x13E002C8#36
  exact opens (.shBin .btgl rn rx ry) 11 0x2C8#11 (by decide) (by
    unfold encodeCompute single
    simp (disch := decide) only [MulMod.opcode, extract_hi, Nat.reduceSub]
    rfl)
theorem btst (rx ry : Reg) : Statement (.btst rx ry) := by
  show (type2 .always (.btst rx ry)).extractLsb' 12 36 = 0x13E002CC#36
  exact opens (.btst rx ry) 11 0x2CC#11 (by decide) (by
    unfold encodeCompute single
    simp (disch := decide) only [MulMod.opcode, extract_hi, Nat.reduceSub]
    rfl)
theorem fdep (rn rx ry : Reg) : Statement (.fdep rn rx ry) := by
  show (type2 .always (.shBin .fdep rn rx ry)).extractLsb' 12 36 = 0x13E00244#36
  exact opens (.shBin .fdep rn rx ry) 11 0x244#11 (by decide) (by
    unfold encodeCompute single
    simp (disch := decide) only [MulMod.opcode, extract_hi, Nat.reduceSub]
    rfl)
theorem orFdep (rn rx ry : Reg) : Statement (.orFdep rn rx ry) := by
  show (type2 .always (.shBin .orFdep rn rx ry)).extractLsb' 12 36 = 0x13E00264#36
  exact opens (.shBin .orFdep rn rx ry) 11 0x264#11 (by decide) (by
    unfold encodeCompute single
    simp (disch := decide) only [MulMod.opcode, extract_hi, Nat.reduceSub]
    rfl)
theorem fdepSe (rn rx ry : Reg) : Statement (.fdepSe rn rx ry) := by
  show (type2 .always (.shBin .fdepSe rn rx ry)).extractLsb' 12 36 = 0x13E0024C#36
  exact opens (.shBin .fdepSe rn rx ry) 11 0x24C#11 (by decide) (by
    unfold encodeCompute single
    simp (disch := decide) only [MulMod.opcode, extract_hi, Nat.reduceSub]
    rfl)
theorem orFdepSe (rn rx ry : Reg) : Statement (.orFdepSe rn rx ry) := by
  show (type2 .always (.shBin .orFdepSe rn rx ry)).extractLsb' 12 36 = 0x13E0026C#36
  exact opens (.shBin .orFdepSe rn rx ry) 11 0x26C#11 (by decide) (by
    unfold encodeCompute single
    simp (disch := decide) only [MulMod.opcode, extract_hi, Nat.reduceSub]
    rfl)
theorem fext (rn rx ry : Reg) : Statement (.fext rn rx ry) := by
  show (type2 .always (.shBin .fext rn rx ry)).extractLsb' 12 36 = 0x13E00240#36
  exact opens (.shBin .fext rn rx ry) 11 0x240#11 (by decide) (by
    unfold encodeCompute single
    simp (disch := decide) only [MulMod.opcode, extract_hi, Nat.reduceSub]
    rfl)
theorem fextSe (rn rx ry : Reg) : Statement (.fextSe rn rx ry) := by
  show (type2 .always (.shBin .fextSe rn rx ry)).extractLsb' 12 36 = 0x13E00248#36
  exact opens (.shBin .fextSe rn rx ry) 11 0x248#11 (by decide) (by
    unfold encodeCompute single
    simp (disch := decide) only [MulMod.opcode, extract_hi, Nat.reduceSub]
    rfl)
theorem exp (rn rx : Reg) : Statement (.exp rn rx) := by
  show (type2 .always (.shUn .exp rn rx)).extractLsb' 12 36 = 0x13E00280#36
  exact opens (.shUn .exp rn rx) 11 0x280#11 (by decide) (by
    unfold encodeCompute single
    simp (disch := decide) only [MulMod.opcode, extract_hi, Nat.reduceSub]
    rfl)
theorem expEx (rn rx : Reg) : Statement (.expEx rn rx) := by
  show (type2 .always (.shUn .expEx rn rx)).extractLsb' 12 36 = 0x13E00284#36
  exact opens (.shUn .expEx rn rx) 11 0x284#11 (by decide) (by
    unfold encodeCompute single
    simp (disch := decide) only [MulMod.opcode, extract_hi, Nat.reduceSub]
    rfl)
theorem leftz (rn rx : Reg) : Statement (.leftz rn rx) := by
  show (type2 .always (.shUn .leftz rn rx)).extractLsb' 12 36 = 0x13E00288#36
  exact opens (.shUn .leftz rn rx) 11 0x288#11 (by decide) (by
    unfold encodeCompute single
    simp (disch := decide) only [MulMod.opcode, extract_hi, Nat.reduceSub]
    rfl)
theorem lefto (rn rx : Reg) : Statement (.lefto rn rx) := by
  show (type2 .always (.shUn .lefto rn rx)).extractLsb' 12 36 = 0x13E0028C#36
  exact opens (.shUn .lefto rn rx) 11 0x28C#11 (by decide) (by
    unfold encodeCompute single
    simp (disch := decide) only [MulMod.opcode, extract_hi, Nat.reduceSub]
    rfl)
theorem fpack (rn rx : Reg) : Statement (.fpack rn rx) := by
  show (type2 .always (.shUn .fpack rn rx)).extractLsb' 12 36 = 0x13E00290#36
  exact opens (.shUn .fpack rn rx) 11 0x290#11 (by decide) (by
    unfold encodeCompute single
    simp (disch := decide) only [MulMod.opcode, extract_hi, Nat.reduceSub]
    rfl)
theorem funpack (rn rx : Reg) : Statement (.funpack rn rx) := by
  show (type2 .always (.shUn .funpack rn rx)).extractLsb' 12 36 = 0x13E00294#36
  exact opens (.shUn .funpack rn rx) 11 0x294#11 (by decide) (by
    unfold encodeCompute single
    simp (disch := decide) only [MulMod.opcode, extract_hi, Nat.reduceSub]
    rfl)
theorem dualFix (rs ra rx ry : Reg) : Statement (.dualFix rs ra rx ry) := by
  show (type2 .always (.dualFix rs ra rx ry)).extractLsb' 16 32 = 0x13E0007#32
  exact opens (.dualFix rs ra rx ry) 7 0x7#7 (by decide) (by
    unfold encodeCompute single
    simp (disch := decide) only [MulMod.opcode, extract_hi, Nat.reduceSub]
    revert rs; decide)
theorem dualFlt (rs ra rx ry : Reg) : Statement (.dualFlt rs ra rx ry) := by
  show (type2 .always (.dualFlt rs ra rx ry)).extractLsb' 16 32 = 0x13E000F#32
  exact opens (.dualFlt rs ra rx ry) 7 0xF#7 (by decide) (by
    unfold encodeCompute single
    simp (disch := decide) only [MulMod.opcode, extract_hi, Nat.reduceSub]
    revert rs; decide)
theorem mfMulAdd (q : MfRegs) : Statement (.mfMulAdd q) := by
  show (type2 .always (.mfFix .rm .add q)).extractLsb' 16 32 = 0x13E0044#32
  exact opens (.mfFix .rm .add q) 7 0x44#7 (by decide) (by
    unfold encodeCompute single
    simp (disch := decide) only [MulMod.opcode, extract_hi, Nat.reduceSub]
    rfl)
theorem mfMulSub (q : MfRegs) : Statement (.mfMulSub q) := by
  show (type2 .always (.mfFix .rm .sub q)).extractLsb' 16 32 = 0x13E0045#32
  exact opens (.mfFix .rm .sub q) 7 0x45#7 (by decide) (by
    unfold encodeCompute single
    simp (disch := decide) only [MulMod.opcode, extract_hi, Nat.reduceSub]
    rfl)
theorem mfMulAvg (q : MfRegs) : Statement (.mfMulAvg q) := by
  show (type2 .always (.mfFix .rm .avg q)).extractLsb' 16 32 = 0x13E0046#32
  exact opens (.mfFix .rm .avg q) 7 0x46#7 (by decide) (by
    unfold encodeCompute single
    simp (disch := decide) only [MulMod.opcode, extract_hi, Nat.reduceSub]
    rfl)
theorem mfMrfPlusAdd (q : MfRegs) : Statement (.mfMrfPlusAdd q) := by
  show (type2 .always (.mfFix .mrfPlus .add q)).extractLsb' 16 32 = 0x13E0048#32
  exact opens (.mfFix .mrfPlus .add q) 7 0x48#7 (by decide) (by
    unfold encodeCompute single
    simp (disch := decide) only [MulMod.opcode, extract_hi, Nat.reduceSub]
    rfl)
theorem mfMrfPlusSub (q : MfRegs) : Statement (.mfMrfPlusSub q) := by
  show (type2 .always (.mfFix .mrfPlus .sub q)).extractLsb' 16 32 = 0x13E0049#32
  exact opens (.mfFix .mrfPlus .sub q) 7 0x49#7 (by decide) (by
    unfold encodeCompute single
    simp (disch := decide) only [MulMod.opcode, extract_hi, Nat.reduceSub]
    rfl)
theorem mfMrfPlusAvg (q : MfRegs) : Statement (.mfMrfPlusAvg q) := by
  show (type2 .always (.mfFix .mrfPlus .avg q)).extractLsb' 16 32 = 0x13E004A#32
  exact opens (.mfFix .mrfPlus .avg q) 7 0x4A#7 (by decide) (by
    unfold encodeCompute single
    simp (disch := decide) only [MulMod.opcode, extract_hi, Nat.reduceSub]
    rfl)
theorem mfRmPlusAdd (q : MfRegs) : Statement (.mfRmPlusAdd q) := by
  show (type2 .always (.mfFix .rmPlus .add q)).extractLsb' 16 32 = 0x13E004C#32
  exact opens (.mfFix .rmPlus .add q) 7 0x4C#7 (by decide) (by
    unfold encodeCompute single
    simp (disch := decide) only [MulMod.opcode, extract_hi, Nat.reduceSub]
    rfl)
theorem mfRmPlusSub (q : MfRegs) : Statement (.mfRmPlusSub q) := by
  show (type2 .always (.mfFix .rmPlus .sub q)).extractLsb' 16 32 = 0x13E004D#32
  exact opens (.mfFix .rmPlus .sub q) 7 0x4D#7 (by decide) (by
    unfold encodeCompute single
    simp (disch := decide) only [MulMod.opcode, extract_hi, Nat.reduceSub]
    rfl)
theorem mfRmPlusAvg (q : MfRegs) : Statement (.mfRmPlusAvg q) := by
  show (type2 .always (.mfFix .rmPlus .avg q)).extractLsb' 16 32 = 0x13E004E#32
  exact opens (.mfFix .rmPlus .avg q) 7 0x4E#7 (by decide) (by
    unfold encodeCompute single
    simp (disch := decide) only [MulMod.opcode, extract_hi, Nat.reduceSub]
    rfl)
theorem mfMrfMinusAdd (q : MfRegs) : Statement (.mfMrfMinusAdd q) := by
  show (type2 .always (.mfFix .mrfMinus .add q)).extractLsb' 16 32 = 0x13E0050#32
  exact opens (.mfFix .mrfMinus .add q) 7 0x50#7 (by decide) (by
    unfold encodeCompute single
    simp (disch := decide) only [MulMod.opcode, extract_hi, Nat.reduceSub]
    rfl)
theorem mfMrfMinusSub (q : MfRegs) : Statement (.mfMrfMinusSub q) := by
  show (type2 .always (.mfFix .mrfMinus .sub q)).extractLsb' 16 32 = 0x13E0051#32
  exact opens (.mfFix .mrfMinus .sub q) 7 0x51#7 (by decide) (by
    unfold encodeCompute single
    simp (disch := decide) only [MulMod.opcode, extract_hi, Nat.reduceSub]
    rfl)
theorem mfMrfMinusAvg (q : MfRegs) : Statement (.mfMrfMinusAvg q) := by
  show (type2 .always (.mfFix .mrfMinus .avg q)).extractLsb' 16 32 = 0x13E0052#32
  exact opens (.mfFix .mrfMinus .avg q) 7 0x52#7 (by decide) (by
    unfold encodeCompute single
    simp (disch := decide) only [MulMod.opcode, extract_hi, Nat.reduceSub]
    rfl)
theorem mfRmMinusAdd (q : MfRegs) : Statement (.mfRmMinusAdd q) := by
  show (type2 .always (.mfFix .rmMinus .add q)).extractLsb' 16 32 = 0x13E0054#32
  exact opens (.mfFix .rmMinus .add q) 7 0x54#7 (by decide) (by
    unfold encodeCompute single
    simp (disch := decide) only [MulMod.opcode, extract_hi, Nat.reduceSub]
    rfl)
theorem mfRmMinusSub (q : MfRegs) : Statement (.mfRmMinusSub q) := by
  show (type2 .always (.mfFix .rmMinus .sub q)).extractLsb' 16 32 = 0x13E0055#32
  exact opens (.mfFix .rmMinus .sub q) 7 0x55#7 (by decide) (by
    unfold encodeCompute single
    simp (disch := decide) only [MulMod.opcode, extract_hi, Nat.reduceSub]
    rfl)
theorem mfRmMinusAvg (q : MfRegs) : Statement (.mfRmMinusAvg q) := by
  show (type2 .always (.mfFix .rmMinus .avg q)).extractLsb' 16 32 = 0x13E0056#32
  exact opens (.mfFix .rmMinus .avg q) 7 0x56#7 (by decide) (by
    unfold encodeCompute single
    simp (disch := decide) only [MulMod.opcode, extract_hi, Nat.reduceSub]
    rfl)
theorem mfFmulAdd (q : MfRegs) : Statement (.mfFmulAdd q) := by
  show (type2 .always (.mfFlt .add q)).extractLsb' 16 32 = 0x13E0058#32
  exact opens (.mfFlt .add q) 7 0x58#7 (by decide) (by
    unfold encodeCompute single
    simp (disch := decide) only [MulMod.opcode, extract_hi, Nat.reduceSub]
    rfl)
theorem mfFmulSub (q : MfRegs) : Statement (.mfFmulSub q) := by
  show (type2 .always (.mfFlt .sub q)).extractLsb' 16 32 = 0x13E0059#32
  exact opens (.mfFlt .sub q) 7 0x59#7 (by decide) (by
    unfold encodeCompute single
    simp (disch := decide) only [MulMod.opcode, extract_hi, Nat.reduceSub]
    rfl)
theorem mfFmulFloat (q : MfRegs) : Statement (.mfFmulFloat q) := by
  show (type2 .always (.mfFlt .float q)).extractLsb' 16 32 = 0x13E005A#32
  exact opens (.mfFlt .float q) 7 0x5A#7 (by decide) (by
    unfold encodeCompute single
    simp (disch := decide) only [MulMod.opcode, extract_hi, Nat.reduceSub]
    rfl)
theorem mfFmulFix (q : MfRegs) : Statement (.mfFmulFix q) := by
  show (type2 .always (.mfFlt .fix q)).extractLsb' 16 32 = 0x13E005B#32
  exact opens (.mfFlt .fix q) 7 0x5B#7 (by decide) (by
    unfold encodeCompute single
    simp (disch := decide) only [MulMod.opcode, extract_hi, Nat.reduceSub]
    rfl)
theorem mfFmulAvg (q : MfRegs) : Statement (.mfFmulAvg q) := by
  show (type2 .always (.mfFlt .avg q)).extractLsb' 16 32 = 0x13E005C#32
  exact opens (.mfFlt .avg q) 7 0x5C#7 (by decide) (by
    unfold encodeCompute single
    simp (disch := decide) only [MulMod.opcode, extract_hi, Nat.reduceSub]
    rfl)
theorem mfFmulAbs (q : MfRegs) : Statement (.mfFmulAbs q) := by
  show (type2 .always (.mfFlt .abs q)).extractLsb' 16 32 = 0x13E005D#32
  exact opens (.mfFlt .abs q) 7 0x5D#7 (by decide) (by
    unfold encodeCompute single
    simp (disch := decide) only [MulMod.opcode, extract_hi, Nat.reduceSub]
    rfl)
theorem mfFmulMax (q : MfRegs) : Statement (.mfFmulMax q) := by
  show (type2 .always (.mfFlt .max q)).extractLsb' 16 32 = 0x13E005E#32
  exact opens (.mfFlt .max q) 7 0x5E#7 (by decide) (by
    unfold encodeCompute single
    simp (disch := decide) only [MulMod.opcode, extract_hi, Nat.reduceSub]
    rfl)
theorem mfFmulMin (q : MfRegs) : Statement (.mfFmulMin q) := by
  show (type2 .always (.mfFlt .min q)).extractLsb' 16 32 = 0x13E005F#32
  exact opens (.mfFlt .min q) 7 0x5F#7 (by decide) (by
    unfold encodeCompute single
    simp (disch := decide) only [MulMod.opcode, extract_hi, Nat.reduceSub]
    rfl)
theorem mfDualFix (rs : Reg) (q : MfRegs) : Statement (.mfDualFix rs q) := by
  show (type2 .always (.mfDualFix rs q)).extractLsb' 20 28 = 0x13E006#28
  exact opens (.mfDualFix rs q) 3 0x6#3 (by decide) (by
    unfold encodeCompute single
    simp (disch := decide) only [MulMod.opcode, extract_hi, Nat.reduceSub]
    rfl)
theorem mfDualFlt (rs : Reg) (q : MfRegs) : Statement (.mfDualFlt rs q) := by
  show (type2 .always (.mfDualFlt rs q)).extractLsb' 20 28 = 0x13E007#28
  exact opens (.mfDualFlt rs q) 3 0x7#3 (by decide) (by
    unfold encodeCompute single
    simp (disch := decide) only [MulMod.opcode, extract_hi, Nat.reduceSub]
    rfl)
theorem noCompute : Statement (.noCompute) := by
  show (type2 .always (.none)).extractLsb' 0 48 = 0x13E00000000#48
  exact opens (.none) 23 0x0#23 (by decide) (by
    unfold encodeCompute single
    simp (disch := decide) only [MulMod.opcode, extract_hi, Nat.reduceSub]
    rfl)

end Laws.Opening
end Sys2Proof
end

