-- ==== Sys2Proof/Tests/Slice0.lean ====
section
/-!
SUPPORT. Tests/Slice0.lean: the author's own tests. Expected values are the spec's: the vectors of 95_test_vectors.md and of
44_alu_fixed.md R427, 45_alu_float.md R477, 46_multiplier.md R523, 47_shifter.md R557 and 48_multifunction.md R564, or hand
calculation from the rule named. The last part shows for each statement with hypotheses a state and operands that meet them.
-/
open Sys2Proof Sys2Proof.Machine
namespace Sys2Proof.Tests

/-! ### Well-formedness -/

/-- A rounded integer product has no modifier (46_multiplier.md R491). -/
theorem test_wf_rounded_integer : (Instr.mulRn ⟨true, true, false, true⟩ 0 1 2).WellFormed = false := by decide

/-- The same inside the compute field of a move. -/
theorem test_wf_rounded_integer_inside :
    (Instr.uregMove (.r 1) .always (.r 2) (.mulMr .f .plus ⟨false, true, false, true⟩ 1 2)).WellFormed = false := by decide

/-- A Type 2 word with COND = TRUE is its compute row (30_encoding.md R203). -/
theorem test_wf_unconditional : (Instr.condCompute .always (.aluBin .add 2 0 1)).WellFormed = false := by decide

/-! ### Decoding: words written out from the opcode table's encodings -/

/-- Each word decodes to the instruction beside it, which encodes to the word. -/
def agrees (rows : List (W48 × Instr)) : Bool :=
  rows.all fun p => encode p.2 == p.1 && (match decode p.1 with | .ok i => i == p.2 | .error _ => false)

theorem test_decode_types_1_to_7 : agrees [
    (0x34CBBC801201, .dualMove true 2 3 5 false 6 7 9 (.aluBin .add 2 0 1)),
    (0x010A00001201, .condCompute (.is .mv) (.aluBin .add 2 0 1)),
    (0x556375800000, .uregMem true 2 5 (.isNot .lt) true false true .px .none),
    (0x655235801201, .dregMemImm 2 true false true (.is (.flag 0)) 6 11 (.aluBin .add 2 0 1)),
    (0x735B92001201, .uregMove (.l 7) (.is .tf) (.m 4) (.aluBin .add 2 0 1)),
    (0x787E06001201, .swap 1 .always 12 (.aluBin .add 2 0 1)),
    (0x89A489900826, .shiftImmMem 4 6 (.isNot .le) false true 1 3 (.bin .fext) 8 2 6),
    (0x023008100831, .shiftImm (.isNot .sz) 1 (.bin .fext) 8 3 1),
    (0x045EC8001201, .modify true .lce 3 1 (.aluBin .add 2 0 1))] = true := by decide

theorem test_decode_types_8_to_13 : agrees [
    (0x064801040110, .jumpAbs true (.is .av) false true 0x40110),
    (0x073E05000002, .jumpRel false .always true true 2),
    (0x06BE04040110, .callAbs .always true 0x40110),
    (0x078000FFFFFD, .callRel (.is .eq) false 0xFFFFFD),
    (0x087F0B001201, .jumpInd true .always 4 1 false true true (.aluBin .add 2 0 1)),
    (0x0907EC001201, .jumpRel6 false (.is .ac) 0x3D true false false (.aluBin .add 2 0 1)),
    (0x08BD0A001201, .callInd (.isNot .bm) 4 1 false true (.aluBin .add 2 0 1)),
    (0x09808E001201, .callRel6 (.is .eq) 17 true true (.aluBin .add 2 0 1)),
    (0xCC5A9B001201, .jumpIndElse false 6 1 (.is .tf) 2 3 6 (.aluBin .add 2 0 1)),
    (0xF121E8801201, .jumpRelElse true 0 4 (.isNot .eq) 0x3D 1 (.aluBin .add 2 0 1)),
    (0x0A0405001201, .rts (.is .le) true false true (.aluBin .add 2 0 1)),
    (0x0B3E02001201, .rti .always false true (.aluBin .add 2 0 1)),
    (0x0C0064000020, .doImm 100 0x20),
    (0x0D0C00000010, .doUreg (.r 12) 0x10),
    (0x0E0600000007, .doUntil (.is .ac) 7)] = true := by decide

theorem test_decode_types_14_to_18 : agrees [
    (0x119300040000, .uregAbs false true true (.i 3) 0x40000),
    (0xAB0200000018, .uregPre false 5 true false (.r 2) 24),
    (0x9CE000000005, .storeImm 6 3 true 5),
    (0x0F6812345678, .loadImm .lcntr 0x12345678),
    (0x140400000070, .bitSet .mode2 0x70),
    (0x1428FFFFFFFF, .bitClr .stkyx 0xFFFFFFFF),
    (0x144200000001, .bitTgl .mode1 1),
    (0x148600002000, .bitTst .astatx 0x2000),
    (0x14A012345678, .bitXor .ustat1 0x12345678)] = true := by decide

theorem test_decode_types_19_to_25 : agrees [
    (0x1644FFFFFFFF, .modifyImm true 4 0xFFFFFFFF),
    (0x168100000004, .bitrev false 1 4),
    (0x17A000000000, .pushLoop true false false),
    (0x174400000000, .popLoop false true false),
    (0x172800000000, .pushSts true false),
    (0x171200000000, .popSts false true),
    (0x170A00000000, .pushPc true),
    (0x170600000000, .popPc true),
    (0x170200000000, .flushCache),
    (0x000000000000, .nop),
    (0x008000000000, .idle),
    (0x180400041000, .cjumpAbs 0x41000),
    (0x184400FFFFFE, .cjumpRel 0xFFFFFE),
    (0x190000000000, .rframe)] = true := by decide

theorem test_decode_alu_fixed : agrees [
    (0x013E0000179C, .add 7 9 12),
    (0x013E0000279C, .sub 7 9 12),
    (0x013E0000579C, .addCi 7 9 12),
    (0x013E0000679C, .subCi 7 9 12),
    (0x013E0000979C, .avg 7 9 12),
    (0x013E0000A09C, .comp 9 12),
    (0x013E0000B09C, .compu 9 12),
    (0x013E00025790, .plusCi 7 9),
    (0x013E00026790, .plusCiM1 7 9),
    (0x013E00029790, .inc 7 9),
    (0x013E0002A790, .dec 7 9),
    (0x013E00022790, .neg 7 9),
    (0x013E00030790, .abs 7 9),
    (0x013E00021790, .pass 7 9),
    (0x013E0004079C, .and 7 9 12),
    (0x013E0004179C, .or 7 9 12),
    (0x013E0004279C, .xor 7 9 12),
    (0x013E00043790, .not 7 9),
    (0x013E0006179C, .min 7 9 12),
    (0x013E0006279C, .max 7 9 12),
    (0x013E0006379C, .clip 7 9 12)] = true := by decide

theorem test_decode_alu_float : agrees [
    (0x013E0008179C, .fadd 7 9 12),
    (0x013E0008279C, .fsub 7 9 12),
    (0x013E0009179C, .fabsAdd 7 9 12),
    (0x013E0009279C, .fabsSub 7 9 12),
    (0x013E0008979C, .favg 7 9 12),
    (0x013E0008A09C, .fcomp 9 12),
    (0x013E000A2790, .fneg 7 9),
    (0x013E000B0790, .fabs 7 9),
    (0x013E000A1790, .fpass 7 9),
    (0x013E000A5790, .frnd 7 9),
    (0x013E000BD79C, .scalb 7 9 12),
    (0x013E000AD790, .mant 7 9),
    (0x013E000C1790, .logb 7 9),
    (0x013E000C9790, .fix 7 9),
    (0x013E000D979C, .fixBy 7 9 12),
    (0x013E000CD790, .trunc 7 9),
    (0x013E000DD79C, .truncBy 7 9 12),
    (0x013E000CA790, .float 7 9),
    (0x013E000DA79C, .floatBy 7 9 12),
    (0x013E000C4790, .recips 7 9),
    (0x013E000C5790, .rsqrts 7 9),
    (0x013E000E079C, .copysign 7 9 12),
    (0x013E000E179C, .fmin 7 9 12),
    (0x013E000E279C, .fmax 7 9 12),
    (0x013E000E379C, .fclip 7 9 12)] = true := by decide

theorem test_decode_multiplier : agrees [
    (0x013E0016979C, .mulRn ⟨true, false, true, true⟩ 7 9 12),
    (0x013E0016D09C, .mulMrf ⟨true, false, true, true⟩ 9 12),
    (0x013E0016F09C, .mulMrb ⟨true, false, true, true⟩ 9 12),
    (0x013E001A979C, .rnMrfPlus ⟨true, false, true, true⟩ 7 9 12),
    (0x013E001AB79C, .rnMrbPlus ⟨true, false, true, true⟩ 7 9 12),
    (0x013E001AD09C, .mrfPlus ⟨true, false, true, true⟩ 9 12),
    (0x013E001AF09C, .mrbPlus ⟨true, false, true, true⟩ 9 12),
    (0x013E001E979C, .rnMrfMinus ⟨true, false, true, true⟩ 7 9 12),
    (0x013E001EB79C, .rnMrbMinus ⟨true, false, true, true⟩ 7 9 12),
    (0x013E001ED09C, .mrfMinus ⟨true, false, true, true⟩ 9 12),
    (0x013E001EF09C, .mrbMinus ⟨true, false, true, true⟩ 9 12),
    (0x013E00108700, .rnSatMrf ⟨true, false⟩ 7),
    (0x013E0010A700, .rnSatMrb ⟨true, false⟩ 7),
    (0x013E0010C000, .satMrf ⟨true, false⟩),
    (0x013E0010E000, .satMrb ⟨true, false⟩),
    (0x013E00119700, .rnRndMrf true 7),
    (0x013E0011B700, .rnRndMrb true 7),
    (0x013E0011D000, .rndMrf true),
    (0x013E0011F000, .rndMrb true),
    (0x013E00114000, .clrMrf),
    (0x013E00116000, .clrMrb),
    (0x013E0013079C, .mulF 7 9 12)] = true := by decide

theorem test_decode_mr_transfers : agrees [
    (0x013E00401E00, .mrToReg .mr1f 14),
    (0x013E00411E00, .regToMr .mr1f 14)] = true := by decide

theorem test_decode_shifter : agrees [
    (0x013E0020079C, .lshift 7 9 12),
    (0x013E0022079C, .orLshift 7 9 12),
    (0x013E0020479C, .ashift 7 9 12),
    (0x013E0022479C, .orAshift 7 9 12),
    (0x013E0020879C, .rot 7 9 12),
    (0x013E002C479C, .bclr 7 9 12),
    (0x013E002C079C, .bset 7 9 12),
    (0x013E002C879C, .btgl 7 9 12),
    (0x013E002CC09C, .btst 9 12),
    (0x013E0024479C, .fdep 7 9 12),
    (0x013E0026479C, .orFdep 7 9 12),
    (0x013E0024C79C, .fdepSe 7 9 12),
    (0x013E0026C79C, .orFdepSe 7 9 12),
    (0x013E0024079C, .fext 7 9 12),
    (0x013E0024879C, .fextSe 7 9 12),
    (0x013E00280790, .exp 7 9),
    (0x013E00284790, .expEx 7 9),
    (0x013E00288790, .leftz 7 9),
    (0x013E0028C790, .lefto 7 9),
    (0x013E00290790, .fpack 7 9),
    (0x013E00294790, .funpack 7 9)] = true := by decide

theorem test_decode_dual_add_subtract : agrees [
    (0x013E0007A59C, .dualFix 10 5 9 12),
    (0x013E000FA59C, .dualFlt 10 5 9 12)] = true := by decide

theorem test_decode_multifunction : agrees [
    (0x013E0044756C, .mfMulAdd ⟨7, 5, 1, 2, 3, 0⟩),
    (0x013E0045756C, .mfMulSub ⟨7, 5, 1, 2, 3, 0⟩),
    (0x013E0046756C, .mfMulAvg ⟨7, 5, 1, 2, 3, 0⟩),
    (0x013E0048756C, .mfMrfPlusAdd ⟨7, 5, 1, 2, 3, 0⟩),
    (0x013E0049756C, .mfMrfPlusSub ⟨7, 5, 1, 2, 3, 0⟩),
    (0x013E004A756C, .mfMrfPlusAvg ⟨7, 5, 1, 2, 3, 0⟩),
    (0x013E004C756C, .mfRmPlusAdd ⟨7, 5, 1, 2, 3, 0⟩),
    (0x013E004D756C, .mfRmPlusSub ⟨7, 5, 1, 2, 3, 0⟩),
    (0x013E004E756C, .mfRmPlusAvg ⟨7, 5, 1, 2, 3, 0⟩),
    (0x013E0050756C, .mfMrfMinusAdd ⟨7, 5, 1, 2, 3, 0⟩),
    (0x013E0051756C, .mfMrfMinusSub ⟨7, 5, 1, 2, 3, 0⟩),
    (0x013E0052756C, .mfMrfMinusAvg ⟨7, 5, 1, 2, 3, 0⟩),
    (0x013E0054756C, .mfRmMinusAdd ⟨7, 5, 1, 2, 3, 0⟩),
    (0x013E0055756C, .mfRmMinusSub ⟨7, 5, 1, 2, 3, 0⟩),
    (0x013E0056756C, .mfRmMinusAvg ⟨7, 5, 1, 2, 3, 0⟩),
    (0x013E0058756C, .mfFmulAdd ⟨7, 5, 1, 2, 3, 0⟩),
    (0x013E0059756C, .mfFmulSub ⟨7, 5, 1, 2, 3, 0⟩),
    (0x013E005A756C, .mfFmulFloat ⟨7, 5, 1, 2, 3, 0⟩),
    (0x013E005B756C, .mfFmulFix ⟨7, 5, 1, 2, 3, 0⟩),
    (0x013E005C756C, .mfFmulAvg ⟨7, 5, 1, 2, 3, 0⟩),
    (0x013E005D756C, .mfFmulAbs ⟨7, 5, 1, 2, 3, 0⟩),
    (0x013E005E756C, .mfFmulMax ⟨7, 5, 1, 2, 3, 0⟩),
    (0x013E005F756C, .mfFmulMin ⟨7, 5, 1, 2, 3, 0⟩)] = true := by decide

theorem test_decode_multifunction_dual : agrees [
    (0x013E006A756C, .mfDualFix 10 ⟨7, 5, 1, 2, 3, 0⟩),
    (0x013E007A756C, .mfDualFlt 10 ⟨7, 5, 1, 2, 3, 0⟩)] = true := by decide

theorem test_decode_no_compute : agrees [
    (0x013E00000000, .noCompute)] = true := by decide

/-- Vectors of 95_test_vectors.md sections 2.2 and 2.4. -/
theorem test_decode_vectors : agrees [
    (0x30EAFA2C0760, .dualMove true 0 3 5 true 3 7 4 (.shBin .bset 7 6 0)),
    (0x010A00100600, .condCompute (.is .mv) (.satRn .f ⟨false, false⟩ 6)),
    (0x507EBB00263B, .uregMem true 0 1 .always false true false (.sys .astatx) (.aluBin .sub 6 3 11)),
    (0x592F038E382E, .uregMem true 4 4 (.isNot .sv) true false false (.r 7) (.aluBin .fclip 8 2 14)),
    (0x447F35800000, .uregMem false 2 1 .always true false false .px .none),
    (0x65523593015C, .dregMemImm 2 true false true (.is (.flag 0)) 6 11 (.mulF 1 5 12)),
    (0x643FF0800000, .dregMemImm 2 false false false .always 0x3E 1 .none),
    (0x701A1217D026, .uregMove (.r 0) (.is .tf) (.m 4) (.mulMr .f .set ⟨true, true, true, true⟩ 2 6)),
    (0x737FB4000000, .uregMove (.l 7) .always .lcntr .none),
    (0x892480000426, .shiftImmMem 4 4 (.isNot .le) false true 0 0 (.bin .lshift) 4 2 6),
    (0x04768015846C, .modify true (.isNot (.flag 2)) 2 0 (.mulRn .none ⟨false, true, true, false⟩ 4 6 12))] = true := by decide

/-- Vectors of the same sections for the program flow. -/
theorem test_decode_flow_vectors : agrees [
    (0x0748000000A4, .jumpRel true (.is .av) false false 0xA4), (0x073E05000002, .jumpRel false .always true true 2),
    (0x06BE04040110, .callAbs .always true 0x040110), (0x083F0002A660, .jumpInd false .always 4 0 false false false (.aluUn .dec 6 6)),
    (0x09808E02A660, .callRel6 (.is .eq) 17 true true (.aluUn .dec 6 6)),
    (0xCC5A03000000, .jumpIndElse false 6 1 (.is .tf) 0 0 6 .none), (0xF021E8800000, .jumpRelElse true 0 0 (.isNot .eq) 0x3D 1 .none),
    (0x0A100220001F, .rts (.is .sz) false true false (.shBin .lshift 0 1 15)), (0x0A3E01000000, .rts .always false false true .none),
    (0x0B3E00042651, .rti .always false false (.aluBin .xor 6 5 1)), (0x0D0C00000010, .doUreg (.r 12) 16),
    (0x0E3E00000005, .doUntil .always 5)] = true := by decide

/-- Words that no table assigns are refused (30_encoding.md R201, R218, 45_alu_float.md R405). -/
theorem test_decode_refuses : [0x000000000000#48 ||| 0x1A0000000000, 0x013E00000000 ||| 0x003000, 0x146000000000,
    0x17C000000000].all (fun w => match decode w with | .ok _ => false | .error _ => true) = true := by decide

/-! ### Compute operations: results and flags -/

/-- A state after reset with MODE1, ASTATx and data registers as given. -/
def bench (mode1 astat : W32) (regs : List (Reg × BitVec 40)) : State :=
  let s := { State.reset with reg := { State.reset.reg with mode1 := mode1, astatx := astat } }
  regs.foldl (fun s p => s.setDreg false p.1 p.2) s

/-- What an instruction leaves, if it reaches its end. -/
def after (i : Instr) (s : State) : Option State := match exec i s with | .next t => some t | _ => none

/-- One row: the instruction R0 = op(R1, R2), MODE1, ASTATx before, R1, R2, R0 after, and the ALU's bits 4 to 0
(AS AC AN AV AZ). -/
def fixedRow (r : Instr × W32 × W32 × W32 × W32 × W32 × W32) : Bool :=
  let (i, mode1, a, x, y, z, f) := r
  match after i (bench mode1 a [(1, x ++ 0x5A#8), (2, y ++ 0x5A#8)]) with
  | some t => t.dreg false 0 == z ++ 0#8 && t.reg.astatx &&& 0x1F == f
  | none => false

/-- 44_alu_fixed.md R427. -/
theorem test_alu_fixed_sums : [
    (.add 0 1 2, 0x2000, 0, 0x7FFFFFFF, 1, 0x7FFFFFFF, 0x02), (.add 0 1 2, 0, 0, 0x80000000, 0x80000000, 0, 0x0B),
    (.sub 0 1 2, 0, 0, 5, 5, 0, 0x09), (.sub 0 1 2, 0x2000, 0, 0x80000000, 1, 0x80000000, 0x0E),
    (.addCi 0 1 2, 0, 0x8, 0xFFFFFFFF, 0, 0, 0x09), (.subCi 0 1 2, 0, 0, 5, 5, 0xFFFFFFFF, 0x04),
    (.avg 0 1 2, 0, 0, 1, 2, 2, 0x00), (.avg 0 1 2, 0x8000, 0, 1, 2, 1, 0x00),
    (.plusCi 0 1, 0, 0x8, 0x7FFFFFFF, 0, 0x80000000, 0x06), (.plusCiM1 0 1, 0, 0, 0, 0, 0xFFFFFFFF, 0x04),
    (.inc 0 1, 0, 0, 0xFFFFFFFF, 0, 0, 0x09), (.dec 0 1, 0, 0, 0, 0, 0xFFFFFFFF, 0x04),
    (.neg 0 1, 0, 0, 0, 0, 0, 0x09), (.neg 0 1, 0x2000, 0, 0x80000000, 0, 0x7FFFFFFF, 0x02)].all fixedRow = true := by decide

/-- 44_alu_fixed.md R427. -/
theorem test_alu_fixed_logic : [
    (.abs 0 1, 0, 0, 0x80000000, 0, 0x80000000, 0x12), (.abs 0 1, 0x2000, 0, 0x80000000, 0, 0x7FFFFFFF, 0x12),
    (.pass 0 1, 0, 0x1E, 0, 0, 0, 0x01), (.and 0 1 2, 0, 0, 0xAAAAAAAA, 0x55555555, 0, 0x01),
    (.or 0 1 2, 0, 0, 0xAAAAAAAA, 0x55555555, 0xFFFFFFFF, 0x04), (.xor 0 1 2, 0, 0, 0xFFFFFFFF, 0xFFFFFFFF, 0, 0x01),
    (.not 0 1, 0, 0, 0, 0, 0xFFFFFFFF, 0x04), (.min 0 1 2, 0, 0, 0x80000000, 0x7FFFFFFF, 0x80000000, 0x04),
    (.max 0 1 2, 0, 0, 0x80000000, 0x7FFFFFFF, 0x7FFFFFFF, 0x00), (.clip 0 1 2, 0, 0, 0x64, 0xFFFFFFF6, 0xA, 0x00),
    (.clip 0 1 2, 0, 0, 0xFFFFFF9C, 0xA, 0xFFFFFFF6, 0x04)].all fixedRow = true := by decide

/-- COMP and COMPU: AZ, AN and CACC (44_alu_fixed.md R427). -/
theorem test_compare :
    (after (.comp 1 2) (bench 0 0 [(1, 0x0000000100), (2, 0xFFFFFFFF00)])).map (fun t => t.reg.astatx) = some 0x80000000 ∧
    (after (.compu 1 2) (bench 0 0x80000000 [(1, 0x0000000100), (2, 0xFFFFFFFF00)])).map (fun t => t.reg.astatx) =
      some 0x40000004 := by decide

/-- One row: R0 = op(R1, R2) on 40-bit words, MODE1, R1, R2, R0 after, ASTATx bits AI AS AN AV AZ (5, 4, 2, 1, 0), and
the sticky bits AIS AVS AUS (5, 1, 0). -/
def floatRow (r : Instr × W32 × BitVec 40 × BitVec 40 × BitVec 40 × W32 × W32) : Bool :=
  let (i, mode1, x, y, z, f, g) := r
  match after i (bench mode1 0 [(1, x), (2, y)]) with
  | some t => t.dreg false 0 == z && t.reg.astatx &&& 0x37 == f && t.reg.stkyx &&& 0x3FF == g
  | none => false

/-- 45_alu_float.md R477; FABSSUB by hand from R450. -/
theorem test_alu_float_sums : [
    (.fadd 0 1 2, 0x10000, 0x3F80000000, 0x3380000100, 0x3F80000100, 0, 0), (.fadd 0 1 2, 0, 0x3F80000000, 0x3380000000, 0x3F80000080, 0, 0),
    (.fsub 0 1 2, 0x10000, 0x0080000000, 0x00C0000000, 0x8000000000, 5, 1),
    (.fsub 0 1 2, 0x10000, 0x7F80000000, 0x7F80000000, 0xFFFFFFFFFF, 0x24, 0x20),
    (.fabsAdd 0 1 2, 0x10000, 0xBF80000000, 0xC000000000, 0x4040000000, 0, 0),
    (.fabsSub 0 1 2, 0x10000, 0x3F80000000, 0x4040000000, 0x4000000000, 0, 0),
    (.favg 0 1 2, 0x10000, 0x7F7FFFFF00, 0x7F7FFFFF00, 0x7F7FFFFF00, 0, 0), (.favg 0 1 2, 0x10000, 0x0080000000, 0, 0, 1, 1),
    (.fadd 0 1 2, 0x18000, 0x7F7FFFFF00, 0x7F7FFFFF00, 0x7F7FFFFF00, 2, 2)].all floatRow = true := by decide

/-- 45_alu_float.md R477, R454, R460, R461; the forms BY by hand from R458. -/
theorem test_alu_float_unary : [
    (.fneg 0 1, 0x10000, 0, 0, 0x8000000000, 5, 0), (.fabs 0 1, 0x10000, 0xFF80000000, 0, 0x7F80000000, 0x10, 0),
    (.fpass 0 1, 0x10000, 0x807FFFFF00, 0, 0x8000000000, 5, 0), (.mant 0 1, 0x10000, 0xFF80000000, 0, 0xFFFFFFFF00, 0x12, 2),
    (.mant 0 1, 0x10000, 0x3F80000000, 0, 0x8000000000, 0, 0), (.logb 0 1, 0x10000, 0x0080000000, 0, 0xFFFFFF8200, 4, 0),
    (.logb 0 1, 0x12000, 0, 0, 0x8000000000, 6, 2), (.frnd 0 1, 0, 0x3F800000C0, 0, 0x3F80000100, 0, 0),
    (.fix 0 1, 0x10000, 0xBFC0000000, 0, 0xFFFFFFFE00, 4, 0), (.fix 0 1, 0x10000, 0x7F80000000, 0, 0xFFFFFFFFFF, 0x26, 0x22),
    (.trunc 0 1, 0x10000, 0xBFC0000000, 0, 0xFFFFFFFF00, 4, 0), (.float 0 1, 0x10000, 0x01FFFFFF00, 0, 0x4BFFFFFF80, 0, 0),
    (.recips 0 1, 0x10000, 0x8000000000, 0, 0xFF80000000, 6, 2), (.recips 0 1, 0x10000, 0x7F00000000, 0, 0, 1, 1),
    (.rsqrts 0 1, 0x10000, 0xBF80000000, 0, 0xFFFFFFFFFF, 0x20, 0x20), (.rsqrts 0 1, 0x10000, 0x7F80000000, 0, 0, 1, 0)
    ].all floatRow = true := by decide

/-- 45_alu_float.md R477, and by hand from R458, R468. -/
theorem test_alu_float_binary : [
    (.scalb 0 1 2, 0x10000, 0x3F80000000, 0xFFFFFF8200, 0x0080000000, 0, 0), (.scalb 0 1 2, 0x10000, 0x3F80000000, 0xFFFFFF8100, 0, 1, 1),
    (.fixBy 0 1 2, 0x10000, 0x3FC0000000, 0x0000000100, 0x0000000300, 0, 0),
    (.truncBy 0 1 2, 0x10000, 0xBFC0000000, 0x0000000000, 0xFFFFFFFF00, 4, 0),
    (.floatBy 0 1 2, 0x10000, 0x0000000300, 0xFFFFFFFF00, 0x3FC0000000, 0, 0),
    (.copysign 0 1 2, 0x10000, 0x8000000000, 0x3F80000000, 0, 1, 0), (.fmin 0 1 2, 0x10000, 0x3F80000000, 0xC000000000, 0xC000000000, 4, 0),
    (.fmax 0 1 2, 0x10000, 0, 0x8000000000, 0, 1, 0), (.fclip 0 1 2, 0x10000, 0xC040000000, 0x3F80000000, 0xBF80000000, 4, 0)
    ].all floatRow = true := by decide

/-- COMP of a NAN: AI and its sticky bit, and nothing in CACC (45_alu_float.md R477). -/
theorem test_fcomp_nan : (after (.fcomp 1 2) (bench 0x10000 0 [(1, 0x7FC0000000), (2, 0x3F80000000)])).map
    (fun t => (t.reg.astatx &&& 0xFF000037, t.reg.stkyx &&& 0x3FF)) = some (0x20, 0x20) := by decide

/-- Code for a product's format: `ySigned xSigned frac round`. -/
def ssf : MulMod := ⟨true, true, true, false⟩

/-- A register product: R0 = R1 * R2, and MU MV MN (bits 8, 7, 6 of ASTATx). -/
def productRow (r : MulMod × W32 × W32 × W32 × W32) : Bool :=
  let (m, x, y, z, f) := r
  match after (.mulRn m 0 1 2) (bench 0 0x3C0 [(1, x ++ 0#8), (2, y ++ 0#8)]) with
  | some t => t.dreg false 0 == z ++ 0#8 && t.reg.astatx &&& 0x3C0 == f
  | none => false

/-- 46_multiplier.md R523, vectors 2 to 13. -/
theorem test_products : [
    (ssf, 0x80000000, 0x80000000, 0x80000000, 0x080), (⟨true, true, false, false⟩, 0x80000000, 0x80000000, 0, 0x080),
    (⟨false, false, false, false⟩, 0xFFFFFFFF, 0xFFFFFFFF, 1, 0x080), (⟨false, false, true, false⟩, 0xFFFFFFFF, 0xFFFFFFFF, 0xFFFFFFFE, 0),
    (⟨false, true, false, false⟩, 0xFFFFFFFF, 2, 0xFFFFFFFE, 0x040), (ssf, 1, 1, 0, 0x100),
    (⟨true, false, true, false⟩, 0x80000000, 0xFFFFFFFF, 0xFFFFFFFF, 0x140)].all productRow = true := by decide

/-- One accumulator operation on R1, R2 and a value in MRF or MRB: that register and R0 after it. -/
def accRow (r : Instr × Mr × BitVec 80 × W32 × W32 × BitVec 80 × W32) : Bool :=
  let (i, d, v, x, y, w, z) := r
  match after i ((bench 0 0 [(1, x ++ 0#8), (2, y ++ 0#8)]).setPe false
      (((bench 0 0 [(1, x ++ 0#8), (2, y ++ 0#8)]).pe false).setMr 0 d v)) with
  | some t => (t.pe false).mr 0 d == w && t.dreg false 0 == z ++ 0#8
  | none => false

/-- 46_multiplier.md R503 and R523, and by hand from R499 to R517. -/
theorem test_accumulators : [
    (.mrfPlus ⟨true, true, false, false⟩ 1 2, .f, 0xE, 3, 0xFFFFFFFA, 0xFFFFFFFFFFFFFFFFFFFC, 0),
    (.mrbPlus ⟨true, true, false, false⟩ 1 2, .b, 1, 2, 3, 7, 0), (.mrfMinus ⟨true, true, false, false⟩ 1 2, .f, 7, 2, 3, 1, 0),
    (.mrbMinus ⟨false, false, false, false⟩ 1 2, .b, 0, 1, 1, 0xFFFFFFFFFFFFFFFFFFFF, 0),
    (.mulMrf ssf 1 2, .f, 9, 0x40000000, 0x40000000, 0x00002000000000000000, 0), (.mulMrb ssf 1 2, .b, 9, 1, 1, 2, 0),
    (.rnMrfPlus ⟨true, true, false, false⟩ 0 1 2, .f, 5, 2, 3, 5, 11), (.rnMrbPlus ⟨true, true, false, false⟩ 0 1 2, .b, 6, 2, 3, 6, 12),
    (.rnMrfMinus ⟨true, true, false, false⟩ 0 1 2, .f, 5, 2, 3, 5, 0xFFFFFFFF),
    (.rnMrbMinus ⟨true, true, false, false⟩ 0 1 2, .b, 6, 2, 1, 6, 4)].all accRow = true := by decide

/-- 46_multiplier.md R523, vectors 14 to 16, and by hand from R509 to R517. -/
theorem test_saturate_and_round : [
    (.satMrf ⟨true, true⟩, .f, 0x00009FFFFFFF00000000, 0, 0, 0x00007FFFFFFFFFFFFFFF, 0),
    (.satMrb ⟨false, true⟩, .b, 0xFFFFFFFFFFFF00000000, 0, 0, 0xFFFFFFFFFFFF80000000, 0),
    (.rnSatMrf ⟨false, false⟩ 0, .f, 0x00000000000100000000, 0, 0, 0x00000000000100000000, 0xFFFFFFFF),
    (.rnSatMrb ⟨true, true⟩ 0, .b, 0x00009FFFFFFF00000000, 0, 0, 0x00009FFFFFFF00000000, 0x7FFFFFFF),
    (.clrMrf, .f, 9, 0, 0, 0, 0), (.clrMrb, .b, 9, 0, 0, 0, 0), (.mrToReg .mr2f 0, .f, 0xFFFE0000000000000000, 0, 0, 0xFFFE0000000000000000, 0xFFFFFFFE),
    (.regToMr .mr1f 1, .f, 5, 0x80000001, 0, 0xFFFF8000000100000005, 0)].all accRow = true := by decide

/-- Floating-point products (46_multiplier.md R523): R0, MI MU MV MN (bits 9 to 6) and the sticky bits. -/
theorem test_mulF : [
    ((0x7F00000000, 0x4000000000), (0x7F80000000, 0x080, 0x080)), ((0x0080000000, 0x3F00000000), (0, 0x100, 0x100)),
    ((0x7F80000000, 0), (0xFFFFFFFFFF, 0x240, 0x200)), ((0xBFC0000000, 0x4000000000), (0xC040000000, 0x040, 0))
    ].all (fun (r : (BitVec 40 × BitVec 40) × (BitVec 40 × W32 × W32)) =>
      (after (.mulF 0 1 2) (bench 0x10000 0 [(1, r.1.1), (2, r.1.2)])).map
        (fun t => (t.dreg false 0, t.reg.astatx &&& 0x3C0, t.reg.stkyx &&& 0x3FF)) == some r.2) = true := by decide

/-- One shifter row: R0 before, R1, R2, R0 after, and SS SZ SV (bits 13 to 11 of ASTATx). -/
def shiftRow (r : Instr × W32 × W32 × W32 × W32 × W32 × W32) : Bool :=
  let (i, a, d, x, y, z, f) := r
  match after i (bench 0x10000 a [(0, d ++ 0#8), (1, x ++ 0#8), (2, y ++ 0#8)]) with
  | some t => t.dreg false 0 == z ++ 0#8 && t.reg.astatx &&& 0x3800 == f
  | none => false

/-- 47_shifter.md R557, and by hand from R535 to R546 for the forms with OR. -/
theorem test_shifts : [
    (.lshift 0 1 2, 0, 0, 0x80000001, 1, 2, 0x0800), (.orLshift 0 1 2, 0, 1, 1, 4, 0x11, 0x0800),
    (.ashift 0 1 2, 0, 0, 0x80000000, 0xFFFFFFFC, 0xF8000000, 0), (.orAshift 0 1 2, 0, 1, 0x80000000, 0xFFFFFFE0, 0xFFFFFFFF, 0),
    (.rot 0 1 2, 0, 0, 0x80000001, 4, 0x18, 0), (.bset 0 1 2, 0, 0, 0, 31, 0x80000000, 0), (.bclr 0 1 2, 0, 0, 1, 0, 0, 0x1000),
    (.btgl 0 1 2, 0, 0, 5, 32, 5, 0x0800), (.btst 1 2, 0, 7, 0, 32, 7, 0x1800)].all shiftRow = true := by decide

/-- 47_shifter.md R557. -/
theorem test_fields : [
    (.fdep 0 1 2, 0, 0, 0x3ABC, 0x38D, 0x07578000, 0), (.fdepSe 0 1 2, 0, 0, 0x3ABC, 0x38D, 0xFF578000, 0),
    (.orFdep 0 1 2, 0, 1, 0x3ABC, 0x38D, 0x07578001, 0), (.orFdepSe 0 1 2, 0, 1, 0x3ABC, 0x38D, 0xFF578001, 0),
    (.fext 0 1 2, 0, 0, 0x12345678, 0x108, 6, 0), (.fextSe 0 1 2, 0, 0, 0x12345878, 0x108, 0xFFFFFFF8, 0),
    (.exp 0 1, 0, 0, 0x00010000, 0, 0xFFFFFFF2, 0), (.expEx 0 1, 2, 0, 0x80000000, 0, 1, 0), (.leftz 0 1, 0, 0, 0, 0, 32, 0x0800),
    (.lefto 0 1, 0, 0, 0xFFF00000, 0, 12, 0), (.fpack 0 1, 0, 0, 0x3F800000, 0, 0x3800, 0), (.funpack 0 1, 0, 0, 0x3800, 0, 0x3F800000, 0)
    ].all shiftRow = true := by decide

/-- 48_multifunction.md R564, vectors 4, 5 and 7. -/
theorem test_dual_add_subtract :
    (after (.dualFix 3 2 0 1) (bench 0x2000 0 [(0, 0x7FFFFFFF00), (1, 0x0000000100)])).map
      (fun t => (t.dreg false 2, t.dreg false 3, t.reg.astatx &&& 0x3F)) = some (0x7FFFFFFF00, 0x7FFFFFFE00, 0x0A) ∧
    (after (.dualFlt 3 2 0 1) (bench 0x10000 0 [(0, 0x7F80000000), (1, 0x7F80000000)])).map
      (fun t => (t.dreg false 2, t.dreg false 3, t.reg.astatx &&& 0x3F)) = some (0x7F80000000, 0xFFFFFFFFFF, 0x24) := by decide

/-- One multifunction row: the product's register R15 and the ALU's R14, with R0 = 0x40000000, R4 = 0x40000000, MRF = 2^32,
R8 = 5, R12 = 3 as fixed-point numbers; the multiplier's and the ALU's result (48_multifunction.md R564, R576 to R590). -/
def multiRow (r : (MfRegs → Instr) × W32 × W32 × BitVec 80) : Bool :=
  let s := bench 0 0 [(0, 0x4000000000), (4, 0x4000000000), (8, 0x0000000500), (12, 0x0000000300)]
  match after (r.1 ⟨15, 14, 0, 0, 0, 0⟩) (s.setPe false ((s.pe false).setMr 0 .f 0x100000000)) with
  | some t => t.dreg false 15 == r.2.1 ++ 0#8 && t.dreg false 14 == r.2.2.1 ++ 0#8 && (t.pe false).mr 0 .f == r.2.2.2
  | none => false

/-- By hand from 48_multifunction.md R576 to R590: 0.5 times 0.5 is 0x20000000; (5 + 3) / 2 = 4. -/
theorem test_multifunction_fixed : [
    (.mfMrfPlusAdd, 0, 8, 0x2000000100000000), (.mfMrfPlusSub, 0, 2, 0x2000000100000000), (.mfMrfPlusAvg, 0, 4, 0x2000000100000000),
    (.mfMrfMinusAdd, 0, 8, 0xFFFFE000000100000000), (.mfMrfMinusSub, 0, 2, 0xFFFFE000000100000000),
    (.mfMrfMinusAvg, 0, 4, 0xFFFFE000000100000000)].all multiRow = true := by decide

/-- The same for floating point: 1.5 times 2.0 in R15, and the ALU on F8 = -3.0, F12 = 1.0 (48_multifunction.md R591 to R598);
FLOAT and FIX take the bits of R8 and the integer in R12. -/
def multiFloatRow (r : (MfRegs → Instr) × BitVec 40 × BitVec 40 × BitVec 40) : Bool :=
  match after (r.1 ⟨15, 14, 0, 0, 0, 0⟩) (bench 0x10000 0 [(0, 0x3FC0000000), (4, 0x4000000000), (8, r.2.1), (12, r.2.2.1)]) with
  | some t => t.dreg false 15 == 0x4040000000 && t.dreg false 14 == r.2.2.2
  | none => false

/-- By hand from 48_multifunction.md R591 to R598. -/
theorem test_multifunction_float : [
    (.mfFmulAdd, 0xC040000000, 0x3F80000000, 0xC000000000), (.mfFmulSub, 0xC040000000, 0x3F80000000, 0xC080000000),
    (.mfFmulFloat, 0x0000000300, 0x0000000100, 0x40C0000000), (.mfFmulFix, 0xC040000000, 0x0000000100, 0xFFFFFFFA00),
    (.mfFmulAvg, 0xC040000000, 0x3F80000000, 0xBF80000000), (.mfFmulAbs, 0xC040000000, 0x3F80000000, 0x4040000000),
    (.mfFmulMax, 0xC040000000, 0x3F80000000, 0x3F80000000), (.mfFmulMin, 0xC040000000, 0x3F80000000, 0xC040000000)
    ].all multiFloatRow = true := by decide

/-- By hand from 48_multifunction.md R561: 1.5 times 2.0, 2.25 + 0.75 and 2.25 - 0.75. -/
theorem test_multifunction_dual :
    (after (.mfDualFlt 3 ⟨1, 2, 0, 0, 0, 0⟩) (bench 0x10000 0 [(0, 0x3FC0000000), (4, 0x4000000000), (8, 0x4010000000), (12, 0x3F40000000)])).map
      (fun t => (t.dreg false 1, t.dreg false 2, t.dreg false 3)) = some (0x4040000000, 0x4040000000, 0x3FC0000000) ∧
    (after .noCompute (bench 0 0x1F [])).map (fun t => t.reg.astatx) = some 0x1F := by decide

/-- The part of a rounded value that a data register takes does not depend on what rounding leaves in MR0 (46_multiplier.md
R493, OPEN-2). -/
theorem rounded_part (r : W80) : mulPart true (roundMr r) =
    (if (0x80000000#32).ult (r.extractLsb' 0 32) || (r.extractLsb' 0 32 == 0x80000000 && (r.extractLsb' 32 48).getLsbD 0)
      then (r.extractLsb' 32 48 + 1).extractLsb' 0 32 else r.extractLsb' 32 32) ++ 0#8 := by
  have h (a : BitVec 48) (b : BitVec 32) : (a ++ b).extractLsb' 32 32 = a.extractLsb' 0 32 :=
    BitVec.extractLsb'_append_eq_of_le (by decide)
  unfold mulPart roundMr padded
  simp only [h, if_true]
  split <;> congr 1
  ext j hj
  simp [show j < 48 by omega]

/-- 46_multiplier.md R523 vectors 9, 11 and 12, and by hand from R513: R0 of a rounded product or of RND MRF. -/
theorem test_rounding (c : PeIn) :
    (after (.clrMrf) State.reset).isSome ∧
    mulPart true (roundMr (product ⟨true, true, true, true⟩ 1 1)) = 0 ∧
    mulPart true (roundMr (product ⟨true, true, true, true⟩ 0x00018000 0x00008000)) = 0x0000000200 ∧
    mulPart true (roundMr (product ⟨true, true, true, true⟩ 0x00008000 0x00008000)) = 0 ∧
    mulPart true (roundMr 0x00000000000190000000) = 0x0000000200 ∧
    (computePe (.rndRn .b true 5) c).writes = [(5, mulPart true (roundMr (c.mr .b)))] ∧
    (computePe (.rndMr .f true) c).mr = some (.f, roundMr (c.mr .f)) := by
  refine ⟨by decide, ?_, ?_, ?_, ?_, rfl, rfl⟩ <;> rw [rounded_part] <;> decide

/-- The multifunction forms with a rounded product: what they write (48_multifunction.md R576 to R578, R582, R588, R599). -/
theorem test_multifunction_rounded (q : MfRegs) (c : PeIn) :
    let p := product ⟨true, true, true, true⟩ (c.fix q.xm) (c.fix q.ym)
    (computePe (.mfFix .rm .add q) c).writes =
      [(q.rm, mulPart true (roundMr p)), (q.ra, (opAdd c.mode1 (c.fix q.xa) (c.fix q.ya)).val)] ∧
    (computePe (.mfFix .rmPlus .sub q) c).writes =
      [(q.rm, mulPart true (roundMr (c.mr .f + p))), (q.ra, (opSub c.mode1 (c.fix q.xa) (c.fix q.ya)).val)] ∧
    (computePe (.mfFix .rmMinus .avg q) c).writes =
      [(q.rm, mulPart true (roundMr (c.mr .f - p))), (q.ra, (opAvg c.mode1 (c.fix q.xa) (c.fix q.ya)).val)] ∧
    ((computePe (.mfDualFix 3 q) c).writes.map fun w => w.1) = [q.rm, q.ra, 3] := ⟨rfl, rfl, rfl, rfl⟩

/-! ### Moves, program flow and system instructions -/

/-- A state after reset with the window at `n` in internal memory. -/
def at_ (n : W24) : State :=
  { State.reset with seq := { State.reset.seq with pc := n, daddr := n + 1, faddr := n + 2, prevKind := .entry } }

/-- The instruction stops the machine with a fault. -/
def stops (i : Instr) (s : State) (f : Fault) : Bool := match exec i s with | .fault g => g == f | _ => false

/-- The key of a normal word. -/
def keyOf (a : W32) : Nat := colKey (normalCol a)
/-- `s` with a 32-bit word in internal memory. -/
def put (a v : W32) (s : State) : State := { s with mem := s.mem.store (keyOf a) 4 v.toNat }
/-- The 32-bit word of internal memory at `a`. -/
def word (a : W32) (s : State) : W32 := BitVec.ofNat 32 (s.mem.load (keyOf a) 4)
/-- `s` with index and modify registers set. -/
def dagSet (k : DagKind) (n : Reg) (v : W32) (s : State) : State := s.setDagReg k n v
/-- `s` with MODE1 set, long ago. -/
def mode (m : W32) (s : State) : State := { s with reg := { s.reg with mode1 := m } }

/-- V30: two loads through the two address generators. -/
theorem test_dualMove :
    (after (.dualMove false 0 0 0 false 0 0 4 .none) (put 0x50000 0x11 (put 0x48000 0xFFFFFFFA (dagSet .i 0 0x50000
      (dagSet .m 0 1 (dagSet .i 8 0x48000 (dagSet .m 8 1 (at_ 0x40100)))))))).map
      (fun t => (t.dreg false 0, t.dreg false 4, t.dagReg .i 0, t.dagReg .i 8)) =
    some (0x0000001100, 0xFFFFFFFA00, 0x50001, 0x48001) := by decide

/-- V31: a store keeps the low byte of a register behind; V33: a load around a circular buffer; V34: without CBUFEN. -/
theorem test_uregMem :
    (after (.uregMem true 4 4 .always false true false (.r 0) .none)
      ((dagSet .i 4 0x50010 (at_ 0x40100)).setDreg false 0 0x123456789A)).map (word 0x50010) = some 0x12345678 ∧
    (after (.uregMem true 0 1 .always false false false (.r 0) .none) (mode 0x01000000 (put 0x55008 9 (dagSet .l 0 0xB
      (dagSet .i 0 0x55008 (dagSet .m 1 4 (dagSet .b 0 0x55000 (at_ 0x40100)))))))).map
      (fun t => (t.dreg false 0, t.dagReg .i 0)) = some (0x0000000900, 0x55001) ∧
    (after (.uregMem true 0 1 .always false false false (.r 0) .none) (dagSet .l 0 0xB (dagSet .i 0 0x55008 (dagSet .m 1 4
      (dagSet .b 0 0x55000 (at_ 0x40100)))))).map (fun t => t.dagReg .i 0) = some 0x5500C := by decide

/-- V36: a long word from a register pair; V38: in SIMD mode the complementary register's word follows. -/
theorem test_uregMem_pairs :
    (after (.uregMem true 0 0 .always false true true (.r 2) .none) (dagSet .i 0 0x50002 (dagSet .m 0 2
      (((at_ 0x40100).setDreg false 2 0xAAAAAAAA11).setDreg false 3 0xBBBBBBBB22)))).map
      (fun t => (word 0x50002 t, word 0x50003 t, t.dagReg .i 0)) = some (0xAAAAAAAA, 0xBBBBBBBB, 0x50004) ∧
    (after (.uregMem true 0 0 .always false true false (.r 5) .none) (mode 0x00200000 (dagSet .i 0 0x50000 (dagSet .m 0 2
      (((at_ 0x40100).setDreg false 5 0x0000000100).setDreg true 5 0x0000000200))))).map
      (fun t => (word 0x50000 t, word 0x50001 t, t.dagReg .i 0)) = some (1, 2, 0x50002) := by decide

/-- V32: a pre-modify load leaves the index register. -/
theorem test_dregMemImm :
    (after (.dregMemImm 2 false false false .always 0x3E 1 .none) (put 0x5000E 7 (dagSet .i 2 0x50010 (at_ 0x40100)))).map
      (fun t => (t.dreg false 1, t.dagReg .i 2)) = some (0x0000000700, 0x50010) := by decide

/-- V43: a read of PCSTK; V44: a write of LCNTR. -/
theorem test_uregMove :
    (after (.uregMove .pcstk .always (.r 1) .none) ((at_ 0x40100).pushPc 0x40104)).map (fun t => t.dreg false 1) =
      some 0x0004010400 ∧
    (after (.uregMove (.l 7) .always .lcntr .none) (dagSet .l 7 0x10 (at_ 0x40100))).map (fun t => t.lcntr) = some 0x10 := by decide

/-- V39: all forty bits are swapped. -/
theorem test_swap :
    (after (.swap 1 .always 0 .none) (((at_ 0x40100).setDreg false 0 0x1111111111).setDreg true 1 0x2222222222)).map
      (fun t => (t.dreg false 0, t.dreg true 1)) = some (0x2222222222, 0x1111111111) := by decide

/-- V40: a false condition leaves everything, the flags included; V41: a true one shifts and stores. -/
theorem test_conditions :
    (after (.condCompute (.is .eq) (.aluBin .add 2 0 1)) (bench 0 0x1E [(0, 0x0000000100), (1, 0x0000000200), (2, 0x0000006300)])).map
      (fun t => (t.dreg false 2, t.reg.astatx)) = some (0x0000006300, 0x1E) ∧
    (after (.shiftImmMem 4 4 (.isNot .le) false true 0 0 (.bin .lshift) 4 2 6) (dagSet .i 4 0x50020 (dagSet .m 4 1
      (bench 0 0 [(6, 0x0000000300), (0, 0x0000005500)])))).map
      (fun t => (t.dreg false 2, word 0x50020 t, t.dagReg .i 4)) = some (0x0000003000, 0x55, 0x50021) := by decide

/-- V42. -/
theorem test_shiftImm : (after (.shiftImm .always 0 (.bin .ashift) 0xF8 5 5) (bench 0 0 [(5, 0x8000000000)])).map
    (fun t => (t.dreg false 5, t.reg.astatx)) = some (0xFF80000000, 0) := by decide

/-- 43_misc.md R378, U26: BITREV past the end of a buffer takes the plain sum while CBUFEN = 0, and stops while it is 1. -/
theorem test_bitrev_buffer :
    let s := dagSet .l 1 4 (dagSet .i 1 3 (at_ 0x40100))
    (after (.bitrev false 1 5) s).map (fun t => t.dagReg .i 1) = some 0x10000000 ∧
    stops (.bitrev false 1 5) (mode 0x01000000 s) .bitrevCircular = true ∧
    (after (.bitrev false 1 0) (mode 0x01000000 s)).map (fun t => t.dagReg .i 1) = some 0xC0000000 := by decide +kernel

/-- V35: MODIFY wraps whatever CBUFEN is; R377 and R378 by hand: 0x50000 + 0x130, and 0 + 4 bit-reversed. -/
theorem test_modify :
    (after (.modify false .lce 3 1 .none) (dagSet .l 3 4 (dagSet .i 3 0x50003 (dagSet .m 1 2 (dagSet .b 3 0x50000 (at_ 0x40100)))))).map
      (fun t => t.dagReg .i 3) = some 0x50001 ∧
    (after (.modifyImm false 4 0x130) (dagSet .i 4 0x50000 (at_ 0x40100))).map (fun t => t.dagReg .i 4) = some 0x50130 ∧
    (after (.bitrev false 1 4) (at_ 0x40100)).map (fun t => t.dagReg .i 1) = some 0x20000000 := by decide +kernel

/-- A state at `n` with one loop entry and one PC stack entry. -/
def looped (n top : W24) (astat : W32) : Option State :=
  let s := (at_ n).pushPc top
  some { s with seq := { s.seq with loopDepth := 1, loopAddr := s.seq.loopAddr.set 0 0xCF040300 }, reg := { s.reg with astatx := astat } }

/-- V70: a taken JUMP with (LA) pops the loop; V71: one that is not taken does not. -/
theorem test_jumpRel :
    ((looped 0x40120 0x40104 2).bind (after (.jumpRel true (.is .av) false false 0xA4))).map
      (fun t => (t.seq.pc, t.seq.loopDepth, t.seq.pcstkp)) = some (0x401C4, 0, 0) ∧
    ((looped 0x40120 0x40104 0).bind (after (.jumpRel true (.is .av) false false 0xA4))).map
      (fun t => (t.seq.pc, t.seq.loopDepth, t.seq.pcstkp)) = some (0x40121, 1, 1) := by decide

/-- V53, V72 and V73, and CALL (PC,-3) by hand: where the flow goes and what is pushed. -/
theorem test_jumps_and_calls :
    (after (.jumpAbs false .always false false 0x40200) (at_ 0x40101)).map (fun t => (t.seq.pc, t.seq.daddr, t.seq.faddr)) =
      some (0x40200, 0x40201, 0x40202) ∧
    (after (.callAbs .always true 0x40110) (at_ 0x40101)).map (fun t => (t.topPc, t.seq.pcstkp, t.seq.pc, t.seq.daddr, t.seq.faddr)) =
      some (0x40104, 1, 0x40102, 0x40103, 0x40110) ∧
    (after (.callAbs .always false 0x40110) (at_ 0x40101)).map (fun t => (t.topPc, t.seq.pc)) = some (0x40102, 0x40110) ∧
    (after (.callRel .always false 0xFFFFFD) (at_ 0x40101)).map (fun t => (t.topPc, t.seq.pc)) = some (0x40102, 0x400FE) := by decide

/-- V74: an indirect jump with a compute; V75 and V76: CALL with ELSE, its condition false and true. -/
theorem test_type9 :
    (after (.jumpInd false .always 4 0 false false false (.aluUn .dec 6 6)) (dagSet .i 12 0x40300 (dagSet .m 8 0x10
      ((at_ 0x40130).setDreg false 6 0x0000000500)))).map (fun t => (t.seq.pc, t.dagReg .i 12, t.dreg false 6, t.reg.astatx)) =
      some (0x40310, 0x40300, 0x0000000400, 8) ∧
    (after (.callRel6 (.is .eq) 17 true true (.aluUn .dec 6 6)) ((at_ 0x40140).setDreg false 6 0x0000000500)).map
      (fun t => (t.seq.pcstkp, t.dreg false 6, t.seq.pc)) = some (0, 0x0000000400, 0x40141) ∧
    (after (.callRel6 .always 17 true true (.aluUn .dec 6 6)) ((at_ 0x40140).setDreg false 6 0x0000000500)).map
      (fun t => (t.topPc, t.dreg false 6, t.seq.faddr)) = some (0x40143, 0x0000000500, 0x40151) ∧
    (after (.jumpRel6 false .always 0x3D false false false .none) (at_ 0x40140)).map (fun t => t.seq.pc) = some 0x4013D ∧
    (after (.callInd .always 4 0 false false .none) (dagSet .i 12 0x40300 (at_ 0x40140))).map (fun t => (t.topPc, t.seq.pc)) =
      some (0x40141, 0x40300) := by decide

/-- V77: no jump, and the load takes place; the jump of the PC-relative form by hand. -/
theorem test_type10 :
    (after (.jumpIndElse false 6 1 (.is .tf) 0 0 6 .none) (put 0x50000 0x77 (dagSet .i 6 0x50000 (dagSet .m 1 1 (at_ 0x40150))))).map
      (fun t => (t.seq.pc, t.dreg false 6, t.dagReg .i 6)) = some (0x40151, 0x0000007700, 0x50001) ∧
    (after (.jumpRelElse true 0 0 .always 0x3D 1 .none) (at_ 0x40150)).map (fun t => t.seq.pc) = some 0x4014D := by decide

/-- V78: RTS; V79: with an empty stack it stops; RTI leaves the interrupt it returns from (41_program_flow.md R316). -/
theorem test_returns :
    (after (.rts .always false false false .none) ((at_ 0x40110).pushPc 0x40104)).map
      (fun t => (t.seq.pc, t.seq.pcstkp, t.reg.stkyx.getLsbD 22)) = some (0x40104, 0, true) ∧
    stops (.rts .always false false false .none) (at_ 0x40110) .stackUnderflow = true ∧
    (after (.rti .always false false .none) { (at_ 0x40123).enter .irq0 0 with recent := Recent.none, changed := Changed.none }).map
      (fun t => (t.seq.pc, t.reg.imaskp, t.seq.statusStack.length)) = some (0x40123, 0, 0) := by decide

/-- V80: a counter-based DO; V82: its end before its start; the other two forms by hand (41_program_flow.md R320, R321). -/
theorem test_loops :
    (after (.doImm 100 0x20) (at_ 0x40200)).map
      (fun t => (t.laddr, t.curlcntr, t.topPc, t.reg.stkyx.getLsbD 26, t.reg.stkyx.getLsbD 22)) =
      some (0xCF040220, 100, 0x40201, false, false) ∧
    stops (.doImm 5 0) (at_ 0x40200) .illegalLoopEnd = true ∧
    (after (.doUreg (.r 12) 16) ((at_ 0x40200).setDreg false 12 0x0000000700)).map (fun t => (t.laddr, t.curlcntr)) =
      some (0xCF040210, 7) ∧
    (after (.doUntil (.is .ac) 7) (at_ 0x40200)).map (fun t => (t.loopEnd, t.loopTerm, t.loopType)) = some (0x40207, 3, 0) := by decide

/-- E4: a long word at an absolute address; E36: an immediate offset, immediate data, and an immediate register. -/
theorem test_immediate_moves :
    (after (.uregAbs false true true (.r 0) 0x50000) (((at_ 0x40100).setDreg false 0 0x0000000700).setDreg false 1 0x0000000800)).map
      (fun t => (word 0x50000 t, word 0x50001 t)) = some (7, 8) ∧
    (after (.uregPre false 5 true false (.r 2) 24) (dagSet .i 5 0x50000 ((at_ 0x40100).setDreg false 2 0x0000000900))).map
      (fun t => (word 0x50018 t, t.dagReg .i 5)) = some (9, 0x50000) ∧
    (after (.storeImm 6 3 true 5) (dagSet .i 14 0x50000 (dagSet .m 11 2 (at_ 0x40100)))).map
      (fun t => (word 0x50000 t, t.dagReg .i 14)) = some (5, 0x50002) ∧
    (after (.loadImm (.r 1) 0x12345678) (at_ 0x40100)).map (fun t => t.dreg false 1) = some 0x1234567800 := by decide

/-- 43_misc.md R370 to R379, by hand. -/
theorem test_bit_operations :
    (after (.bitSet .mode2 0x70) (at_ 0x40100)).map (fun t => t.reg.mode2 &&& 0xFF) = some 0x70 ∧
    (after (.bitClr .ustat1 0xF0) { at_ 0x40100 with reg := { (at_ 0x40100).reg with ustat1 := 0xFF } }).map (fun t => t.reg.ustat1) = some 0xF ∧
    (after (.bitTgl .ustat2 0xF0) { at_ 0x40100 with reg := { (at_ 0x40100).reg with ustat2 := 0x3C } }).map (fun t => t.reg.ustat2) = some 0xCC ∧
    (after (.bitTst .ustat1 0x41) { at_ 0x40100 with reg := { (at_ 0x40100).reg with ustat1 := 0x40 } }).map (fun t => t.reg.astatx) = some 0 ∧
    (after (.bitXor .ustat1 0x40) { at_ 0x40100 with reg := { (at_ 0x40100).reg with ustat1 := 0x40 } }).map (fun t => t.reg.astatx) = some 0x40000 := by
  decide

/-- E1: a push of the status stack masks MODE1; 43_misc.md R384, R388 by hand. -/
theorem test_pushes :
    (after (.pushSts false false) (mode 0x01202811 { at_ 0x40100 with reg := { (at_ 0x40100).reg with mmask := 0x00202001 } })).map
      (fun t => (t.reg.mode1, t.seq.statusStack.map (fun e => e.mode1), t.reg.stkyx.getLsbD 24)) = some (0x01000810, [0x01202811], false) ∧
    (after (.pushLoop true false false) (at_ 0x40100)).map (fun t => (t.seq.loopDepth, t.laddr, t.seq.statusStack.length)) = some (1, 0, 1) ∧
    (after (.pushPc true) (at_ 0x40100)).map (fun t => (t.seq.pcstkp, t.reg.stkyx.getLsbD 22)) = some (1, false) := by decide

/-- 43_misc.md R385, R387, R389, by hand. -/
theorem test_pops :
    ((looped 0x40120 0x40104 0).bind (after (.popLoop false true false))).map
      (fun t => (t.seq.loopDepth, t.seq.pcstkp, t.reg.stkyx &&& 0x05400000)) = some (0, 0, 0x05400000) ∧
    (after (.popSts false false) { at_ 0x40100 with seq := { (at_ 0x40100).seq with statusStack := [⟨0x10, 0x20, 0x1000⟩] } }).map
      (fun t => (t.reg.astatx, t.reg.astaty, t.reg.mode1, t.seq.statusStack.length)) = some (0x10, 0x20, 0x1000, 0) ∧
    stops (.popPc false) (at_ 0x40100) .stackUnderflow = true := by decide

/-- 43_misc.md R376, R380 to R383, by hand. -/
theorem test_others :
    (after .nop (at_ 0x40100)).map (fun t => (t.seq.pc, t.seq.daddr, t.seq.faddr)) = some (0x40101, 0x40102, 0x40103) ∧
    (after .idle (at_ 0x40100)).map (fun t => t.seq.idle) = some true ∧
    (after .flushCache { at_ 0x40100 with seq := { (at_ 0x40100).seq with cache := .replicate 16 [⟨0x40000, 0⟩] } }).map
      (fun t => t.seq.cache[(0 : Fin 16)]) = some [] ∧
    (after (.cjumpAbs 0x41000) (dagSet .i 6 0x50000 (dagSet .i 7 0x50010 (at_ 0x40100)))).map
      (fun t => (t.dreg false 2, t.dagReg .i 6, t.seq.faddr)) = some (0x0005000000, 0x50010, 0x41000) ∧
    (after (.cjumpRel 0xFFFFFE) (at_ 0x40100)).map (fun t => t.seq.faddr) = some 0x400FE ∧
    (after .rframe (put 0x50000 0x50020 (dagSet .i 6 0x50000 (at_ 0x40100)))).map (fun t => (t.dagReg .i 6, t.dagReg .i 7)) =
      some (0x50020, 0x50000) := by decide

/-- The first step from reset with an instruction in place runs it (70_reset_and_hazards.md R782). -/
theorem test_first_step : (match step (State.reset.withFetchWord 48 0x0F0112345678) with
    | .next t => some (t.dreg false 1, t.seq.pc) | _ => none) = some (0x1234567800, 0x800005) := by decide

/-! ### Witnesses: what each statement supposes can hold -/

/-- A run that reaches its end. -/
theorem ok_of {α : Type} {r : Run α} (h : (match r with | .ok _ => true | _ => false) = true) : ∃ t, r = .ok t := by
  cases r with
  | ok t => exact ⟨t, rfl⟩
  | error e => cases h

theorem settled_of {s : State} (h1 : s.changed = Changed.none) (h2 : s.recent = Recent.none) : s.Settled :=
  ⟨h1, by rw [h2]; rfl, by rw [h2]; rfl, by rw [h2]; rfl, by rw [h2]; rfl, by rw [h2]; rfl, by rw [h2]; rfl, by rw [h2]; rfl⟩

/-- A state in which nothing is in flight and no loop is active. -/
theorem steady_of {s : State} (h1 : s.changed = Changed.none) (h2 : s.recent = Recent.none) (h3 : s.seq.stackOverflow = false)
    (h4 : s.looping = false) (h5 : s.seq.pc ≠ 0xFFFFFF) : s.Steady :=
  ⟨settled_of h1 h2, h3, fun h => (by rw [h4] at h; cases h), by
    simp [State.wrapsPc, State.loopAct, State.testDue, h4]
    exact fun h => absurd h h5⟩

theorem calm_of {s : State} (h : s.Steady) (h4 : s.looping = false) (h6 : s.seq.lastPasses = [] := by rfl) : s.Calm :=
  ⟨h, by simp [State.inShortLoop, h4, h6]⟩

theorem mayBranch_of {s : State} (h : s.Steady) (h4 : s.looping = false) (h5 : s.seq.dbSlots = 0) : s.MayBranch :=
  ⟨h, by simp [State.loopAct, State.testDue, h4], h5, fun h => by rw [h4] at h; cases h⟩

theorem ready_of {s : State} (h : s.Steady) (h4 : s.looping = false) (h5 : s.seq.dbSlots = 0)
    (h6 : s.seq.lastPasses = [] := by rfl) : s.StackReady :=
  ⟨calm_of h h4 h6, by simp [State.loopAct, State.testDue, h4], h5⟩

/-- The state most witnesses start from: internal memory, nothing in flight. -/
def base : State := at_ 0x40100
/-- The same in SIMD mode. -/
def simdBase : State := mode 0x00200000 base

theorem steady_base : base.Steady := steady_of rfl rfl rfl rfl (by decide)
theorem steady_simd : simdBase.Steady := steady_of rfl rfl rfl rfl (by decide)
theorem calm_base : base.Calm := calm_of steady_base rfl
theorem ready_base : base.StackReady := ready_of steady_base rfl rfl
theorem mayBranch_base : base.MayBranch := mayBranch_of steady_base rfl rfl
theorem flow_base (r : UReg) : base.FlowWritable r := fun _ => ⟨rfl, rfl⟩

theorem witness_EncodeDecode : Instr.nop.WellFormed = true := rfl

theorem witness_EncodeDecode_words : decode 0x010000001201 = .ok (.condCompute (.is .eq) (.aluBin .add 2 0 1)) := by decide

/-- An external fetch right after reset, a fetch served by the cache, and a word that no table assigns. -/
theorem witness_StepRunsDecoded :
    (let s := State.reset.withFetchWord 48 0x0F0112345678
     s.pins.id ≠ 7 ∧ s.iop.resetPending = false ∧ s.inputs = [] ∧ s.seq.idle = false ∧ s.recognised = none ∧
       s.seq.cachedPc = none ∧ ∃ k, fetchKey s.seq.pc = some k ∧ 0x0F0112345678#48 = BitVec.ofNat 48 (s.mem.load k 6) ∧
       s.busMine = true ∧ bankOk s.iop.syscon s.iop.wait (s.seq.pc.setWidth 32) true = true) ∧
    (let s := { base with seq := { base.seq with cachedPc := some 0 } }
     s.pins.id ≠ 7 ∧ s.iop.resetPending = false ∧ s.inputs = [] ∧ s.seq.idle = false ∧ s.recognised = none ∧
       s.seq.cachedPc = some 0) ∧
    base.seq.cachedPc = none ∧ fetchKey base.seq.pc = some (colKey 768) ∧ base.seq.pc.getLsbD 23 = false ∧
    decode 0x0F0112345678 = .ok (.loadImm (.r 1) 0x12345678) ∧ (match decode 0x1A0000000000 with | .error _ => true | _ => false) = true := by
  refine ⟨⟨by decide, by decide, by decide, by decide, by decide, by decide, (fetchKey 0x800004).getD 0, by decide⟩, by decide, by decide, by decide, by decide, by decide, by decide⟩

theorem witness_FinishFrame : base.fetchesOut = false := rfl

/-- IRQ0 latched, unmasked and enabled, seen right after a branch. -/
def asking : State :=
  let s := mode 0x1000 base
  { s with reg := { s.reg with irptl := s.reg.irptl ||| 0x100, imask := s.reg.imask ||| 0x100 }, seq := { s.seq with prevKind := .branch } }

/-- An instruction that waits is tried again in the presence of a recognised interrupt. -/
theorem witness_StepRunsDecoded_waiting :
    let s := { asking with seq := { asking.seq with waiting := true, cachedPc := some 0 } }
    s.pins.id ≠ 7 ∧ s.iop.resetPending = false ∧ s.inputs = [] ∧ s.seq.idle = false ∧ s.seq.waiting = true ∧
      s.recognised = some .irq0 ∧ s.seq.cachedPc = some 0 := by decide

theorem witness_StepEntersInterrupt :
    asking.pins.id ≠ 7 ∧ asking.iop.resetPending = false ∧ asking.inputs = [] ∧ asking.seq.dbSlots = 0 ∧
      asking.seq.waiting = false ∧ asking.recent.pcstkp = false ∧ asking.recognised = some .irq0 ∧
      ¬ (Irq.irq0 ≠ .virpti ∧ asking.pins.boot = .noboot ∧ asking.recent.syscon.getLsbD 2 = true) ∧
      ¬ (asking.seq.daddr = asking.seq.pc ∧ asking.seq.faddr = asking.seq.pc + 1) ∧ asking.seq.pcstkp.toNat < 30 := by decide

theorem witness_IdleStays :
    let s := { base with seq := { base.seq with idle := true, prevKind := .idle } }
    s.pins.id ≠ 7 ∧ s.iop.resetPending = false ∧ s.inputs = [] ∧ s.seq.idle = true ∧ s.recognised = none := by decide

/-- A word in memory that makes the step complete. -/
def loaded : State := base.withFetchWord 48 0x0F0112345678

theorem witness_StepKeepsWf : loaded.Wf ∧ ∃ t, step loaded = .next t :=
  ⟨⟨by decide, by decide, by decide, by decide, by decide, by decide, by decide, by decide, fun _ h => by cases h⟩, _, rfl⟩

theorem witness_StepKeepsLatchesHeld : loaded.LatchesHeld ∧ ∃ t, step loaded = .next t :=
  ⟨fun _ => by decide, _, rfl⟩

theorem witness_EventsLeaveCore :
    let s := { base with inputs := [.linkArrived 0 5, .core] }
    s.iop.resetPending = false ∧ s.inputs = .linkArrived 0 5 :: [.core] ∧ Event.linkArrived 0 5 ≠ .core ∧
      Event.linkArrived 0 5 ≠ .resetPin ∧ ∃ t, step { base with inputs := [.tick, .core] } = .next t :=
  ⟨rfl, rfl, by decide, by decide, _, rfl⟩

theorem witness_SoftReset :
    let s := { base with iop := { base.iop with resetPending := true } }
    s.pins.id ≠ 7 ∧ s.iop.resetPending = true := by decide

/-- The deepest stacks on which an entry still pushes. -/
def deep : State := { base with seq := { base.seq with pcstkp := 29, statusStack := .replicate 14 ⟨0, 0, 0⟩ } }

theorem witness_EnterInterrupt : deep.seq.pcstkp.toNat < 30 ∧ deep.seq.statusStack.length < 15 := by decide

theorem witness_OccurLatches : asking.select asking.masksSeen = some .irq0 := by decide

theorem witness_EnterThenLeave : deep.seq.stackOverflow = false ∧ deep.seq.pcstkp.toNat < 30 ∧
    deep.seq.statusStack.length < 15 ∧ (∀ j : Irq, j.pos ≤ Irq.sft3.pos → deep.inService j = false) :=
  ⟨rfl, by decide, by decide, fun j _ => by cases j <;> decide⟩

theorem witness_ComputeRowsComplete : (Instr.add 0 1 2).compute? = some (.aluBin .add 0 1 2) ∧
    (Compute.aluBin .add 0 1 2).dualClash = false ∧ base.Steady ∧ simdBase.Steady := ⟨rfl, rfl, steady_base, steady_simd⟩

theorem witness_ConditionalComputeCompletes : base.Steady ∧ (Cond.lce = .lce → base.inShortLoop = false) ∧
    (Compute.aluBin .add 0 1 2).dualClash = false := ⟨steady_base, fun _ => rfl, rfl⟩

theorem witness_ComputeRowsComplete_clash : (Instr.dualFix 3 3 0 1).compute? = some (.dualFix 3 3 0 1) ∧
    (Compute.dualFix 3 3 0 1).dualClash = true ∧ base.Settled ∧ ∃ t, base.begin = .ok t := ⟨rfl, by decide, steady_base.1, _, rfl⟩

/-- At the last instruction of a loop: its address on the loop stack and its count. -/
def looping (a n : W32) : State :=
  { base with
    reg := { base.reg with stkyx := 0x01000000 }
    seq := { base.seq with
      loopDepth := 1, pcstkp := 1, loopAddr := base.seq.loopAddr.set 0 a, loopCount := base.seq.loopCount.set 0 n } }

/-- The state after the loop mechanism has popped a loop, whose stack-empty flags are new. -/
theorem witness_ComputeFrame : let s := looping 0xCF040102 1
    s.begun.x = s.x ∧ s.begun.y = s.y ∧ s.begun.reg = { s.reg with stkyx := s.begun.reg.stkyx } ∧ s.begun.reg.stkyx ≠ s.reg.stkyx := by
  decide

/-- Two data registers of PEx. -/
def two (a b : W32) : State := (base.setDreg false 1 (a ++ 0#8)).setDreg false 2 (b ++ 0#8)

theorem steady_two (a b : W32) : (two a b).Steady := steady_of rfl rfl rfl rfl (by decide : base.seq.pc ≠ 0xFFFFFF)

/-- The largest and the smallest sum that fits, and the next ones; and in SIMD mode PEy. -/
theorem witness_FixedSums :
    (∃ c, Instr.sum? ((two 0x7FFFFFFF 0).peIn false) (.add 0 1 2) = some (0, 2147483647, c)) ∧
    (∃ c, Instr.sum? ((two 0x7FFFFFFF 1).peIn false) (.add 0 1 2) = some (0, 2147483648, c)) ∧
    (∃ c, Instr.sum? ((two 0x80000000 0).peIn false) (.sub 0 1 2) = some (0, -2147483648, c)) ∧
    (∃ c, Instr.sum? ((two 0x80000000 1).peIn false) (.sub 0 1 2) = some (0, -2147483649, c)) ∧
    (∀ a b, (two a b).Steady) ∧ simdBase.Steady ∧ simdBase.simd = true :=
  ⟨⟨_, rfl⟩, ⟨_, rfl⟩, ⟨_, rfl⟩, ⟨_, rfl⟩, steady_two, steady_simd, rfl⟩

theorem witness_FixedLogic : Instr.logic? ((two 5 0).peIn false) (.not 0 1) = some (0, 0xFFFFFFFA) ∧ (∀ a b, (two a b).Steady) ∧
    (∀ a b, false = true → (two a b).simd = true) := ⟨by decide, steady_two, fun _ _ h => by cases h⟩

theorem witness_FixedCompare : (two 5 5).Steady ∧ (two 5 6).Steady ∧ (false = true → (two 5 5).simd = true) :=
  ⟨steady_two _ _, steady_two _ _, fun h => by cases h⟩

/-- A product that just fits a signed integer, and the next one; a fraction just below its format. -/
theorem witness_MacExact :
    Instr.mac? ((two 0x7FFFFFFF 1).peIn false) (.mulMrf ⟨true, true, false, false⟩ 1 2) = some (.f, ⟨true, true, false, false⟩, 2147483647) ∧
    Instr.mac? ((two 0x40000000 2).peIn false) (.mulMrf ⟨true, true, false, false⟩ 1 2) = some (.f, ⟨true, true, false, false⟩, 2147483648) ∧
    Instr.mac? ((two 1 1).peIn false) (.mulMrf ssf 1 2) = some (.f, ssf, 2) ∧ ssf.round = false ∧ (∀ a b, (two a b).Steady) :=
  ⟨rfl, rfl, rfl, rfl, steady_two⟩

theorem witness_MrTransfers : base.Steady ∧ simdBase.Steady ∧ (true = true → simdBase.simd = true) := ⟨steady_base, steady_simd, fun _ => rfl⟩

/-- Counts 0 and -1, on both sides of the two cases; bit positions 31 and 32, and -1 by an immediate. -/
theorem witness_ShiftExact : Instr.shift? ((two 0x80000001 0).peIn false) (.ashift 0 1 2) = some (0, -2147483647, 0, 0) ∧
    Instr.shift? ((two 0x80000001 0xFFFFFFFF).peIn false) (.ashift 0 1 2) = some (0, -2147483647, -1, 0) ∧
    Instr.shifter? ((two 0 31).peIn false) (.bset 0 1 2) = some (.bin .bset, 0, 1, 31, 31, 0) ∧
    Instr.shifter? ((two 0 32).peIn false) (.btst 1 2) = some (.btst, 1, 1, 32, 32, 0) ∧
    Instr.shifter? ((two 0 0).peIn false) (.shiftImm .always 0 (.bin .rot) 0xFF 0 1) = some (.bin .rot, 0, 1, -1, 63, 3) ∧
    (∀ a b, (two a b).Steady) := ⟨rfl, rfl, rfl, rfl, rfl, steady_two⟩

/-- Operands of sums and products: two numbers, cancelling ones, zeros, infinities and a NAN. -/
def floats (a b : W40) : PeIn := ((base.setDreg false 1 a).setDreg false 2 b).peIn false

/-- A case of FloatSums: the classes of the operands, and the sum of their ranks is 0. -/
def floatCase (a b : W40) : Flt × Flt × Bool :=
  let x := inF 0 ((floats a b).reg 1)
  let y := inF 0 ((floats a b).reg 2)
  (x, y, x.rank + y.rank == 0)

theorem witness_FloatSums :
    floatCase 0x3F80000000 0x3F80000001 = (.num false 127 0x80000000, .num false 127 0x80000001, false) ∧
    floatCase 0x3F80000000 0xBF80000000 = (.num false 127 0x80000000, .num true 127 0x80000000, true) ∧
    floatCase 0x8000000000 0x8000000000 = (.zero true, .zero true, true) ∧
    floatCase 0x7F80000000 0x7F7FFFFFFF = (.inf false, .num false 254 0xFFFFFFFF, false) ∧
    floatCase 0x7F80000000 0x7F80000000 = (.inf false, .inf false, false) ∧
    floatCase 0x7F80000000 0xFF80000000 = (.inf false, .inf true, true) ∧
    floatCase 0x7F80000000 0x0000000001 = (.inf false, .zero false, false) ∧
    floatCase 0x7F80000001 0x0080000000 = (.nan, .num false 1 0x80000000, false) := by decide +kernel

/-- The exponents 158 and 157 on both sides of an overflow, and a number just below one half. -/
theorem witness_FloatConversions : let of := fun a : W40 => inF 0 ((floats a 0).reg 1)
    of 0x4F00000000 = .num false 158 0x80000000 ∧ of 0x4EFFFFFFFF = .num false 157 0xFFFFFFFF ∧
    of 0x3F00000000 = .num false 126 0x80000000 ∧ of 0x3EFFFFFFFF = .num false 125 0xFFFFFFFF ∧
    of 0xFFC0000000 = .nan ∧ of 0xFF80000000 = .inf true ∧ of 0x807FFFFFFF = .zero true ∧ (floats 0 0x0000000100).fix 2 = 1 := by
  decide

/-- Two zeros of different sign, the largest number and an infinity. -/
theorem witness_FloatSelect : ([0, 0x8000000000, 0x7F7FFFFFFF, 0xFF80000000] : List W40).all (fun a =>
    classify (condWord 0 ((floats a 0).reg 1)) != .nan) = true := by decide

/-- The field of four bits at bit 8, by a register and by the immediate of R276's example. -/
theorem witness_FieldBits : (two 0x12345678 0x108).Steady ∧ (false = true → (two 0x12345678 0x108).simd = true) ∧
    Instr.shifter? ((two 0x12345678 0x108).peIn false) (.fext 0 1 2) = some (.bin .fext, 0, 1, 264, 8, 4) ∧
    Instr.shifter? ((two 0x12345678 0x108).peIn false) (.shiftImm .always 1 (.bin .fext) 8 3 1) = some (.bin .fext, 3, 1, 8, 8, 4) :=
  ⟨steady_two _ _, fun h => (by cases h), rfl, rfl⟩

/-- No leading zero, one, and a word of zeros. -/
theorem witness_LeadingBits : (∀ a b, (two a b).Steady) ∧
    (let v : W32 := (two 0x80000000 0).peIn false |>.fix 1
     (∀ j, j < 0 → v.getLsbD (31 - j) = false) ∧ v.getLsbD (31 - 0) = !false) ∧
    (let v : W32 := (two 0x40000000 0).peIn false |>.fix 1
     (∀ j, j < 1 → v.getLsbD (31 - j) = false) ∧ v.getLsbD (31 - 1) = !false) ∧
    (let v : W32 := (two 0 0).peIn false |>.fix 1
     (∀ j, j < 32 → v.getLsbD (31 - j) = false) ∧ (32 < 32 → v.getLsbD (31 - 32) = !false)) := by
  refine ⟨steady_two, by decide, by decide, ?_, by decide⟩
  decide

theorem witness_NanResult : classify (condWord (two 0x7FC00000 0).reg.mode1 ((two 0x7FC00000 0).dreg false 1)) = .nan ∧
    (two 0x7FC00000 0).Steady := ⟨by decide, steady_two _ _⟩

/-- 45_alu_float.md R460, R461: seeds that are accurate up to the largest operand of their index, and not one step further. -/
theorem test_seedBounds :
    recipsAccurate 0 2130836489 = true ∧ recipsAccurate 0 2130836490 = false ∧
    rsqrtsAccurate true 16 1908874354 = true ∧ rsqrtsAccurate true 16 1908874355 = false := by decide

/-- The smallest and the largest exponent with a finite reciprocal in the format. -/
theorem witness_RecipsAccuracy :
    ((condWord (two 0x00800000 0).reg.mode1 ((two 0x00800000 0).dreg false 1)).extractLsb' 31 8).toNat = 1 ∧
    ((condWord (two 0x7E7FFFFF 0).reg.mode1 ((two 0x7E7FFFFF 0).dreg false 1)).extractLsb' 31 8).toNat = 252 ∧
    ((condWord (two 0x7F7FFFFF 0).reg.mode1 ((two 0x7F7FFFFF 0).dreg false 1)).extractLsb' 31 8).toNat = 254 ∧
    (condWord (two 0x7F7FFFFF 0).reg.mode1 ((two 0x7F7FFFFF 0).dreg false 1)).msb = false ∧
    (∀ a b, (two a b).Steady) := ⟨by decide, by decide, by decide, by decide, steady_two⟩

theorem witness_MultifunctionParts : Compute.parts (.mfFix .rm .add ⟨1, 2, 0, 0, 0, 0⟩) =
    some (.mulRn .none ⟨true, true, true, true⟩ 1 0 4, .aluBin .add 2 8 12) := by decide

theorem witness_RegMoveCompletes : base.Calm ∧ base.simd = false ∧ base.cond false .always = true ∧
    (Compute.aluBin .add 2 0 1).dualClash = false ∧ (UReg.r 3 = .lcntr → base.seq.loopDepth < 6) ∧ base.FlowWritable (.m 4) ∧
    ∃ t, (base.runPes base.begun (computePe (.aluBin .add 2 0 1)) true false).write40 (.m 4) (base.read40 (.r 3)) (wideSource (.r 3)) = .ok t :=
  ⟨calm_base, rfl, rfl, rfl, fun h => (by cases h), flow_base _, ok_of (by decide)⟩

theorem witness_SimdMoves : simdBase.Steady ∧ simdBase.simd = true ∧ (Cond.lce = .lce → simdBase.inShortLoop = false) ∧
    (UReg.i 0).isDag = true ∧ (UReg.m 7).isDag = true ∧ (UReg.l 8).isDag = true ∧ (UReg.b 15).isDag = true :=
  ⟨steady_simd, rfl, fun _ => rfl, rfl, rfl, rfl, rfl⟩

/-- 20_memory.md R175, 40_compute_move.md R266: in SIMD mode I4 goes to R1 and S1, and to USTAT1 and USTAT2. -/
theorem test_dagMoves :
    let s := dagSet .i 4 0x12345678 simdBase
    (after (.uregMove (.i 4) .always (.r 1) .none) s).map (fun t => (t.dreg false 1, t.dreg true 1)) =
      some (0x1234567800, 0x1234567800) ∧
    (after (.uregMove (.i 4) .always (.sys .ustat1) .none) s).map (fun t => (t.reg.ustat1, t.reg.ustat2)) =
      some (0x12345678, 0x12345678) := by decide

theorem witness_SimdMoves_swap : simdBase.Steady ∧ (Compute.aluBin .add 2 0 1).dualClash = false ∧
    (Cond.is .eq = .lce → simdBase.inShortLoop = false) ∧
    (simdBase.simd = true → Cond.is .eq ≠ .always → (0 : Reg) ∉ (Compute.aluBin .add 2 0 1).dests ∧ (1 : Reg) ∉ (Compute.aluBin .add 2 0 1).dests) :=
  ⟨steady_simd, rfl, fun h => (by cases h), fun _ _ => by decide⟩

theorem witness_RegisterWrites : (UReg.b 7).plain = true ∧ (UReg.sys .mmask).plain = true := ⟨rfl, rfl⟩

theorem witness_LoadImmCompletes : base.Calm ∧ base.FlowWritable (.r 1) ∧ ∃ t1 t, base.begun.write32 (.r 1) 5 = .ok t1 ∧
    (match (if base.simd then (UReg.r 1).comp else none) with | some c => t1.write32 c 5 | none => .ok t1) = .ok t :=
  ⟨calm_base, flow_base _, _, _, rfl, rfl⟩

/-- An index on a circular buffer whose update stays inside or wraps, and one without a buffer. -/
theorem witness_ModifyCompletes :
    (let s := dagSet .l 3 4 (dagSet .i 3 0x50003 (dagSet .b 3 0x50000 base))
     s.Steady ∧ s.condAny .lce = true ∧ circOk (s.dagReg .i 3) (s.dagReg .b 3) (s.dagReg .l 3) 3 = true ∧
       circOk (s.dagReg .i 3) (s.dagReg .b 3) (s.dagReg .l 3) 0 = true ∧
       circUpdate (s.dagReg .i 3) (s.dagReg .b 3) (s.dagReg .l 3) 0 = s.dagReg .i 3 + 0 ∧
       circUpdate (s.dagReg .i 3) (s.dagReg .b 3) (s.dagReg .l 3) 3 ≠ s.dagReg .i 3 + 3 ∧ cbufen s.reg.mode1 = false ∧
       cbufen (mode 0x01000000 s).reg.mode1 = true) ∧
    (base.condAny (.is .eq) = false ∧ base.dagReg .l 3 = 0 ∧ base.Steady ∧ base.inShortLoop = false) := by
  refine ⟨⟨steady_of rfl rfl rfl rfl (by decide : base.seq.pc ≠ 0xFFFFFF), by decide, by decide, by decide, by decide, by decide, by decide, by decide⟩, by decide, by decide, steady_base, rfl⟩

/-- The first and the last index of a buffer, moved by one less than its length. -/
theorem witness_ModifyCompletes_inside : circOk 0x50000 0x50000 11 10 = true ∧ circOk 0x5000A 0x50000 11 10 = true ∧
    circOk 0x5000A 0x50000 11 (-10) = true ∧ (0x50000#32).toNat ≤ (0x5000A#32).toNat ∧
    (0x5000A#32).toNat < (0x50000#32).toNat + (11#32).toNat := by decide

/-- I4 points at a normal word of block 1. -/
def pointed : State := dagSet .i 4 0x50010 base
theorem steady_pointed : pointed.Steady := steady_of rfl rfl rfl rfl (by decide : base.seq.pc ≠ 0xFFFFFF)

theorem witness_LoadCompletes :
    let s := pointed
    let i : Instr := .uregMem true 4 4 .always false false false (.r 0) (.aluBin .add 2 0 1)
    let m : MemMove := ⟨.load (.r 0), false, .post 4 (.reg 4), false⟩
    let l := normalLoc 0x50010 false false
    i.access? = some (.always, true, m) ∧ m.op = .load (.r 0) ∧ i.noClash = true ∧ s.Calm ∧ s.simd = false ∧
      s.cond false .always = true ∧ (true = false → s.AwayFromEnd) ∧ s.ModeOk m.mode ∧ s.address m.mode = .ok 0x50010 ∧
      m.selfTransfer = false ∧ broadcastBy s.reg.mode1 (.r 0) m.mode = false ∧
      s.locate 0x50010 (UReg.r 0 == .px) m.lw = .ok l ∧ (l.width = 64 → UReg.r 0 = .px ∨ (UReg.r 0).pair?.isSome = true) ∧
      s.Reachable l true ∧ s.FlowWritable (.r 0) ∧
      ∃ t1, s.begun.putLoaded s.reg.mode1 ⟨.r 0, l.width, BitVec.ofNat 64 (s.mem.load l.bytes.1 l.bytes.2)⟩ = .ok t1 :=
  ⟨rfl, rfl, rfl, calm_of steady_pointed rfl, rfl, rfl, fun h => (by cases h), fun h => (by cases h), rfl, rfl, rfl, rfl,
    fun h => (by cases h), ⟨rfl, rfl⟩, fun _ => ⟨rfl, rfl⟩, _, rfl⟩

theorem witness_StoreCompletes :
    let s := pointed
    let i : Instr := .jumpIndElse true 4 4 (.is .eq) 0 0 7 .none
    let m : MemMove := ⟨.store (.reg (.r 7)), false, .post 4 (.reg 4), false⟩
    let l := normalLoc 0x50010 false false
    i.access? = some (.is .eq, false, m) ∧ m.op = .store (.reg (.r 7)) ∧ i.noClash = true ∧ s.mem.wf = true ∧ s.Calm ∧
      s.simd = false ∧ s.cond false (.is .eq) = false ∧ (false = false → s.AwayFromEnd) ∧ s.ModeOk m.mode ∧ s.address m.mode = .ok 0x50010 ∧
      m.selfTransfer = false ∧ s.locate 0x50010 (Datum.reg (.r 7)).isPx m.lw = .ok l ∧
      (l.width = 64 → (Datum.reg (.r 7)).pairs = true) ∧ s.Reachable l false ∧
      (Datum.reg (.r 7) = .reg .lcntr → s.seq.loopDepth < 6) :=
  ⟨rfl, rfl, rfl, rfl, calm_of steady_pointed rfl, rfl, by decide, fun _ h => (by cases h), fun h => (by cases h), rfl, rfl, rfl,
    fun h => (by cases h), ⟨rfl, rfl⟩, fun h => (by cases h)⟩

/-- I1 and I4 at a word of block 1, in SIMD mode with broadcast loads through I1. -/
def simdPointed : State := mode 0x00A00000 (dagSet .i 1 0x50010 pointed)

theorem calm_simdPointed : simdPointed.Calm := calm_of (steady_of rfl rfl rfl rfl (by decide : base.seq.pc ≠ 0xFFFFFF)) rfl

/-- What SimdAccess supposes of a move by `m` at the word `l`, but for the words themselves. -/
def simdCase (i : Instr) (m : MemMove) (l : Loc) (px : Bool) : Prop :=
  let s := simdPointed
  i.access? = some (.always, true, m) ∧ i.noClash = true ∧ s.ModeOk m.mode ∧ s.address m.mode = .ok l.addr ∧
    m.selfTransfer = false ∧ s.locate l.addr px m.lw = .ok l

/-- A normal word loaded for a register and its complement, through DAG1 post-modify. -/
theorem witness_SimdAccess :
    let s := simdPointed
    let m : MemMove := ⟨.load (.r 0), false, .post 4 (.reg 4), false⟩
    let l := normalLoc 0x50010 false false
    let k := normalLoc 0x50011 false false
    s.Calm ∧ s.simd = true ∧ simdCase (.uregMem true 4 4 .always false false false (.r 0) .none) m l false ∧
      broadcastBy s.reg.mode1 (.r 0) m.mode = false ∧ s.Reachable l true ∧ s.implicitLoc l = .ok k ∧ s.Reachable k true :=
  ⟨calm_simdPointed, rfl, ⟨rfl, rfl, fun h => (by cases h), rfl, rfl, rfl⟩, rfl, ⟨rfl, rfl⟩, rfl, ⟨rfl, rfl⟩⟩

/-- A broadcast load by pre-modify, and a long word at an absolute address. -/
theorem witness_SimdAccess_loads :
    let s := simdPointed
    let l := normalLoc 0x50010 false false
    let w := normalLoc 0x50010 true false
    simdCase (.uregPre false 1 false false (.s 0) 0) ⟨.load (.s 0), false, .pre 1 (.imm 0), false⟩ l false ∧
      broadcastBy s.reg.mode1 (.s 0) (.pre 1 (.imm 0)) = true ∧ s.Reachable l true ∧
    simdCase (.uregAbs false false true (.r 0) 0x50010) ⟨.load (.r 0), false, .direct 0x50010, true⟩ w false ∧
      ¬ (w.width = 16 ∨ w.width = 32) ∧ s.Reachable w true :=
  ⟨⟨rfl, rfl, trivial, rfl, rfl, rfl⟩, rfl, ⟨rfl, rfl⟩, ⟨rfl, rfl, trivial, rfl, rfl, rfl⟩, by decide, ⟨rfl, rfl⟩⟩

/-- A short word stored with the next one, and a 48-bit word from PX. -/
theorem witness_SimdAccess_stores :
    let s := simdPointed
    let l : Loc := ⟨0xA0020, 16, .cells (shortCol 0xA0020), false⟩
    let k : Loc := ⟨0xA0022, 16, .cells (shortCol 0xA0022), false⟩
    let w : Loc := ⟨0x50010, 48, .cells ((wordCol 0x50010).getD 0), false⟩
    simdCase (.uregAbs false true false (.r 0) 0xA0020) ⟨.store (.reg (.r 0)), false, .direct 0xA0020, false⟩ l false ∧
      (Datum.reg (.r 0)).comp.isSome = true ∧ s.Reachable l false ∧ s.implicitLoc l = .ok k ∧ s.Reachable k false ∧
    simdCase (.uregAbs false true false .px 0x50010) ⟨.store (.reg .px), false, .direct 0x50010, false⟩ w true ∧
      ¬ (w.width = 16 ∨ w.width = 32) ∧ s.Reachable w false :=
  ⟨⟨rfl, rfl, trivial, rfl, rfl, rfl⟩, rfl, ⟨rfl, by decide⟩, rfl, ⟨rfl, by decide⟩, ⟨rfl, rfl, trivial, rfl, rfl, rfl⟩, by decide,
    ⟨rfl, by decide⟩⟩

theorem witness_ConditionFalse : base.Calm ∧ base.simd = false ∧ base.cond false (.is .eq) = false ∧
    Instr.condCompute (.is .eq) (.aluBin .add 2 0 1) = .condCompute (.is .eq) (.aluBin .add 2 0 1) := ⟨calm_base, rfl, by decide, rfl⟩

/-- I4 and I12 at two words, with MODE1 as given. -/
def pointedTwice (mode1 a b : W32) : State := mode mode1 (dagSet .i 12 b (dagSet .i 4 a base))

/-- A single store, and the two stores of a Type 1 instruction in SISD and in SIMD mode. -/
theorem witness_StoreFrame :
    (Instr.uregMem true 4 4 .always false true false (.r 0) .none).stores = true ∧
    (∃ t, exec (.uregMem true 4 4 .always false true false (.r 0) .none) pointed = .next t) ∧
    (Instr.dualMove true 4 4 2 true 4 4 3 .none).stores = true ∧
    (∃ t, exec (.dualMove true 4 4 2 true 4 4 3 .none) (pointedTwice 0 0x50010 0x50020) = .next t) ∧
    (∃ t, exec (.dualMove true 4 4 2 false 4 4 3 .none) (pointedTwice 0x00200000 0x50010 0x50020) = .next t) :=
  ⟨rfl, ⟨_, rfl⟩, rfl, ⟨_, rfl⟩, ⟨_, rfl⟩⟩

theorem witness_StoreFrame_others : Instr.nop.stores = false ∧ ∃ t, exec .nop base = .next t := ⟨rfl, _, rfl⟩

theorem calm_pointedTwice (m a b : W32) : (pointedTwice m a b).Calm := by
  have hq : (pointedTwice m a b).seq = base.seq := by simp [pointedTwice, mode, dagSet]
  exact calm_of (steady_of (by simp [pointedTwice, mode, dagSet]; rfl) (by simp [pointedTwice, mode, dagSet]; rfl)
    (by rw [hq]; rfl) (by simp only [State.looping, hq]; rfl) (by rw [hq]; decide)) (by simp only [State.looping, hq]; rfl)
    (by rw [hq]; rfl)

/-- What DualMoveCompletes supposes of a DM access by I4 and a PM access by I12 at the addresses `a` and `b`. -/
def dualCase (m a b : W32) (w1 w2 : Bool) (l1 l2 : Loc) : Prop :=
  let s := pointedTwice m a b
  let a1 := sideMove w1 false 4 4 (.r 2)
  let a2 := sideMove w2 true 4 4 (.r 3)
  s.Calm ∧ s.address a1.mode = .ok a ∧ s.locate a false false = .ok l1 ∧ s.address a2.mode = .ok b ∧
    s.locate b false false = .ok l2 ∧ s.ModeOk a1.mode ∧ s.ModeOk a2.mode ∧
    a1.broadcast s.reg.mode1 = false ∧ a2.broadcast s.reg.mode1 = false

/-- A DM store and a PM load in SISD mode, with a compute. -/
theorem witness_DualMoveCompletes :
    let s := pointedTwice 0 0x50010 0x50020
    let l1 := normalLoc 0x50010 false false
    let l2 := normalLoc 0x50020 false false
    dualCase 0 0x50010 0x50020 true false l1 l2 ∧ (Compute.aluBin .add 2 0 1).dualClash = false ∧
      (∀ w ∈ s.dualWords false false 2 l1 l1, s.Reachable w.2 false) ∧
      (∀ w ∈ s.dualWords true false 3 l2 l2, s.Reachable w.2 true) ∧ l1.overlaps l2 = false :=
  ⟨⟨calm_pointedTwice _ _ _, rfl, rfl, rfl, rfl, fun h => (by cases h), fun h => (by cases h), rfl, rfl⟩, rfl,
    List.forall_mem_singleton.mpr ⟨rfl, rfl⟩, List.forall_mem_singleton.mpr ⟨rfl, rfl⟩, by decide⟩

/-- Two stores in SIMD mode, of a short and a normal word with their implicit words. -/
theorem witness_DualMoveCompletes_simd :
    let s := pointedTwice 0x00200000 0xA0020 0x50020
    let l1 : Loc := ⟨0xA0020, 16, .cells (shortCol 0xA0020), false⟩
    let k1 : Loc := ⟨0xA0022, 16, .cells (shortCol 0xA0022), false⟩
    let l2 := normalLoc 0x50020 false false
    let k2 := normalLoc 0x50021 false false
    dualCase 0x00200000 0xA0020 0x50020 true true l1 l2 ∧ s.simd = true ∧ l1.narrow = l2.narrow ∧
      s.implicitLoc l1 = .ok k1 ∧ s.implicitLoc l2 = .ok k2 ∧
      s.dualWords false false 2 l1 k1 = [(.r 2, l1), (.s 2, k1)] ∧ s.dualWords true false 3 l2 k2 = [(.r 3, l2), (.s 3, k2)] ∧
      s.Reachable l1 false ∧ s.Reachable k1 false ∧ s.Reachable l2 false ∧ s.Reachable k2 false ∧
      (l1.overlaps l2 || l1.overlaps k2 || k1.overlaps l2 || k1.overlaps k2) = false :=
  ⟨⟨calm_pointedTwice _ _ _, rfl, rfl, rfl, rfl, fun h => (by cases h), fun h => (by cases h), rfl, rfl⟩, rfl, rfl, rfl, rfl, rfl,
    rfl, ⟨rfl, rfl⟩, ⟨rfl, rfl⟩, ⟨rfl, rfl⟩, ⟨rfl, rfl⟩, by decide⟩

/-- Two long words in SIMD mode, which move alone; a long word with a normal one; and two stores that meet. -/
theorem witness_DualMoveCompletes_wide :
    (let s := pointedTwice 0x00200000 0x28010 0x28020
     let l1 : Loc := ⟨0x28010, 64, .cells (longCol 0x28010), false⟩
     let l2 : Loc := ⟨0x28020, 64, .cells (longCol 0x28020), false⟩
     dualCase 0x00200000 0x28010 0x28020 false false l1 l2 ∧ l1.narrow = false ∧ l2.narrow = false ∧
       s.dualWords false false 2 l1 l1 = [(.r 2, l1)] ∧ s.dualWords true false 3 l2 l2 = [(.s 3, l2)] ∧
       s.Reachable l1 true ∧ s.Reachable l2 true) ∧
    (let l1 : Loc := ⟨0x28010, 64, .cells (longCol 0x28010), false⟩
     let l2 := normalLoc 0x50020 false false
     dualCase 0x00200000 0x28010 0x50020 false false l1 l2 ∧ l1.narrow ≠ l2.narrow) ∧
    (let l1 : Loc := ⟨0x28010, 64, .cells (longCol 0x28010), false⟩
     let l2 := normalLoc 0x50020 false false
     dualCase 0 0x28010 0x50020 true true l1 l2 ∧ l1.overlaps l2 = true) :=
  ⟨⟨⟨calm_pointedTwice _ _ _, rfl, rfl, rfl, rfl, fun h => (by cases h), fun h => (by cases h), rfl, rfl⟩, rfl, rfl, rfl, rfl,
      ⟨rfl, rfl⟩, ⟨rfl, rfl⟩⟩,
    ⟨⟨calm_pointedTwice _ _ _, rfl, rfl, rfl, rfl, fun h => (by cases h), fun h => (by cases h), rfl, rfl⟩, by decide⟩,
    ⟨⟨calm_pointedTwice _ _ _, rfl, rfl, rfl, rfl, fun h => (by cases h), fun h => (by cases h), rfl, rfl⟩, by decide⟩⟩

/-- 20_memory.md R126, R167, U8: two stores to one word or register of another processor under two names, and a broadcast
store with one to another processor or to this one, share a location; stores to two processors do not. -/
theorem test_overlaps :
    let s : State := { base with pins := { base.pins with id := 1 } }
    let meet (a b : W32) : Bool := match s.locate a false false, s.locate b false false with
      | .ok l, .ok m => l.overlaps m
      | _, _ => false
    meet 0x240000 0x260000 = true ∧ meet 0x740000 0x240000 = true ∧ meet 0x240000 0x740000 = true ∧
      meet 0x740000 0x140000 = true ∧ meet 0x700008 0x200008 = true ∧ meet 0x200004 0x200005 = true ∧
      meet 0x240000 0x340000 = false ∧ meet 0x240000 0x140000 = false ∧ meet 0x240000 0x240001 = false := by decide

/-- A taken jump with (LA) and (CI) inside a loop and an interrupt, and a taken call. -/
theorem witness_BranchesTaken :
    (base.MayBranch ∧ Compute.none.dualClash = false ∧ base.condBoth .always = true ∧ base.inShortLoop = false) ∧
    (∃ t1 t2, Instr.jump? (.jumpAbs false .always true true 0x40200) = some ⟨.always, true, false, .none, false, true⟩ ∧
      (Except.ok (base.runPes base.start (computePe .none) true false) : Run State) = .ok t1 ∧ t1.leave = .ok t2 ∧ t2.entryAllowed 0x40200 = true) ∧
    Instr.call? (.callAbs .always true 0x40200) = some ⟨.always, true, false, .none, false, false⟩ ∧
    base.entryAllowed 0x40200 = true ∧ base.seq.pcstkp.toNat < 30 :=
  ⟨⟨mayBranch_base, rfl, rfl, rfl⟩, ⟨_, _, rfl, rfl, rfl, rfl⟩, rfl, rfl, by decide⟩

/-- One entry on the PC stack. -/
def called : State := { base.pushPc 0x40104 with recent := Recent.none, changed := Changed.none }

theorem witness_ReturnsTaken : called.MayBranch ∧ Compute.none.dualClash = false ∧ called.condBoth .always = true ∧
    called.seq.pcstkp ≠ 0 ∧ called.seq.pcstkp ≠ 31 ∧ called.entryAllowed called.topPc = true :=
  ⟨mayBranch_of (steady_of rfl rfl rfl rfl (by decide)) rfl rfl, rfl, rfl, by decide, by decide, rfl⟩

theorem witness_BranchesNotTaken : Instr.branch? (.callRel6 (.is .eq) 17 true true (.aluUn .dec 6 6)) =
      some ⟨.is .eq, true, true, .aluUn .dec 6 6, false, false⟩ ∧ base.Steady ∧ base.AwayFromEnd ∧
    (Compute.aluUn .dec 6 6).dualClash = false ∧ base.condBoth (.is .eq) = false :=
  ⟨rfl, steady_base, fun h => (by cases h), rfl, by decide⟩

/-- Loops of one, two and three instructions. -/
theorem witness_LoopSetup : base.StackReady ∧ base.seq.loopDepth < 6 ∧ base.seq.pcstkp.toNat < 30 ∧ base.seq.pc ≠ 0xFFFFFF ∧
    ([1, 2, 3] : List W24).all (fun rel => Instr.loop? base (.doImm 5 rel) == some (.lce, rel, some 5) &&
      decide ((base.seq.pc + 1).toNat ≤ (base.seq.pc + rel).toNat) && !base.endsTooClose (base.seq.pc + rel)) = true :=
  ⟨ready_base, by decide, by decide, by decide, by decide⟩

/-- A loop of three instructions at the fetch of the last, and loops of one and two instructions at their last one, with the
count at 2 and at 1; a condition-based loop whose condition EQ is false and true. -/
theorem witness_LoopTest : ([2, 1] : List W32).all (fun n =>
      (let s := looping 0xCF040102 n
       s.looping && decide (s.seq.loopDepth ≤ 6) && !s.returning && s.loopType == 3 && condOfCode s.loopTerm == .lce &&
         s.seq.faddr == s.loopEnd && s.curlcntr == n) &&
      (let s := looping 0x4F040100 n
       s.loopType == 1 && s.seq.pc == s.loopEnd && s.curlcntr == n && !s.returning) &&
      (let s := looping 0x8F040100 n
       s.loopType == 2 && s.seq.pc == s.loopEnd && s.curlcntr == n && !s.returning)) = true ∧
    ([false, true] : List Bool).all (fun b =>
      let s := looping 0x00040102 0
      let t := { s with reg := { s.reg with astatx := bitAt 0 b } }
      t.loopType == 0 && t.seq.faddr == t.loopEnd && condOfCode t.loopTerm == .is .eq && t.untilBoth (.is .eq) == b) = true ∧
    (looping 0xCF040102 1).Steady ∧ (looping 0x4F040100 1).Steady ∧ (looping 0x8F040100 2).Steady ∧ (looping 0x00040102 0).Steady := by
  refine ⟨by decide, by decide, ?_, ?_, ?_, ?_⟩ <;> exact ⟨settled_of rfl rfl, rfl, fun _ => by decide, by decide⟩

theorem witness_BitOperations : base.Steady ∧ simdBase.Steady ∧
    (∃ t, base.begun.writeSys .mode2 (base.readBack base.begun .mode2 ||| 0x70) = .ok t) ∧
    (∃ t1 t, simdBase.begun.writeSys .ustat1 (simdBase.readBack simdBase.begun .ustat1 ||| 1) = .ok t1 ∧
      (match (if simdBase.simd then sregComp .ustat1 else none) with
        | some d => t1.writeSys d (simdBase.readBack simdBase.begun d ||| 1) | none => .ok t1) = .ok t) :=
  ⟨steady_base, steady_simd, ⟨_, rfl⟩, ⟨_, _, rfl, rfl⟩⟩

theorem witness_StackOperations_push : Instr.push? (.pushLoop true true false) = some ⟨true, true, true, false⟩ ∧ base.StackReady ∧
    base.seq.loopDepth < 6 ∧ base.seq.statusStack.length < 15 ∧ base.seq.pcstkp.toNat < 30 :=
  ⟨rfl, ready_base, by decide, by decide, by decide⟩

/-- One entry on every stack, and no entry. -/
theorem witness_StackOperations_pop :
    (let s := { base with seq := { base.seq with loopDepth := 1, pcstkp := 1, statusStack := [⟨1, 2, 3⟩], loopAddr := base.seq.loopAddr.set 0 0xCF040300 } }
     s.StackReady ∧ s.seq.loopDepth ≠ 0 ∧ s.seq.statusStack = ⟨1, 2, 3⟩ :: [] ∧ s.seq.pcstkp ≠ 0) ∧
    Instr.pop? (.popLoop true true false) = some ⟨true, true, true, false⟩ ∧ base.StackReady ∧
    base.seq.loopDepth = 0 ∧ base.seq.statusStack = [] ∧ base.seq.pcstkp = 0 :=
  ⟨⟨⟨⟨⟨settled_of rfl rfl, rfl, fun _ => by decide, by decide⟩, by decide⟩, by decide, rfl⟩, by decide, rfl, by decide⟩, rfl, ready_base, rfl, rfl, rfl⟩

theorem witness_ModeInstructions :
    base.Steady ∧ base.seq.dbSlots = 0 ∧ base.MayBranch ∧ base.entryAllowed 0x41000 = true ∧
    (let s := dagSet .i 6 0x50000 base
     s.Calm ∧ s.simd = false ∧ s.locate (s.dagReg .i 6) false false = .ok (normalLoc 0x50000 false false) ∧
       s.Reachable (normalLoc 0x50000 false false) true ∧ ∃ t,
       (s.begun.setDagReg .i 7 (s.dagReg .i 6)).putLoaded s.reg.mode1
         ⟨.i 6, 32, BitVec.ofNat 64 (s.mem.load (normalLoc 0x50000 false false).bytes.1 (normalLoc 0x50000 false false).bytes.2)⟩ = .ok t) :=
  ⟨steady_base, rfl, mayBranch_base, rfl, calm_of (steady_of rfl rfl rfl rfl (by decide : base.seq.pc ≠ 0xFFFFFF)) rfl, rfl, rfl,
    ⟨rfl, rfl⟩, _, rfl⟩

/-- The timer at 0, at 1 and at 2. -/
theorem witness_TimerTick : ([0, 1, 2] : List W32).all (fun n =>
    let s := { base with inputs := [.tick], reg := { base.reg with mode2 := 0x20, tcount := n, tperiod := 7 } }
    s.pins.id != 7 && !s.iop.resetPending && s.reg.mode2.getLsbD 5 && !s.inService .tmzhi && !s.inService .tmzli && !s.seq.idle &&
      (match step s with | .next _ => true | _ => false)) = true := by decide

/-- The channel of link buffer 0 with these control bits, queue, count and number of rows. -/
def dmaState (ctl : W32) (q : List W64) (c : BitVec 16) (rows : BitVec 18) : State :=
  { base with iop := { base.iop with lctl0 := ctl, chan := base.iop.chan.set 4 { base.iop.chan[4] with queue := q, c := c, gp := rows } } }

/-- What DmaTransfer supposes of a channel. -/
def dmaCase (s : State) (c : Fin 14) : Bool :=
  !s.bootChannel c && (match epOf c with | some n => s.ehm n != 1 && s.ehm n != 3 && s.ehm n != 6 | none => true) &&
    (match dmaCol (s.ctl c).word48 s.iop.chan[c].ii with | .ok _ => true | _ => false) &&
    (match s.dmaMove c with | .ok _ => true | _ => false)

/-- Receiving and transmitting with words to come, and the last one; 48-bit words; two dimensions in a row, at its end, and at
the end of the last one; and a slave-mode channel of the external port. -/
theorem witness_DmaTransfer : [
    dmaState 0x3 [5] 2 0, dmaState 0x3 [5] 1 0, dmaState 0xB [] 2 0, dmaState 0xB [] 1 0, dmaState 0x13 [0x123456789ABC] 2 0,
    dmaState 0x83 [5] 2 1, dmaState 0x83 [5] 1 2, dmaState 0x83 [5] 1 1].all (fun s => dmaCase s 4) = true ∧
    (dmaState 0x13 [5] 2 0).ctl 4 = ⟨true, true, false, false, false, true⟩ ∧
    (dmaState 0x83 [5] 2 0).ctl 4 = ⟨true, true, false, false, true, false⟩ ∧
    dmaCase { base with iop := { base.iop with chan := base.iop.chan.set 10 { base.iop.chan[10] with queue := [5], c := 2 } } } 10 = true := by
  decide

theorem witness_LinkWords :
    (∃ t, State.linkArrived { base with iop := { base.iop with lctl0 := 1 } } 0 5 = .ok t) ∧
    (∃ t, State.linkTaken { base with iop := { base.iop with lctl0 := 0x9, chan := base.iop.chan.set 4 { base.iop.chan[4] with queue := [5] } } } 0 = .ok t) :=
  ⟨ok_of (by decide), ok_of (by decide)⟩

/-- Serial port 0 with words of eight bits: one received into an empty and into a full buffer, and one sent. -/
theorem witness_LinkWords_serial :
    (∀ q ∈ ([[], [1, 2]] : List (List W64)), ∃ t, State.sportReceived { base with iop := { base.iop with
      sport := base.iop.sport.set 0 { base.iop.sport[0] with srctl := 0x71 }
      chan := base.iop.chan.set 0 { base.iop.chan[0] with queue := q } } } 0 0x1FF = .ok t) ∧
    (∃ t, State.sportSent { base with iop := { base.iop with
      sport := base.iop.sport.set 0 { base.iop.sport[0] with stctl := 0x71 }
      chan := base.iop.chan.set 2 { base.iop.chan[2] with queue := [0x1FF] } } } 0 = .ok t) := by
  refine ⟨fun q h => ?_, ok_of (by decide)⟩
  rcases List.mem_cons.mp h with rfl | h
  · exact ok_of (by decide)
  · rcases List.mem_cons.mp h with rfl | h
    · exact ok_of (by decide)
    · cases h

/-- `base` with these words in the buffer of channel `c`, and SYSCON.BHD as given. -/
def buffered (bhd : Bool) (c : Fin 14) (q : List W64) : State :=
  { base with iop := { base.iop with
      syscon := if bhd then 0x10010 else 0x10, chan := base.iop.chan.set c.val { base.iop.chan[c] with queue := q } } }

theorem steady_buffered (b : Bool) (c : Fin 14) (q : List W64) : (buffered b c q).Steady :=
  steady_of rfl rfl rfl rfl (by decide : base.seq.pc ≠ 0xFFFFFF)

/-- `base` with mu-law selected on both sides of the disabled serial port 0. -/
def companding : State :=
  { base with iop := { base.iop with sport := base.iop.sport.set 0 { base.iop.sport[(0 : Fin 2)] with stctl := 4, srctl := 4 } } }

/-- A plain register, and registers at the ends of what they take. -/
theorem witness_IopRegisters :
    base.Steady ∧ iopReg 0x08 = some (.msgr 0) ∧ (IopReg.msgr 0).buffer? = none ∧ (∃ t, base.begun.iopWrite true (.msgr 0) 5 = .ok t) ∧
    (IopReg.msgr 0 = .elast → base.recent.elast = false) ∧
    IopReg.keeps .bmax = some 0xFFFF ∧ (∃ t, base.iopWrite true .bmax 0 = .ok t) ∧ (∃ t, base.iopWrite false .bmax 0xFFFF = .ok t) ∧
    (∃ t, base.iopWrite true .syscon 1 = .ok t) :=
  ⟨steady_base, rfl, rfl, ⟨_, rfl⟩, fun h => (by cases h), rfl, ⟨_, rfl⟩, ⟨_, rfl⟩, ⟨_, rfl⟩⟩

/-- The buffers of each kind, with any words under both settings of BHD; and words of 32 bits in them. -/
theorem witness_IopRegisters_buffers :
    (∀ b c q, (buffered b c q).Steady ∧ (buffered b c q).bhd = b ∧ (buffered b c q).iop.chan[c].queue = q) ∧
    (iopReg 0x04 = some (.epb 0) ∧ (IopReg.epb 0).buffer? = some 10 ∧ capacity 10 = 8) ∧
    (iopReg 0xCB = some (.lbuf 5) ∧ (IopReg.lbuf 5).buffer? = some 9 ∧ capacity 9 = 2) ∧
    (iopReg 0xF2 = some (.sp 1 .tx) ∧ (IopReg.sp 1 .tx).buffer? = some 3 ∧ (base.bufferGives (.sp 1 .tx)).isNone = true ∧
      base.bufferTakes (.sp 1 .tx) 7 = some 7) ∧
    (iopReg 0xE3 = some (.sp 0 .rx) ∧ (IopReg.sp 0 .rx).buffer? = some 0 ∧ base.bufferTakes (.sp 0 .rx) 7 = none ∧
      (base.bufferGives (.sp 0 .rx)).isSome = true) ∧
    (companding.Steady ∧ (companding.bufferGives (.sp 0 .tx)).isSome = true ∧
      (companding.bufferTakes (.sp 0 .rx) 7).isSome = true) ∧
    (1 : W64) = BitVec.setWidth 64 (1#32) ∧ base.iop.chan[(9 : Fin 14)].last = BitVec.setWidth 64 (0#32) :=
  ⟨fun b c q => ⟨steady_buffered b c q, by cases b <;> simp [buffered, State.bhd], by simp [buffered]⟩,
    ⟨rfl, rfl, rfl⟩, ⟨rfl, rfl, rfl⟩,
    ⟨by simp [iopReg, spAt], rfl, rfl, rfl⟩, ⟨by simp [iopReg, spAt], rfl, rfl, rfl⟩,
    ⟨steady_of rfl rfl rfl rfl (by decide : base.seq.pc ≠ 0xFFFFFF), rfl, rfl⟩, by decide, by decide⟩

/-- 62_link_serial_multiproc.md R748: on a disabled port with companding a word written to TX0 is read from it, and RX0 takes
one; with the port enabled both stop (R745). -/
theorem test_inPlace :
    (let s := (companding.iopWrite true (.sp 0 .tx) 100).toOption.getD companding
     s.iop.chan[(2 : Fin 14)].queue = [100] ∧
      (s.iopRead (.sp 0 .tx) 0).toOption.map (fun p => p.2.iop.chan[(2 : Fin 14)].queue) = some [] ∧
      (companding.iopWrite true (.sp 0 .rx) 100).toOption.map (fun t => t.iop.chan[(0 : Fin 14)].queue.length) = some 1) ∧
    (let p : Sport := { base.iop.sport[(0 : Fin 2)] with stctl := 5, srctl := 5 }
     p.txInPlace = none ∧ p.rxInPlace = none) := by decide

/-- 61_io_devices.md R720: the word that left last is the one a read of the empty buffer repeats. -/
theorem test_leave : (let h : Channel := { base.iop.chan[(10 : Fin 14)] with queue := [1, 2, 3] }
    ((h.leave 2).last, (h.leave 2).queue, (h.leave 0).last, (h.unpacked [7] [3]).last)) = (2, [3], 0, 2) := by decide

/-- 61_io_devices.md R683: FS and PS are cleared when DEN goes from 1 to 0, also into chain insertion mode, where the sequence
goes on (R687). -/
theorem test_chainInsertion : (let h : Channel := { base.iop.chan[(10 : Fin 14)] with queue := [1, 2], parts := [3], active := true }
    let s := { base with iop := { base.iop with dmac := base.iop.dmac.set 0 3, chan := base.iop.chan.set 10 h } }
    (s.writeDmac true 0 2).toOption.map fun t =>
      let g := t.iop.chan[(10 : Fin 14)]
      (g.queue, g.parts, g.active, t.iop.dmac[0])) = some ([], [], true, 2) := by decide

/-- Processor 2 of a multiprocessor system, with `m` as the bus master. -/
def busOf (m : BitVec 3) : State :=
  { base with pins := { base.pins with id := 2, brIn := 1 }, iop := { base.iop with crbm := m, bsyn := true, bmax := 2, bcnt := 1 } }

/-- The host as bus master. -/
def hosted : State := { base with iop := { base.iop with hstm := true, bsyn := true } }

/-- Direct writes in the direct write FIFO and in the slave write FIFO. -/
def wrote (d f : List DirectWrite) : State := { base with iop := { base.iop with directFifo := d, slaveDirect := f } }

/-- 61_io_devices.md R710, 70_reset_and_hazards.md R834: a fifth asynchronous and a third synchronous direct write are held off, and
so is the ninth entry of the direct write FIFO. -/
theorem test_directWrites :
    let w : DirectWrite := ⟨0x40100, 32, 5⟩
    let turned (r : Run State) : Bool := match r with | .error (.refuse .eventNotOffered) => true | _ => false
    let full (n : Nat) (s : State) : State := { s with iop := { s.iop with slaveDirect := .replicate n w } }
    turned ((full 3 hosted).extWriteMem false 0x40100 32 5) = false ∧ turned ((full 4 hosted).extWriteMem false 0x40100 32 5) = true ∧
    turned ((full 1 (busOf 1)).extWriteMem true 0x40100 32 5) = false ∧
    turned ((full 2 (busOf 1)).extWriteMem true 0x40100 32 5) = true ∧ turned ((full 4 hosted).extWriteIop false 0x08 5) = true ∧
    turned (wrote (.replicate 7 w) [w]).latchDirect = false ∧ turned (wrote (.replicate 8 w) [w]).latchDirect = true := by decide

theorem witness_BusMaster :
    base.pins.id = 0 ∧ hosted.Steady ∧ (0x800000#32).extractLsb' 23 9 ≠ 0 ∧ hosted.busMine = false ∧
    hosted.master = false ∧ (∃ t, (busOf 1).awaitBus.busTo 2 = .ok t) ∧ (∃ t, (busOf 2).busTo 1 = .ok t) ∧
    (∃ t, (busOf 2).bcntTick = .ok t) ∧ (∃ t, (busOf 2).dropRequest = .ok t) ∧
    (∃ t, (busOf 2).hostAcquire = .ok t) ∧ (∃ t, hosted.hostRelease = .ok t) ∧
    (∃ t, hosted.extWriteIop false 0x08 5 = .ok t) ∧ (∃ t, (busOf 1).extWriteIop true 0x08 5 = .ok t) ∧
    (let s := { base with iop := { base.iop with slaveFifo := [⟨0x08, 5⟩] } }
     s.iop.slaveFifo = ⟨0x08, 5⟩ :: [] ∧ s.iop.directFifo = [] ∧ s.urgent = none ∧ s.slaveReady = true ∧ iopReg 0x08 = some (.msgr 0)) ∧
    (∃ t, hosted.extWriteMem false 0x40100 32 5 = .ok t) ∧ (∃ t, (busOf 1).extWriteMem true 0x40100 64 5 = .ok t) ∧
    (∃ t, (wrote [] [⟨0x40100, 32, 5⟩]).latchDirect = .ok t) ∧
    (wrote [⟨0x40100, 32, 5⟩] []).urgent = none ∧ (wrote [⟨0x40100, 32, 5⟩] []).slaveReady = false ∧
    directKey 0x40100 32 = .ok (keyOf 0x40100, 4) ∧
    (∃ t, base.iopWrite true .virpt 5 = .ok t) ∧ (∃ t, base.iopWrite false .virpt 5 = .ok t) ∧ base.inService .virpti = false :=
  ⟨rfl, steady_of rfl rfl rfl rfl (by decide : base.seq.pc ≠ 0xFFFFFF), by decide, by decide, by decide, ok_of (by decide), ok_of (by decide),
    ok_of (by decide), ok_of (by decide), ok_of (by decide), ok_of (by decide), ok_of (by decide), ok_of (by decide), by decide, ok_of (by decide), ok_of (by decide),
    ok_of (by decide), by decide, rfl, rfl, ⟨_, rfl⟩, ⟨_, rfl⟩, rfl⟩

/-- Channel 10 in master mode at the external address `a`, with these control bits, count and queue. -/
def mastering (d a ec : W32) (q : List W64) : State :=
  { base with iop := { base.iop with
      dmac := base.iop.dmac.set 0 d
      chan := base.iop.chan.set 10 { base.iop.chan[10] with ei := a, em := 1, ec := ec, queue := q, active := true } } }

/-- What ExternalTransfer supposes of channel 10. -/
def masterCase (s : State) : Bool :=
  s.ehm 0 == 1 && s.pmode 0 == 0 && !s.iop.dmac[(0 : Fin 4)].getLsbD 5 && !s.iop.syscon.getLsbD 1 && !s.bootChannel 10 &&
    s.iop.chan[epChan 0].ei.extractLsb' 23 9 != 0 && (match s.extTransfer 0 with | .ok _ => true | _ => false)

/-- Receiving and sending two words, and one at an odd address, with one to come, or with one queued. -/
theorem witness_ExternalTransfer : [
    mastering 0x401 0x800000 2 [], mastering 0x401 0x800001 2 [], mastering 0x401 0x800000 1 [], mastering 0x401 0x800000 2 (.replicate 7 1),
    mastering 0x405 0x800000 2 [1, 2], mastering 0x405 0x800000 2 [1], mastering 0x405 0x800001 1 [1]].all masterCase = true := by
  decide

/-- 61_io_devices.md R694, R696: handshake transmission of 48-bit words without packing shows no packing stage after a grant. -/
theorem test_packStage :
    let s := mastering 0x425 0 3 [1, 2, 3, 4]
    let t := s.mapChan 10 fun h => { h with parts := [0] }
    s.packStage 0 = 0 ∧ t.packStage 0 = 0 ∧
      ({ t with iop := { t.iop with dmac := t.iop.dmac.set 0 0x4A1 } } : State).packStage 0 = 1 := by decide

/-- A machine that boots through link buffer 4. -/
def linkBooting : State := ({ State.reset with pins := { State.reset.pins with boot := .link } }).pinReset

/-- 70_reset_and_hazards.md R783, D59: LCTL1 written with zeros does not stop the boot channel. -/
theorem test_linkBoot : (match linkBooting.iopWrite false .lctl1 0 with
    | .ok t => t.iop.chan[8].active && t.linkGroup 4 == 0x13 && t.linkPort 4 == 4
    | .error _ => false) = true := by decide

/-- 60_exceptions.md R640, U33: TIMEN set with TCOUNT = 0 and with TCOUNT = 1. -/
theorem test_timerEnabled :
    let on := base.mapReg fun r => { r with mode2 := 0x20, tcount := 0 }
    base.timerEnabled on = true ∧ on.timerEnabled on = false ∧
      base.timerEnabled (on.mapReg fun r => { r with tcount := 1 }) = false := by decide

/-- DSP 4, which asks for nothing, with master `m` and the requests `br` of the others. -/
def arbiter (rpba : Bool) (m : BitVec 3) (br : BitVec 6) : State :=
  { base with pins := { base.pins with id := 4, rpba := rpba, brIn := br }, iop := { base.iop with crbm := m, bsyn := true } }

/-- 62_link_serial_multiproc.md R761, Table 7-13: ID3, then ID2, then ID6 before ID1; with fixed priority ID1 before ID6. -/
theorem test_arbitration : (arbiter true 1 0x04).busWinner = some 3 ∧ (arbiter true 3 0x02).busWinner = some 2 ∧
    (arbiter true 2 0x21).busWinner = some 6 ∧ (arbiter false 2 0x21).busWinner = some 1 := by decide

end Sys2Proof.Tests
end

section
/-!
PROOF. Scope: what happens outside the core between two core steps leaves the program's own state alone
(00_scope.md R16, 61_io_devices.md R722). Most events do only what `Outside` allows; the pins and the sample of the
interrupt pins go a little further, and every event ends with the hold of the latches.
-/
namespace Sys2Proof.Machine

/-- From `s` to `t` the program's own state is untouched: `Outside` without its clauses on the pins, memory and what the
next instruction's checks look at, and with the last sample of the interrupt pins left open. -/
structure LeavesCore (s t : State) : Prop where
  data : s.SameData t
  addresses : s.SameAddresses t
  inputs : t.inputs = s.inputs
  seq : t.seq = { s.seq with irqPrev := t.seq.irqPrev }
  reg : t.reg = { s.reg with
    irptl := t.reg.irptl, lirptl := t.reg.lirptl, tcount := t.reg.tcount, emuclk := t.reg.emuclk, emuclk2 := t.reg.emuclk2 }
  /-- the masks and the in-service bits of the link ports -/
  link : t.reg.lirptl &&& ~~~0x3F#32 = s.reg.lirptl &&& ~~~0x3F#32

variable {s t u : State}

/-! ### The parts of an event -/

theorem Outside.leavesCore (h : Outside s t) : LeavesCore s t where
  data := ⟨h.x, h.y⟩
  addresses := ⟨h.dag, h.dagAlt⟩
  inputs := h.inputs
  seq := by rw [h.seq]
  reg := h.reg
  link := h.ptr

theorem LeavesCore.trans (h : LeavesCore s t) (g : LeavesCore t u) : LeavesCore s u where
  data := ⟨g.data.1.trans h.data.1, g.data.2.trans h.data.2⟩
  addresses := ⟨g.addresses.1.trans h.addresses.1, g.addresses.2.trans h.addresses.2⟩
  inputs := g.inputs.trans h.inputs
  seq := by rw [g.seq, h.seq]
  reg := by rw [g.reg, h.reg]
  link := g.link.trans h.link

theorem leavesCore_pins (p : Pins) : LeavesCore s { s with pins := p } := ⟨⟨rfl, rfl⟩, ⟨rfl, rfl⟩, rfl, rfl, rfl, rfl⟩

theorem leavesCore_setBusPins (br : BitVec 6) (pa : Bool) : LeavesCore s (s.setBusPins br pa) := by
  unfold State.setBusPins
  exact (leavesCore_pins _).trans ((Outside.refl _).mapIop _).leavesCore

theorem sampleIrq_outside (n : Nat) (k : Irq) : Outside s (s.sampleIrq n k) :=
  Outside.ite ((Outside.refl s).occurIf _ k) ((Outside.refl s).occurIf _ k)

theorem leavesCore_samplePins : LeavesCore s s.samplePins := by
  have latched : Outside s (((s.sampleIrq 0 .irq0).sampleIrq 1 .irq1).sampleIrq 2 .irq2) :=
    ((sampleIrq_outside _ _).trans (sampleIrq_outside _ _)).trans (sampleIrq_outside _ _)
  have noted (t : State) (v : BitVec 3) : LeavesCore t (t.mapSeq fun q => { q with irqPrev := v }) :=
    ⟨⟨rfl, rfl⟩, ⟨rfl, rfl⟩, rfl, rfl, rfl, rfl⟩
  exact latched.leavesCore.trans (noted _ _)

/-- Clearing bits inside a mask leaves those outside it. -/
theorem and_not_and_not (a b m : W32) : a &&& ~~~(b &&& m) &&& ~~~m = a &&& ~~~m := by
  ext i hi
  cases hm : m[i] <;> simp [hm]

/-- The hold touches the latches only: all of IRPTL, and of LIRPTL the low six bits. -/
theorem SysRegs.hold_eq (r : SysRegs) : r.hold = { r with irptl := r.hold.irptl, lirptl := r.hold.lirptl } := by
  unfold SysRegs.hold
  split <;> rfl

theorem SysRegs.hold_lirptl_high (r : SysRegs) : r.hold.lirptl &&& ~~~0x3F#32 = r.lirptl &&& ~~~0x3F#32 := by
  unfold SysRegs.hold
  split
  · rfl
  · exact and_not_and_not _ _ _

theorem leavesCore_holdLatches : LeavesCore s s.holdLatches where
  data := ⟨rfl, rfl⟩
  addresses := ⟨rfl, rfl⟩
  inputs := rfl
  seq := rfl
  reg := by rw [State.holdLatches, State.mapReg_reg, SysRegs.hold_eq]
  link := SysRegs.hold_lirptl_high _

theorem leavesCore_afterEvent : LeavesCore s s.afterEvent := by
  have levels : Outside s (if s.seq.idle then s.levels s else s) := Outside.ite levels_outside (Outside.refl s)
  have held := levels.leavesCore.trans leavesCore_holdLatches
  exact { held with }

/-! ### Events -/

/-- What an event does, the core's own step and the reset pin apart, leaves the program's own state alone. -/
theorem apply_leavesCore {e : Event} (hc : e ≠ .core) (hr : e ≠ .resetPin) : Run.Sat (s.apply e) (LeavesCore s) := by
  have out {r : Run State} (h : Run.Sat r (Outside s)) : Run.Sat r (LeavesCore s) :=
    Run.sat_mono h fun _ => Outside.leavesCore
  cases e with
  | core => exact absurd rfl hc
  | resetPin => exact absurd rfl hr
  | tick => exact out (Run.sat_ok extraTick_outside)
  | setIrq low => exact Run.sat_ok (leavesCore_pins _)
  | samplePins => exact Run.sat_ok leavesCore_samplePins
  | setFlags levels => exact Run.sat_ok (leavesCore_pins _)
  | setLinkPins ack clk => exact Run.sat_ok (leavesCore_pins _)
  | setBusPins br pa => exact Run.sat_ok (leavesCore_setBusPins br pa)
  | iopStep slaveFirst => exact out (iopStep_outside _)
  | extTransfer n => exact out (extTransfer_outside _)
  | dmaRequest ch12 => exact out (dmaAsk_outside _)
  | dmaGrant ch12 data => exact out (dmaGrant_outside _ _)
  | extWriteIop sync addr v => exact out (extWriteIop_outside _ _ _)
  | extReadIop addr => exact out (extReadIop_outside _)
  | extWriteMem sync addr width v => exact out (extWriteMem_outside _ _ _ _)
  | latchDirect => exact out latchDirect_outside
  | extReadMem addr width => exact out (extReadMem_outside _ _)
  | hostPiece addr piece => exact out (hostPiece_outside _ _)
  | hostRead addr => exact out (hostRead_outside _)
  | epbWrite n wide piece => exact out (epbWrite_outside _ _ _)
  | epbRead n wide => exact out (epbRead_outside _ _)
  | linkTaken b => exact out (linkTaken_outside _)
  | linkArrived b word => exact out (linkArrived_outside _ _)
  | linkPartial b => exact out (linkPartial_outside _)
  | linkLoop t r => exact out (linkLoop_outside _ _)
  | sportSent x => exact out (sportSent_outside _)
  | sportReceived x word => exact out (sportReceived_outside _ _)
  | sportUnderflow x => exact out (sportUnderflow_outside _)
  | sportSlot x word => exact out (sportSlot_outside _ _)
  | synchronised m => exact out (synchronised_outside _)
  | busTo m => exact out (busTo_outside _)
  | bcntTick => exact out bcntTick_outside
  | dropRequest => exact out dropRequest_outside
  | hostAcquire => exact out hostAcquire_outside
  | hostRelease => exact out hostRelease_outside
  | setExtData a v => exact out (setExtData_outside _ _)
  | setExtCode a w => exact out (setExtCode_outside _ _)
  | setBoot a b => exact out (setBoot_outside _ _)

/-- An event goes on exactly where what it does answers. -/
theorem State.eventStep_eq_next {e : Event} : s.eventStep e = .next t ↔ ∃ u, s.apply e = .ok u ∧ t = u.afterEvent := by
  unfold State.eventStep
  rcases s.apply e with (_ | _ | _ | _) | _ <;> simp [eq_comm]

theorem eventStep_leavesCore {e : Event} (hc : e ≠ .core) (hr : e ≠ .resetPin) (h : s.eventStep e = .next t) :
    LeavesCore s t := by
  obtain ⟨u, hu, rfl⟩ := State.eventStep_eq_next.1 h
  exact (apply_leavesCore hc hr u hu).trans leavesCore_afterEvent

/-- With no reset pending and another event than a core step at the head of the queue, the step is that event. -/
theorem eventStep_of_step {e : Event} {rest : List Event} (hp : s.iop.resetPending = false) (hi : s.inputs = e :: rest)
    (hc : e ≠ .core) (h : step s = .next t) : { s with inputs := rest }.eventStep e = .next t := by
  rw [step, State.oneStep] at h
  split at h
  · cases h
  · simpa [hp, hi, hc] using h

/-- Settles O10: the step is the event at the head of the queue, and each event keeps to `LeavesCore`. -/
theorem eventsLeaveCore : Obligations.EventsLeaveCore := by
  intro s t e rest hp hi hc hr h
  obtain ⟨data, addresses, inputs, seq, reg, link⟩ := eventStep_leavesCore hc hr (eventStep_of_step hp hi hc h)
  exact ⟨data, addresses, inputs, seq, reg, link⟩

end Sys2Proof.Machine
end

section
/-!
PROOF. Every instruction, every event and every core step keeps the invariant `State.Wf`, and the
state after reset meets it.
-/
namespace Sys2Proof.Machine

variable {s t : State}

/-! ### Instructions -/

/-- A compute row is the Type 2 instruction that carries its compute operation (30_encoding.md R203). -/
theorem exec_of_compute {i : Instr} {k : Compute} (h : i.compute? = some k) : exec i s = runCompute k s := by
  cases i <;> cases h <;> rfl

/-- What begins the step, writes results and goes on keeps the invariant where the writing does. -/
theorem State.Wf.beginWriteAdvance (h : s.Wf) {write : State → Run State} (hw : ∀ v, v.Wf → Run.Sat (write v) State.Wf) :
    Run.Sat (do let t0 ← s.begin; let t ← write t0; s.advance t) State.Wf :=
  Run.sat_bind h.begin fun v hv => Run.sat_bind (hw v hv) fun _ ht => ht.advance

theorem execDualMove_keeps (h : s.Wf) (dw : Bool) (di dm : DagNum) (dr : Reg) (pw : Bool) (pi pm : DagNum) (pr : Reg)
    (k : Compute) : Keeps (execDualMove dw di dm dr pw pi pm pr k s) :=
  Keeps.outcome h (Run.sat_bind h.begin fun _ h0 => Run.sat_bind (h0.computePart _ _) fun _ hv =>
    Run.sat_bind (hv.dualAccess _ _ _ _ _ _ _ _) fun _ hw => hw.advance)

theorem execCondCompute_keeps (h : s.Wf) (c : Cond) (k : Compute) : Keeps (execCondCompute c k s) :=
  Keeps.outcome h (Run.sat_seq fun _ => h.beginWriteAdvance fun _ hv => hv.computePart _ _)

theorem execUregMove_keeps (h : s.Wf) (src : UReg) (c : Cond) (dst : UReg) (k : Compute) :
    Keeps (execUregMove src c dst k s) :=
  Keeps.outcome h (Run.sat_seq fun _ => Run.sat_seq fun _ => Run.sat_bind h.begin fun _ h0 =>
    Run.sat_bind (h0.computePart _ _) fun _ hv => Run.sat_bind (hv.uregMove _ _ _) fun _ hw => hw.advance)

theorem execSwap_keeps (h : s.Wf) (y : Reg) (c : Cond) (x : Reg) (k : Compute) : Keeps (execSwap y c x k s) :=
  Keeps.outcome h (Run.sat_seq fun _ => Run.sat_seq fun _ => Run.sat_bind h.begin fun _ h0 =>
    Run.sat_bind (h0.computePart _ _) fun _ hv => Run.sat_bind (hv.swapRegs _ _ _) fun _ hw => hw.advance)

theorem execShiftImmMem_keeps (h : s.Wf) (i m : DagNum) (c : Cond) (dag2 write : Bool) (ex : BitVec 4) (d : Reg)
    (op : ShImm) (data : BitVec 8) (rn rx : Reg) : Keeps (execShiftImmMem i m c dag2 write ex d op data rn rx s) :=
  Keeps.outcome h (Run.sat_seq fun _ => Run.sat_bind h.begin fun _ h0 =>
    Run.sat_bind (h0.shiftPart _ _ _ _ _ _) fun _ hv => Run.sat_bind (hv.move _ _ _) fun _ hw => hw.advance)

theorem execShiftImm_keeps (h : s.Wf) (c : Cond) (ex : BitVec 4) (op : ShImm) (data : BitVec 8) (rn rx : Reg) :
    Keeps (execShiftImm c ex op data rn rx s) :=
  Keeps.outcome h (Run.sat_seq fun _ => h.beginWriteAdvance fun _ hv => hv.shiftPart _ _ _ _ _ _)

theorem execModify_keeps (h : s.Wf) (dag2 : Bool) (c : Cond) (i m : DagNum) (k : Compute) :
    Keeps (execModify dag2 c i m k s) := by
  refine Keeps.outcome h (Run.sat_seq fun _ => Run.sat_bind h.begin fun _ h0 =>
    Run.sat_bind (h0.computePart _ _) fun v hv => Run.sat_seq fun _ => ?_)
  exact Run.sat_ite (fun _ => Run.sat_bind (hv.modifyByReg _ _ _) fun _ hw => hw.advance) fun _ => hv.advance

theorem execLoadImm_keeps (h : s.Wf) (u : UReg) (data : W32) : Keeps (execLoadImm u data s) :=
  Keeps.outcome h (h.beginWriteAdvance fun _ hv => hv.putImmediate _ _)

theorem execModifyImm_keeps (h : s.Wf) (dag2 : Bool) (i : DagNum) (data : W32) : Keeps (execModifyImm dag2 i data s) :=
  Keeps.outcome h (Run.sat_seq fun _ => h.beginWriteAdvance fun _ hv => hv.modifyIndex _ _ _)

theorem execBitrev_keeps (h : s.Wf) (dag2 : Bool) (i : DagNum) (data : W32) : Keeps (execBitrev dag2 i data s) :=
  Keeps.outcome h (Run.sat_seq fun _ => Run.sat_seq fun _ => Run.sat_seq fun _ => Run.sat_seq fun _ =>
    Run.sat_bind h.begin fun _ hv => (hv.setDagReg _ _ _).advance)

theorem execFlushCache_keeps (h : s.Wf) : Keeps (execFlushCache s) :=
  Keeps.outcome h (Run.sat_bind h.begin fun _ hv => (hv.flushIf _).advance)

theorem execNop_keeps (h : s.Wf) : Keeps (execNop s) := Keeps.outcome h (Run.sat_bind h.begin fun _ hv => hv.advance)

theorem execIdle_keeps (h : s.Wf) : Keeps (execIdle s) :=
  Keeps.outcome h (Run.sat_seq fun _ => Run.sat_bind h.begin fun _ hv => State.Wf.advance { hv with })

theorem execRframe_keeps (h : s.Wf) : Keeps (execRframe s) :=
  Keeps.outcome h (Run.sat_seq fun _ => Run.sat_seq fun _ => Run.sat_seq fun _ =>
    h.beginWriteAdvance fun _ hv => (hv.setDagReg _ _ _).move _ _ _)

theorem execRts_keeps (h : s.Wf) (c : Cond) (db els lr : Bool) (k : Compute) : Keeps (execRts c db els lr k s) :=
  withGate_keeps h _ _ _ _ fun _ ht => ht.returnIf _ _ _ fun _ _ hu => Run.sat_seq fun _ => Run.sat_ok hu

theorem execRti_keeps (h : s.Wf) (c : Cond) (db els : Bool) (k : Compute) : Keeps (execRti c db els k s) :=
  withGate_keeps h _ _ _ _ fun _ ht => ht.returnIf _ _ _ fun _ _ hu => hu.leave

theorem execJumpIndElse_keeps (h : s.Wf) (write : Bool) (dmI dmM : DagNum) (c : Cond) (i m : DagNum) (d : Reg)
    (k : Compute) : Keeps (execJumpIndElse write dmI dmM c i m d k s) :=
  jumpElse_keeps h _ _ _ _ (fun s => s.indTarget i m) _ _

theorem execJumpRelElse_keeps (h : s.Wf) (write : Bool) (dmI dmM : DagNum) (c : Cond) (rel : BitVec 6) (d : Reg)
    (k : Compute) : Keeps (execJumpRelElse write dmI dmM c rel d k s) :=
  jumpElse_keeps h _ _ _ _ (fun s => s.relTarget (rel.signExtend 24)) _ _

theorem execBitSet_keeps (h : s.Wf) (k : SReg) (data : W32) : Keeps (execBitSet k data s) := bitWrite_keeps h k (· ||| data)

theorem execBitClr_keeps (h : s.Wf) (k : SReg) (data : W32) : Keeps (execBitClr k data s) :=
  bitWrite_keeps h k (· &&& ~~~data)

theorem execBitTgl_keeps (h : s.Wf) (k : SReg) (data : W32) : Keeps (execBitTgl k data s) := bitWrite_keeps h k (· ^^^ data)

theorem execBitTst_keeps (h : s.Wf) (k : SReg) (data : W32) : Keeps (execBitTst k data s) :=
  bitTest_keeps h k fun v => v &&& data == data

theorem execBitXor_keeps (h : s.Wf) (k : SReg) (data : W32) : Keeps (execBitXor k data s) := bitTest_keeps h k (· == data)

theorem execCjumpAbs_keeps (h : s.Wf) (addr : W24) : Keeps (execCjumpAbs addr s) := cjump_keeps h (fun _ => addr)

theorem execCjumpRel_keeps (h : s.Wf) (rel : W24) : Keeps (execCjumpRel rel s) := cjump_keeps h (fun s => s.seq.pc + rel)

/-- Every instruction keeps the invariant. -/
theorem exec_keeps (h : s.Wf) (i : Instr) : Keeps (exec i s) := by
  have jump (c : Cond) (la db ci els : Bool) (k : Compute) (target : Run W24) :
      Keeps (withGate c els k s fun t => s.jumpIf t c la db ci target) :=
    withGate_keeps h _ _ _ _ fun _ ht => ht.jumpIf _ _ _ _ _
  have call (c : Cond) (db els : Bool) (k : Compute) (target : Run W24) :
      Keeps (withGate c els k s fun t => s.callIf t c db target) :=
    withGate_keeps h _ _ _ _ fun _ ht => ht.callIf _ _ _
  cases hk : i.compute? with
  | some k => exact exec_of_compute hk ▸ runCompute_keeps h k
  | none =>
    cases i with
    | dualMove => exact execDualMove_keeps h _ _ _ _ _ _ _ _ _
    | condCompute => exact execCondCompute_keeps h _ _
    | uregMem => exact runMove_keeps h _ _ _
    | dregMemImm => exact runMove_keeps h _ _ _
    | uregMove => exact execUregMove_keeps h _ _ _ _
    | swap => exact execSwap_keeps h _ _ _ _
    | shiftImmMem => exact execShiftImmMem_keeps h _ _ _ _ _ _ _ _ _ _ _
    | shiftImm => exact execShiftImm_keeps h _ _ _ _ _ _
    | modify => exact execModify_keeps h _ _ _ _ _
    | jumpAbs => exact jump _ _ _ _ _ _ _
    | jumpRel => exact jump _ _ _ _ _ _ _
    | callAbs => exact call _ _ _ _ _
    | callRel => exact call _ _ _ _ _
    | jumpInd => exact jump _ _ _ _ _ _ _
    | jumpRel6 => exact jump _ _ _ _ _ _ _
    | callInd => exact call _ _ _ _ _
    | callRel6 => exact call _ _ _ _ _
    | jumpIndElse => exact execJumpIndElse_keeps h _ _ _ _ _ _ _ _
    | jumpRelElse => exact execJumpRelElse_keeps h _ _ _ _ _ _ _
    | rts => exact execRts_keeps h _ _ _ _ _
    | rti => exact execRti_keeps h _ _ _ _
    | doImm => exact Keeps.outcome h (h.doUntil _ _ _)
    | doUreg => exact Keeps.outcome h (Run.sat_seq fun _ => h.doUntil _ _ _)
    | doUntil => exact Keeps.outcome h (h.doUntil _ _ _)
    | uregAbs => exact runAccess_keeps h _
    | uregPre => exact runAccess_keeps h _
    | storeImm => exact runAccess_keeps h _
    | loadImm => exact execLoadImm_keeps h _ _
    | bitSet => exact execBitSet_keeps h _ _
    | bitClr => exact execBitClr_keeps h _ _
    | bitTgl => exact execBitTgl_keeps h _ _
    | bitTst => exact execBitTst_keeps h _ _
    | bitXor => exact execBitXor_keeps h _ _
    | modifyImm => exact execModifyImm_keeps h _ _ _
    | bitrev => exact execBitrev_keeps h _ _ _
    | pushLoop => exact pushAll_keeps h _ _ _ _
    | popLoop => exact popAll_keeps h _ _ _ _
    | pushSts => exact pushAll_keeps h _ _ _ _
    | popSts => exact popAll_keeps h _ _ _ _
    | pushPc => exact pushAll_keeps h _ _ _ _
    | popPc => exact popAll_keeps h _ _ _ _
    | flushCache => exact execFlushCache_keeps h
    | nop => exact execNop_keeps h
    | idle => exact execIdle_keeps h
    | cjumpAbs => exact execCjumpAbs_keeps h _
    | cjumpRel => exact execCjumpRel_keeps h _
    | rframe => exact execRframe_keeps h
    | _ => cases hk

/-! ### Core steps -/

theorem State.Wf.awaitBus (h : s.Wf) : s.awaitBus.Wf := h.recent _

theorem afterExec_keeps {o : Host.Outcome State Fault Refusal} (ho : Keeps o) : Keeps (s.afterExec o) := by
  intro t ht
  cases o with
  | next u =>
    have hu : u.Wf := ho u rfl
    simp only [State.afterExec] at ht
    split at ht <;> cases ht
    · exact hu.wait
    · exact hu.noteFetch.finish
  | fault => cases ht
  | refused => cases ht

theorem runInstr_keeps (h : s.Wf) : Keeps s.runInstr := by
  unfold State.runInstr
  split
  · rintro t ⟨⟩
  · rintro t ⟨⟩
  · rintro t ⟨⟩; exact h.wait
  · rintro t ⟨⟩; exact h.awaitBus.wait
  · split
    · exact afterExec_keeps (exec_keeps h _)
    · rintro t ⟨⟩

theorem coreStep_keeps (h : s.Wf) : Keeps s.coreStep := by
  unfold State.coreStep
  split
  · split
    · rintro t ⟨⟩
    · split
      · rintro t ⟨⟩
      · rintro t ⟨⟩; exact (h.pause.enter _ _).finish
  · split
    · rintro t ⟨⟩; exact h.idleStep.finish
    · exact runInstr_keeps h

/-! ### Events -/

/-- Every event keeps the invariant: the reset pin makes it anew, the pins are no part of it, and the others stay outside
the core. -/
theorem apply_wf (h : s.Wf) (e : Event) : Run.Sat (s.apply e) State.Wf := by
  have out {r : Run State} (hr : Run.Sat r (Outside s)) : Run.Sat r State.Wf := Run.sat_mono hr fun _ => h.outside
  have pins (p : Pins) : State.Wf { s with pins := p } := h.of_eq rfl rfl rfl rfl
  cases e with
  | core => exact Run.sat_ok h
  | resetPin => exact Run.sat_ok (State.Wf.resetWith h.mem _)
  | tick => exact out (Run.sat_ok extraTick_outside)
  | setIrq low => exact Run.sat_ok (pins _)
  | samplePins => exact Run.sat_ok h.samplePins
  | setFlags levels => exact Run.sat_ok (pins _)
  | setLinkPins ack clk => exact Run.sat_ok (pins _)
  | setBusPins br pa => exact Run.sat_ok (h.setBusPins br pa)
  | iopStep slaveFirst => exact out (iopStep_outside _)
  | extTransfer n => exact out (extTransfer_outside _)
  | dmaRequest ch12 => exact out (dmaAsk_outside _)
  | dmaGrant ch12 data => exact out (dmaGrant_outside _ _)
  | extWriteIop sync addr v => exact out (extWriteIop_outside _ _ _)
  | extReadIop addr => exact out (extReadIop_outside _)
  | extWriteMem sync addr width v => exact out (extWriteMem_outside _ _ _ _)
  | latchDirect => exact out latchDirect_outside
  | extReadMem addr width => exact out (extReadMem_outside _ _)
  | hostPiece addr piece => exact out (hostPiece_outside _ _)
  | hostRead addr => exact out (hostRead_outside _)
  | epbWrite n wide piece => exact out (epbWrite_outside _ _ _)
  | epbRead n wide => exact out (epbRead_outside _ _)
  | linkTaken b => exact out (linkTaken_outside _)
  | linkArrived b word => exact out (linkArrived_outside _ _)
  | linkPartial b => exact out (linkPartial_outside _)
  | linkLoop t r => exact out (linkLoop_outside _ _)
  | sportSent x => exact out (sportSent_outside _)
  | sportReceived x word => exact out (sportReceived_outside _ _)
  | sportUnderflow x => exact out (sportUnderflow_outside _)
  | sportSlot x word => exact out (sportSlot_outside _ _)
  | synchronised m => exact out (synchronised_outside _)
  | busTo m => exact out (busTo_outside _)
  | bcntTick => exact out bcntTick_outside
  | dropRequest => exact out dropRequest_outside
  | hostAcquire => exact out hostAcquire_outside
  | hostRelease => exact out hostRelease_outside
  | setExtData a v => exact out (setExtData_outside _ _)
  | setExtCode a w => exact out (setExtCode_outside _ _)
  | setBoot a b => exact out (setBoot_outside _ _)

theorem eventStep_keeps (h : s.Wf) (e : Event) : Keeps (s.eventStep e) := by
  intro t ht
  obtain ⟨u, hu, rfl⟩ := State.eventStep_eq_next.1 ht
  exact (apply_wf h e u hu).afterEvent

/-! ### Steps -/

theorem oneStep_keeps (h : s.Wf) : Keeps s.oneStep := by
  unfold State.oneStep
  split
  · rintro t ⟨⟩
  · split
    · rintro t ⟨⟩; exact State.Wf.resetWith h.mem _
    · split
      · exact coreStep_keeps h
      · exact coreStep_keeps (h.inputs _)
      · exact eventStep_keeps (h.inputs _) _

/-- Settles O7: a step is a reset, an event or a core step, and each keeps the invariant. -/
theorem stepKeepsWf : Obligations.StepKeepsWf := fun _ t h ht => oneStep_keeps h t ht

/-! ### The state after reset -/

/-- What the pin leaves of a reset state is that state, so the reset state meets the invariant. -/
theorem State.reset_wf : State.reset.Wf := by
  have h : State.reset = State.reset.resetWith State.reset.iop := rfl
  exact h ▸ State.Wf.resetWith rfl _

/-- No latch bit is set after reset. -/
theorem State.reset_latchesHeld : State.reset.LatchesHeld := fun _ => ⟨rfl, rfl⟩

/-- Settles O8. -/
theorem resetInvariants : Obligations.ResetInvariants := ⟨State.reset_wf, State.reset_latchesHeld⟩

/-- Settles O11: the values stand in the definition of the reset state. -/
theorem resetValues : Obligations.ResetValues := by
  refine ⟨rfl, rfl, rfl, rfl, rfl, rfl, ?_, rfl, rfl, ?_⟩
  · exact fun i => by simp [State.reset, Sequencer.atReset]
  · decide

end Sys2Proof.Machine
end

section
/-!
PROOF. What a register reads after a program write of the same and of another register, for the
registers that hold just what is written; and the writes that stop.
-/
namespace Sys2Proof.Machine

variable {s t : State}

/-! ### Data registers and address registers -/

theorem ProcElem.reg_setReg (p : ProcElem) (m : W32) (n k : Reg) (v : W40) :
    (p.setReg m n v).reg m k = if k = n then v else p.reg m k := by
  unfold ProcElem.setReg ProcElem.reg
  by_cases hk : k = n
  · subst hk
    cases regSelect m k <;> simp
  · have hne : n.toNat ≠ k.toNat := fun h => hk (BitVec.eq_of_toNat_eq h.symm)
    cases regSelect m n <;> simp [hk, Vector.getElem_set_ne _ _ hne]

@[simp] theorem State.pe_setPe (y z : Bool) (p : ProcElem) : (s.setPe y p).pe z = if z = y then p else s.pe z := by
  cases y <;> cases z <;> rfl

theorem State.dreg_setDreg (y z : Bool) (n k : Reg) (v : W40) :
    (s.setDreg y n v).dreg z k = if z = y ∧ k = n then v else s.dreg z k := by
  unfold State.dreg State.setDreg
  by_cases hz : z = y
  · subst hz
    simp [ProcElem.reg_setReg]
  · simp [hz]

@[simp] theorem State.dreg_setDagReg (y : Bool) (n m : Reg) (k : DagKind) (v : W32) :
    (s.setDagReg k m v).dreg y n = s.dreg y n := by
  simp [State.dreg, State.pe]

@[simp] theorem State.dagReg_setDreg (y : Bool) (n m : Reg) (k : DagKind) (v : W40) :
    (s.setDreg y n v).dagReg k m = s.dagReg k m := by
  simp [State.dagReg]

theorem DagSet.kind_put (d : DagSet) (k j : DagKind) (n m : Reg) (v : W32) :
    ((d.put k n v).kind j)[m.toNat]'m.isLt =
      if m = n ∧ (j = k ∨ k = .b ∧ j = .i) then v else (d.kind j)[m.toNat]'m.isLt := by
  by_cases hm : m = n
  · subst hm
    cases k <;> cases j <;> simp [DagSet.put, DagSet.kind]
  · have hne : n.toNat ≠ m.toNat := fun h => hm (BitVec.eq_of_toNat_eq h.symm)
    cases k <;> cases j <;> simp [DagSet.put, DagSet.kind, hm, Vector.getElem_set_ne _ _ hne]

/-- A write of Bn reaches In too (20_memory.md R175). -/
theorem State.dagReg_setDagReg (k j : DagKind) (n m : Reg) (v : W32) :
    (s.setDagReg k n v).dagReg j m = if m = n ∧ (j = k ∨ k = .b ∧ j = .i) then v else s.dagReg j m := by
  unfold State.dagReg State.setDagReg
  by_cases h : m = n
  · subst h
    cases hm : dagSelect s.reg.mode1 m <;> simp [hm, DagSet.kind_put]
  · cases hn : dagSelect s.reg.mode1 n <;> cases hm : dagSelect s.reg.mode1 m <;>
      simp [hm, h, DagSet.kind_put]

end Sys2Proof.Machine

namespace Sys2Proof

/-! ### Where a plain register stands -/

/-- The data register of PEy when `y`, else of PEx. -/
def UReg.ofDreg (y : Bool) (n : Reg) : UReg := if y then .s n else .r n

/-- The address register of a kind. -/
def UReg.ofDag : DagKind → Reg → UReg
  | .i, n => .i n
  | .m, n => .m n
  | .l, n => .l n
  | .b, n => .b n

/-- The plain registers that stand in `SysRegs`. -/
def UReg.isWord (o : UReg) : Bool := o.plain && o.dreg?.isNone && o.dag?.isNone

/-- A plain register is a data register, an address register or a word of the system registers. -/
theorem UReg.plain_view {o : UReg} (h : o.plain = true) :
    (∃ y n, o = UReg.ofDreg y n) ∨ (∃ k n, o = UReg.ofDag k n) ∨ o.isWord = true := by
  cases o with
  | r n => exact .inl ⟨false, n, rfl⟩
  | s n => exact .inl ⟨true, n, rfl⟩
  | i n => exact .inr (.inl ⟨.i, n, rfl⟩)
  | m n => exact .inr (.inl ⟨.m, n, rfl⟩)
  | l n => exact .inr (.inl ⟨.l, n, rfl⟩)
  | b n => exact .inr (.inl ⟨.b, n, rfl⟩)
  | _ => exact .inr (.inr (by simp [UReg.isWord, h, UReg.dreg?, UReg.dag?]))

theorem UReg.ofDag_inj {k j : DagKind} {n m : Reg} : UReg.ofDag k n = UReg.ofDag j m ↔ k = j ∧ n = m := by
  cases k <;> cases j <;> simp [UReg.ofDag]

end Sys2Proof

namespace Sys2Proof.Machine

variable {s t : State}

/-! ### Plain registers read and written -/

/-- The content of a plain register among the system registers. -/
def SysRegs.word (g : SysRegs) : UReg → W32
  | .px1 => g.px.setWidth 32
  | .px2 => g.px.extractLsb' 32 32
  | .tperiod => g.tperiod
  | .tcount => g.tcount
  | .sys .ustat1 => g.ustat1
  | .sys .ustat2 => g.ustat2
  | .sys .ustat3 => g.ustat3
  | .sys .ustat4 => g.ustat4
  | .sys .mmask => g.mmask
  | _ => 0

/-- The system registers with a plain one among them at `v`. -/
def SysRegs.putWord (g : SysRegs) (v : W32) : UReg → SysRegs
  | .px1 => { g with px := g.px.extractLsb' 32 32 ++ v }
  | .px2 => { g with px := v ++ g.px.extractLsb' 0 32 }
  | .tperiod => { g with tperiod := v }
  | .tcount => { g with tcount := v }
  | .sys .ustat1 => { g with ustat1 := v }
  | .sys .ustat2 => { g with ustat2 := v }
  | .sys .ustat3 => { g with ustat3 := v }
  | .sys .ustat4 => { g with ustat4 := v }
  | .sys .mmask => { g with mmask := v }
  | _ => g

@[simp] theorem State.read32_ofDreg (y : Bool) (n : Reg) :
    s.read32 (UReg.ofDreg y n) = (s.dreg y n).extractLsb' 8 32 := by
  cases y <;> rfl

@[simp] theorem State.read32_ofDag (k : DagKind) (n : Reg) : s.read32 (UReg.ofDag k n) = s.dagReg k n := by
  cases k <;> rfl

theorem State.read32_word {o : UReg} (h : o.isWord = true) : s.read32 o = s.reg.word o := by
  cases o with
  | sys k => cases k <;> first | rfl | cases h
  | _ => first | rfl | cases h

@[simp] theorem SysRegs.putWord_mode1 (g : SysRegs) (v : W32) (r : UReg) : (g.putWord v r).mode1 = g.mode1 := by
  unfold SysRegs.putWord
  split <;> rfl

/-- A word put reads back, and no other word changes. -/
theorem SysRegs.word_putWord (g : SysRegs) (v : W32) {r o : UReg} (hr : r.isWord = true) :
    (g.putWord v r).word o = if o = r then v else g.word o := by
  have low (a v : W32) : (a ++ v).setWidth 32 = v := BitVec.setWidth_append_eq_right
  have high (a v : W32) : (a ++ v).extractLsb' 32 32 = a := BitVec.extractLsb'_append_eq_left
  have lowHalf : g.px.extractLsb' 0 32 = g.px.setWidth 32 := by ext i hi; simp
  unfold SysRegs.putWord
  split
  case h_10 => cases r <;> simp_all [UReg.isWord, UReg.plain, UReg.dreg?, UReg.dag?]
  all_goals
    unfold SysRegs.word
    split <;> simp_all

/-! ### A write of a plain register -/

/-- What a write of `v` to register `r` leaves: it reads back, and no other plain register changes, but In with Bn. -/
structure Wrote (s : State) (r : UReg) (v : W32) (t : State) : Prop where
  reads : t.read32 r = v
  others : ∀ o : UReg, o.plain = true → o ≠ r → (∀ n, r = .b n → o ≠ .i n) → t.read32 o = s.read32 o
  index : ∀ n, r = .b n → t.read32 (.i n) = v
  mem : t.mem = s.mem
  seq : t.seq = s.seq

/-- A data register keeps a 32-bit value on its bits 39 to 8. -/
theorem dreg_word (v : W32) : (v ++ 0#8).extractLsb' 8 32 = v := BitVec.extractLsb'_append_eq_left

theorem wrote_dreg (y : Bool) (n : Reg) (v : W32) : Wrote s (UReg.ofDreg y n) v (s.setDreg y n (v ++ 0#8)) where
  reads := by simp [State.dreg_setDreg, dreg_word]
  others o ho hne _ := by
    rcases UReg.plain_view ho with ⟨z, k, rfl⟩ | ⟨j, m, rfl⟩ | hw
    · have : ¬ (z = y ∧ k = n) := by rintro ⟨rfl, rfl⟩; exact hne rfl
      simp [State.dreg_setDreg, this]
    · simp
    · simp [State.read32_word hw]
  index m h := by cases y <;> cases h
  mem := State.setDreg_mem ..
  seq := State.setDreg_seq ..

theorem wrote_dag (k : DagKind) (n : Reg) (v : W32) : Wrote s (UReg.ofDag k n) v (s.setDagReg k n v) where
  reads := by simp [State.dagReg_setDagReg]
  others o ho hne hb := by
    rcases UReg.plain_view ho with ⟨z, m, rfl⟩ | ⟨j, m, rfl⟩ | hw
    · simp
    · have : ¬ (m = n ∧ (j = k ∨ k = .b ∧ j = .i)) := by
        rintro ⟨rfl, rfl | ⟨rfl, rfl⟩⟩
        · exact hne rfl
        · exact hb m rfl rfl
      simp [State.dagReg_setDagReg, this]
    · simp [State.read32_word hw]
  index m h := by
    obtain ⟨rfl, rfl⟩ := UReg.ofDag_inj (j := .b).1 h
    simp [State.read32, State.dagReg_setDagReg]
  mem := State.setDagReg_mem ..
  seq := State.setDagReg_seq ..

theorem wrote_word {r : UReg} (hr : r.isWord = true) (v : W32) (c : Changed) (q : Recent) :
    Wrote s r v { s with reg := s.reg.putWord v r, changed := c, recent := q } where
  reads := by simp [State.read32_word hr, SysRegs.word_putWord _ _ hr]
  others o ho hne _ := by
    rcases UReg.plain_view ho with ⟨z, m, rfl⟩ | ⟨j, m, rfl⟩ | hw
    · simp [State.dreg, State.pe]
    · simp [State.dagReg]
    · simp [State.read32_word hw, SysRegs.word_putWord _ _ hr, hne]
  index n h := by subst h; cases hr
  mem := rfl
  seq := rfl

theorem State.write32_ofDreg (y : Bool) (n : Reg) (v : W32) :
    s.write32 (UReg.ofDreg y n) v = .ok (s.setDreg y n (v ++ 0#8)) := by
  cases y <;> rfl

theorem State.write32_ofDag (k : DagKind) (n : Reg) (v : W32) :
    s.write32 (UReg.ofDag k n) v = .ok (s.setDagReg k n v) := by
  cases k <;> rfl

/-- A write of a plain system register changes it and the notes for the next instruction only. -/
theorem State.write32_word {r : UReg} (hr : r.isWord = true) (v : W32) :
    ∃ c q, s.write32 r v = .ok { s with reg := s.reg.putWord v r, changed := c, recent := q } := by
  cases r with
  | sys k => cases k <;> first | exact ⟨_, _, rfl⟩ | cases hr
  | _ => first | exact ⟨_, _, rfl⟩ | cases hr

/-- A program can write every plain register. -/
theorem State.write32_plain {r : UReg} (hr : r.plain = true) (v : W32) : ∃ t, s.write32 r v = .ok t ∧ Wrote s r v t := by
  rcases UReg.plain_view hr with ⟨y, n, rfl⟩ | ⟨k, n, rfl⟩ | hw
  · exact ⟨_, State.write32_ofDreg y n v, wrote_dreg y n v⟩
  · exact ⟨_, State.write32_ofDag k n v, wrote_dag k n v⟩
  · obtain ⟨c, q, h⟩ := State.write32_word (s := s) hw v
    exact ⟨_, h, wrote_word hw v c q⟩

/-! ### Writes that may stop -/

/-- A write that checks the reserved bits goes on exactly where they are 0. -/
theorem noReserved_bind (v m : W32) (f : Unit → Run State) :
    (noReserved v m >>= f) = if v &&& m = 0 then f () else .error (.fault .reservedBitWrite) := by
  unfold noReserved need
  simp only [beq_iff_eq]
  split <;> rfl

/-- A write of IMASKP goes on exactly where it changes nothing. -/
theorem State.writeSys_imaskp (v : W32) :
    s.writeSys .imaskp v = if v = s.reg.imaskp then .ok s else .error (.fault .maskPointerWrite) := by
  by_cases h : v = s.reg.imaskp <;> simp [State.writeSys, need, h]

/-- Settles O37: a plain register is a data register, an address register or a word of the system registers; each is
written alone. -/
theorem registerWrites : Obligations.RegisterWrites := by
  refine ⟨fun s r v hr => ?_, fun s v => ⟨?_, ?_, ?_, s.writeSys_imaskp v⟩⟩
  · obtain ⟨t, ht, w⟩ := s.write32_plain hr v
    exact ⟨t, ht, w.reads, w.others, w.index, w.mem, w.seq⟩
  · exact noReserved_bind _ _ _
  · exact noReserved_bind _ _ _
  · exact noReserved_bind _ _ _

end Sys2Proof.Machine
end

section
/-!
PROOF. The registers of the I/O processor that hold just what is written: what each reads after a write of
the same and of another register, and after a write of SYSCON.
-/
namespace Sys2Proof.Machine

variable {s t : State}

/-! ### Words with some bits kept -/

/-- The low `k` bits of a word. -/
theorem setWidth_setWidth_eq_and (v : W32) (k : Nat) :
    (v.setWidth k).setWidth 32 = v &&& BitVec.ofNat 32 (2 ^ k - 1) := by
  refine BitVec.eq_of_getLsbD_eq fun i hi => ?_
  rw [BitVec.getLsbD_setWidth, BitVec.getLsbD_setWidth, BitVec.getLsbD_and, BitVec.getLsbD_ofNat,
    Nat.testBit_two_pow_sub_one]
  cases v.getLsbD i <;> simp [hi]

theorem and_full (v : W32) : v &&& 0xFFFFFFFF#32 = v := BitVec.and_allOnes

/-- A word without bits of a mask is its bits outside the mask. -/
theorem and_not_of_and_eq_zero {v m : W32} (h : v &&& m = 0) : v &&& ~~~m = v := by
  ext i hi
  have hb : (v[i] && m[i]) = false := by simpa [hi] using congrArg (fun x : W32 => x.getLsbD i) h
  cases hv : v[i] <;> simp_all

/-! ### The registers -/

/-- A register of a serial port that holds what is written. -/
def Sport.kept (p : Sport) : SpReg → W32
  | .tdiv => p.tdiv
  | .tcnt => p.tcnt
  | .rdiv => p.rdiv
  | .rcnt => p.rcnt
  | .mtcs => p.mtcs
  | .mrcs => p.mrcs
  | .mtccs => p.mtccs
  | .mrccs => p.mrccs
  | .keywd => p.keywd
  | .keymask => p.keymask
  | _ => 0

/-- The content of a register of the I/O processor that holds what is written. -/
def Iop.kept (i : Iop) : IopReg → W32
  | .virpt => i.virpt
  | .wait => i.wait
  | .msgr n => i.msgr[n]
  | .bmax => i.bmax.setWidth 32
  | .bcnt => i.bcnt.setWidth 32
  | .elast => i.elast
  | .param c p => i.chan[c].param p
  | .sp x q => i.sport[x].kept q
  | _ => 0

theorem State.iopValue_of_keeps {o : IopReg} {m : W32} (h : o.keeps = some m) : s.iopValue o = s.iop.kept o := by
  cases o with
  | sp x q => cases q <;> first | rfl | cases h
  | _ => first | rfl | cases h

/-- From `i` to `j` register `r` is written with `w`, and no other register that holds what is written changes. -/
structure KeptWrite (i : Iop) (r : IopReg) (w : W32) (j : Iop) : Prop where
  reads : j.kept r = w
  others : ∀ o, o ≠ r → j.kept o = i.kept o

theorem keptWrite_msgr (i : Iop) (n : Fin 8) (v : W32) : KeptWrite i (.msgr n) v { i with msgr := i.msgr.set n v } where
  reads := by simp [Iop.kept]
  others o h := by
    cases o with
    | msgr m =>
      have : n.val ≠ m.val := fun e => h (by rw [Fin.ext e])
      simp [Iop.kept, Vector.getElem_set_ne _ _ this]
    | _ => rfl

/-- Of a channel only the register written changes. -/
theorem keptWrite_param (i : Iop) (c : Fin 14) (p : Param) (w : W32) (h : Channel) (hp : h.param p = w)
    (hq : ∀ q, q ≠ p → h.param q = i.chan[c].param q) :
    KeptWrite i (.param c p) w { i with chan := i.chan.set c h } where
  reads := by simp [Iop.kept, hp]
  others o ho := by
    cases o with
    | param d q =>
      by_cases hd : d = c
      · subst hd
        simpa [Iop.kept] using hq q fun e => ho (by rw [e])
      · have : c.val ≠ d.val := fun e => hd (Fin.ext e.symm)
        simp [Iop.kept, Vector.getElem_set_ne _ _ this]
    | _ => rfl

theorem keptWrite_sport (i : Iop) (x : Fin 2) (q : SpReg) (v : W32) (p : Sport) (hp : p.kept q = v)
    (hq : ∀ k, k ≠ q → p.kept k = i.sport[x].kept k) :
    KeptWrite i (.sp x q) v { i with sport := i.sport.set x p } where
  reads := by simp [Iop.kept, hp]
  others o ho := by
    cases o with
    | sp y k =>
      by_cases hy : y = x
      · subst hy
        simpa [Iop.kept] using hq k fun e => ho (by rw [e])
      · have : x.val ≠ y.val := fun e => hy (Fin.ext e.symm)
        simp [Iop.kept, Vector.getElem_set_ne _ _ this]
    | _ => rfl

/-! ### Parameter registers -/

theorem Channel.param_setParam_ne (h : Channel) {p q : Param} (hq : q ≠ p) (v : W32) :
    (h.setParam p v).param q = h.param q := by
  cases p <;> cases q <;> first | rfl | exact absurd rfl hq

/-- A parameter register keeps the bits it has (61_io_devices.md R682). -/
theorem Channel.param_setParam (h : Channel) {c : Fin 14} {p : Param} {m : W32} (hm : (IopReg.param c p).keeps = some m)
    (v : W32) : (h.setParam p v).param p = v &&& m := by
  cases p <;> cases hm <;> first | exact setWidth_setWidth_eq_and _ _ | exact (and_full v).symm

/-- What a write of a parameter register leaves of the channel. -/
theorem State.writeParam_eq_ok {c : Fin 14} {p : Param} {m v : W32} (hm : (IopReg.param c p).keeps = some m)
    (h : s.writeParam c p v = .ok t) : ∃ g : Channel,
      t = s.mapChan c (fun _ => g) ∧ ∀ q, g.param q = (s.iop.chan[c].setParam p v).param q := by
  obtain ⟨-, -, he⟩ := Run.bind_eq_ok.1 h
  cases he
  refine ⟨_, rfl, fun q => ?_⟩
  split
  · cases p <;> cases hm <;> rfl
  · cases p <;> cases hm <;> rfl

/-! ### Writes -/

/-- What a write of a register that holds what is written can do: nothing but the I/O processor, the latches and the notes
for the next instruction changes, and no other such register. -/
structure KeepsWrite (s : State) (r : IopReg) (w : W32) (t : State) : Prop where
  rest : ∃ g q, t = { s with iop := t.iop, reg := g, recent := q }
  kept : KeptWrite s.iop r w t.iop

theorem keepsWrite_iop {r : IopReg} {w : W32} {i : Iop} (q : Recent) (h : KeptWrite s.iop r w i) :
    KeepsWrite s r w { s with iop := i, recent := q } := ⟨⟨_, _, rfl⟩, h⟩

theorem writeVirpt_keepsWrite (core : Bool) (v : W32) : KeepsWrite s .virpt v (s.writeVirpt core v) := by
  have kept (j : Iop) (hj : j = { s.iop with virpt := v, vipd := j.vipd }) : KeptWrite s.iop .virpt v j := by
    rw [hj]
    exact ⟨rfl, fun o ho => by cases o <;> first | rfl | exact absurd rfl ho⟩
  unfold State.writeVirpt
  dsimp only
  split
  · exact ⟨⟨_, _, rfl⟩, kept _ rfl⟩
  · exact ⟨⟨_, _, rfl⟩, kept _ rfl⟩

theorem noReserved_eq_ok {v m : W32} {u : Unit} : noReserved v m = .ok u ↔ v &&& m = 0 := by
  simp [noReserved, need_eq_ok]

theorem writeSp_keepsWrite {x : Fin 2} {q : SpReg} {v m : W32} (hm : (IopReg.sp x q).keeps = some m)
    (h : s.writeSp x q v = .ok t) : KeepsWrite s (.sp x q) (v &&& m) t := by
  have set (p : Sport) (hp : p.kept q = v) (hq : ∀ k, k ≠ q → p.kept k = s.iop.sport[x].kept k) :
      KeepsWrite s (.sp x q) (v &&& 0xFFFFFFFF#32) (s.mapSport x fun _ => p) :=
    (and_full v).symm ▸ keepsWrite_iop _ (keptWrite_sport _ _ _ _ _ hp hq)
  cases q <;> cases hm <;> cases h <;> exact set _ rfl fun k hk => by cases k <;> first | rfl | exact absurd rfl hk

theorem iopWrite_keepsWrite {core : Bool} {r : IopReg} {v m : W32} (hm : r.keeps = some m)
    (h : s.iopWrite core r v = .ok t) : KeepsWrite s r (v &&& m) t := by
  cases r with
  | virpt => cases hm; cases h; exact (and_full v).symm ▸ writeVirpt_keepsWrite core v
  | wait =>
    cases hm
    obtain ⟨_, hv, he⟩ := Run.bind_eq_ok.1 h
    have hv : v &&& 0x4FFFFFFF#32 = v := and_not_of_and_eq_zero (noReserved_eq_ok.1 hv)
    have : KeptWrite s.iop .wait (v &&& 0x4FFFFFFF#32) { s.iop with wait := v } :=
      ⟨hv.symm, fun o ho => by cases o <;> first | rfl | exact absurd rfl ho⟩
    cases core <;> cases he <;> exact keepsWrite_iop _ this
  | msgr n => cases hm; cases h; exact (and_full v).symm ▸ keepsWrite_iop _ (keptWrite_msgr _ n v)
  | bmax =>
    cases hm
    obtain ⟨-, -, he⟩ := Run.bind_eq_ok.1 h
    obtain ⟨-, -, he⟩ := Run.bind_eq_ok.1 he
    cases he
    exact keepsWrite_iop _ ⟨setWidth_setWidth_eq_and v 16, fun o ho => by cases o <;> first | rfl | exact absurd rfl ho⟩
  | bcnt =>
    cases hm
    obtain ⟨-, -, he⟩ := Run.bind_eq_ok.1 h
    cases he
    exact keepsWrite_iop _ ⟨setWidth_setWidth_eq_and v 16, fun o ho => by cases o <;> first | rfl | exact absurd rfl ho⟩
  | elast =>
    cases hm; cases h
    exact keepsWrite_iop _ ⟨(and_full v).symm, fun o ho => by cases o <;> first | rfl | exact absurd rfl ho⟩
  | param c p =>
    obtain ⟨g, rfl, hg⟩ := State.writeParam_eq_ok hm h
    refine keepsWrite_iop _ (keptWrite_param _ _ _ _ _ ?_ fun q hq => ?_)
    · rw [hg, Channel.param_setParam _ hm]
    · rw [hg, Channel.param_setParam_ne _ hq]
  | sp x q => exact writeSp_keepsWrite hm h
  | _ => cases hm

/-- A write of SYSCON leaves the registers that hold what is written. -/
theorem writeSyscon_kept {core : Bool} {v : W32} (h : s.iopWrite core .syscon v = .ok t) :
    t.iop.syscon = v &&& 0x007FFEF6 ∧ (v.getLsbD 0 = true → t.iop.resetPending = true) ∧
      ∀ o, t.iop.kept o = s.iop.kept o := by
  obtain ⟨-, -, he⟩ := Run.bind_eq_ok.1 h
  have chan (c : Fin 14) (p : Param) :
      ((if v.getLsbD 8 then s.iop.chan.map fun h => { h with requests := 0 } else s.iop.chan)[c]).param p =
        s.iop.chan[c].param p := by
    split
    · simp only [Fin.getElem_fin, Vector.getElem_map]; cases p <;> rfl
    · rfl
  have iop : t.iop = { s.iop with
      syscon := v &&& 0x007FFEF6
      resetPending := s.iop.resetPending || v.getLsbD 0
      hostParts := if v.getLsbD 8 then [] else s.iop.hostParts
      chan := if v.getLsbD 8 then s.iop.chan.map fun h => { h with requests := 0 } else s.iop.chan } := by
    cases core <;> cases he <;> rfl
  rw [iop]
  refine ⟨rfl, fun hv => by simp [hv], fun o => ?_⟩
  cases o with
  | param c p => exact chan c p
  | _ => rfl

end Sys2Proof.Machine
end

section
/-!
PROOF. What the core reads and writes in the I/O processor does not depend on the instruction cache, and
leaves it alone. One equation per operation.
-/
namespace Sys2Proof.Machine

/-- The state with the instruction cache, and the word of the fetch stage that came from it, replaced. -/
def State.withCache (s : State) (c : Vector (List CacheEntry) 16) (f : Option W48) : State :=
  s.mapSeq fun q => { q with cache := c, cachedFaddr := f }

/-- A computation with the cache of its answer replaced. -/
def Run.withCache (r : Run State) (c : Vector (List CacheEntry) 16) (f : Option W48) : Run State :=
  r >>= fun t => .ok (t.withCache c f)

section
variable {α : Type} (s : State) (m : Vector (List CacheEntry) 16) (f : Option W48)

theorem Run.bind_withCache (r : Run α) (g : α → Run State) :
    Run.withCache (r >>= g) m f = r >>= fun a => Run.withCache (g a) m f := by
  cases r <;> rfl

theorem Run.withCache_bind (r : Run State) (g : State → Run α) :
    Run.withCache r m f >>= g = r >>= fun t => g (t.withCache m f) := by
  cases r <;> rfl

@[simp] theorem Run.ok_withCache : Run.withCache (.ok s) m f = .ok (s.withCache m f) := rfl

@[simp] theorem Run.error_withCache (h : Halt) : Run.withCache (.error h) m f = .error h := rfl

theorem Run.ite_withCache {c : Prop} [Decidable c] (a b : Run State) :
    Run.withCache (if c then a else b) m f = if c then Run.withCache a m f else Run.withCache b m f := by
  split <;> rfl

theorem State.ite_withCache {c : Prop} [Decidable c] (a b : State) :
    (if c then a else b).withCache m f = if c then a.withCache m f else b.withCache m f := by
  split <;> rfl

@[simp] theorem State.withCache_iop : (s.withCache m f).iop = s.iop := rfl

theorem State.mapIop_withCache (g : Iop → Iop) : (s.withCache m f).mapIop g = (s.mapIop g).withCache m f := rfl

theorem State.mapChan_withCache (c : Fin 14) (g : Channel → Channel) :
    (s.withCache m f).mapChan c g = (s.mapChan c g).withCache m f := rfl

theorem State.mapSport_withCache (x : Fin 2) (g : Sport → Sport) :
    (s.withCache m f).mapSport x g = (s.mapSport x g).withCache m f := rfl

theorem State.setLatch_withCache (k : Irq) (b : Bool) :
    (s.withCache m f).setLatch k b = (s.setLatch k b).withCache m f := by
  unfold State.setLatch
  split <;> rfl

theorem State.occur_withCache (k : Irq) : (s.withCache m f).occur k = (s.occur k).withCache m f := by
  unfold State.occur
  rw [State.ite_withCache, State.setLatch_withCache]
  rfl

theorem State.occurIf_withCache (b : Bool) (k : Irq) : (s.withCache m f).occurIf b k = (s.occurIf b k).withCache m f := by
  unfold State.occurIf
  rw [State.ite_withCache, State.occur_withCache]

theorem coreEnqueue_withCache (c : Fin 14) (v : W64) :
    (s.withCache m f).coreEnqueue c v = Run.withCache (s.coreEnqueue c v) m f := by
  unfold State.coreEnqueue
  simp only [Run.ite_withCache, Run.ok_withCache, Run.error_withCache]
  rfl

theorem writeSyscon_withCache (core : Bool) (v : W32) :
    (s.withCache m f).writeSyscon core v = Run.withCache (s.writeSyscon core v) m f := by
  unfold State.writeSyscon
  simp only [Run.bind_withCache, Run.ok_withCache, State.ite_withCache]
  rfl

theorem writeDmac_withCache (core : Bool) (n : Fin 4) (v : W32) :
    (s.withCache m f).writeDmac core n v = Run.withCache (s.writeDmac core n v) m f := by
  unfold State.writeDmac
  simp only [Run.bind_withCache, Run.ok_withCache, State.ite_withCache]
  rfl

theorem writeParam_withCache (c : Fin 14) (p : Param) (v : W32) :
    (s.withCache m f).writeParam c p v = Run.withCache (s.writeParam c p v) m f := by
  unfold State.writeParam
  simp only [Run.bind_withCache, Run.ok_withCache]
  rfl

theorem writeLinkGroup_withCache (b : Fin 6) (o k : BitVec 10) :
    (s.withCache m f).writeLinkGroup b o k = Run.withCache (s.writeLinkGroup b o k) m f := by
  unfold State.writeLinkGroup
  simp only [Run.bind_withCache, Run.ok_withCache]
  rfl

theorem writeLctl_withCache (first : Fin 6) (v : W32) :
    (s.withCache m f).writeLctl first v = Run.withCache (s.writeLctl first v) m f := by
  unfold State.writeLctl
  simp only [writeLinkGroup_withCache, Run.withCache_bind, Run.bind_withCache, Run.ok_withCache]
  rfl

theorem writeLar_withCache (v : W32) : (s.withCache m f).writeLar v = Run.withCache (s.writeLar v) m f := by
  unfold State.writeLar
  simp only [Run.bind_withCache, Run.ok_withCache]
  rfl

theorem quietSport_withCache (x : Fin 2) (p : Sport) (tx : Bool) :
    (s.withCache m f).quietSport x p tx = (s.quietSport x p tx).withCache m f := by
  unfold State.quietSport
  cases ht : s.iop.sport[x].txOn || !(tx || p.txOn) <;> cases hr : s.iop.sport[x].rxOn || !(!tx || p.rxOn) <;>
    simp only [State.withCache_iop, State.mapChan_withCache, State.mapSport_withCache, ht, hr, if_true,
      Bool.false_eq_true, if_false]

theorem writeSpCtl_withCache (x : Fin 2) (tx : Bool) (v : W32) :
    (s.withCache m f).writeSpCtl x tx v = Run.withCache (s.writeSpCtl x tx v) m f := by
  unfold State.writeSpCtl
  simp only [State.withCache_iop, State.mapSport_withCache, State.mapChan_withCache, quietSport_withCache,
    State.occurIf_withCache, Run.bind_withCache, Run.ok_withCache]
  rfl

theorem writeSp_withCache (x : Fin 2) (r : SpReg) (v : W32) :
    (s.withCache m f).writeSp x r v = Run.withCache (s.writeSp x r v) m f := by
  cases r with
  | stctl => exact writeSpCtl_withCache s m f x true v
  | srctl => exact writeSpCtl_withCache s m f x false v
  | tx =>
    show State.writeTx _ _ _ = Run.withCache (State.writeTx _ _ _) m f
    unfold State.writeTx
    simp only [coreEnqueue_withCache, Run.withCache_bind, Run.bind_withCache, Run.ok_withCache, State.occurIf_withCache]
    rfl
  | rx =>
    show State.writeRx _ _ _ = Run.withCache (State.writeRx _ _ _) m f
    unfold State.writeRx
    rw [State.withCache_iop]
    cases s.iop.sport[x].rxInPlace with
    | some law => exact coreEnqueue_withCache s m f _ _
    | none => rfl
  | _ => rfl

theorem writeVirpt_withCache (core : Bool) (v : W32) :
    (s.withCache m f).writeVirpt core v = (s.writeVirpt core v).withCache m f := by
  unfold State.writeVirpt
  simp only [State.mapIop_withCache, State.setLatch_withCache, ← State.ite_withCache]
  rfl

/-- A write of a register of the I/O processor does not look at the instruction cache and leaves it alone. -/
theorem iopWrite_withCache (core : Bool) (r : IopReg) (v : W32) :
    (s.withCache m f).iopWrite core r v = Run.withCache (s.iopWrite core r v) m f := by
  have checked (mask : W32) (t u : State) (h : u = t.withCache m f) :
      (noReserved v mask >>= fun _ => .ok u : Run State) = Run.withCache (noReserved v mask >>= fun _ => .ok t) m f := by
    rw [Run.bind_withCache, h]; rfl
  cases r with
  | syscon => exact writeSyscon_withCache s m f core v
  | virpt => exact congrArg Except.ok (writeVirpt_withCache s m f core v)
  | wait => exact checked _ _ _ (by cases core <;> rfl)
  | epb n => exact coreEnqueue_withCache s m f _ _
  | bmax =>
    unfold State.iopWrite
    simp only [Run.bind_withCache, Run.ok_withCache]
    rfl
  | bcnt => exact checked _ _ _ rfl
  | dmac n => exact writeDmac_withCache s m f core n v
  | param c p => exact writeParam_withCache s m f c p v
  | lbuf b => exact coreEnqueue_withCache s m f _ _
  | lctl0 => exact writeLctl_withCache s m f 0 v
  | lctl1 => exact writeLctl_withCache s m f 3 v
  | lcom =>
    unfold State.iopWrite
    simp only [Run.bind_withCache, Run.ok_withCache]
    rfl
  | lar => exact writeLar_withCache s m f v
  | lsrq => exact checked _ _ _ rfl
  | sp x q => exact writeSp_withCache s m f x q v
  | _ => rfl

end

end Sys2Proof.Machine
end

section
/-!
PROOF. A core load or store of a data register at the address of a register of the I/O processor, where
nothing of the instruction before is in flight: it is that register's read or write and the report of the access.
-/
namespace Sys2Proof.Machine

variable {s : State}

/-! ### The address of a register -/

theorem iopAddr_high (a : BitVec 8) {i : Nat} (hi : 8 ≤ i) : (a.setWidth 32).getLsbD i = false := by
  simp [BitVec.getLsbD_setWidth, BitVec.getLsbD_of_ge a i hi]

theorem iopAddr_field (a : BitVec 8) {i n : Nat} (hi : 8 ≤ i) : (a.setWidth 32).extractLsb' i n = 0 := by
  ext j hj
  rw [BitVec.getElem_extractLsb', iopAddr_high a (by omega)]
  simp

theorem iopAddr_target (id : BitVec 3) (a : BitVec 8) : target id (a.setWidth 32) = .own false := by
  simp [target, iopAddr_field]

theorem iopAddr_form (a : BitVec 8) : form (a.setWidth 32) = .iop := by
  simp [form, iopAddr_field]

theorem iopAddr_low (a : BitVec 8) : (a.setWidth 32).extractLsb' 0 8 = a := by
  ext j hj
  have : j < 32 := by omega
  simp [this, BitVec.getLsbD_eq_getElem hj]

theorem State.locate_iop (a : BitVec 8) :
    s.locate (a.setWidth 32) false false = .ok ⟨a.setWidth 32, 32, .iop a, false⟩ := by
  simp [State.locate, iopAddr_target, iopAddr_form, iopAddr_low]

/-! ### Reading and writing the register -/

theorem iopWidth_plain (r : IopReg) : iopWidth r false false = 32 := by
  cases r <;> rfl

theorem State.Settled.iopTarget (h : s.Settled) {a : BitVec 8} {r : IopReg} (hr : iopReg a = some r) :
    s.iopTarget a = .ok r := by
  unfold State.iopTarget
  rw [hr]
  cases r <;> simp [h.syscon, h.flushed, h.flushedBefore]

theorem State.Settled.flushing (h : s.Settled) (r : IopReg) : s.flushing r = 0 := by
  cases r <;> simp [State.flushing, h.syscon, h.flushed, h.flushedBefore, bitAt]

/-- A DMA channel that a write starts is noted (70_reset_and_hazards.md R802). -/
def State.noteStarted (t u : State) : State :=
  { u with recent := { u.recent with started := u.recent.started ||| t.startedBy u } }

theorem State.Settled.writeIop (h : s.Settled) {a : BitVec 8} {r : IopReg} (hr : iopReg a = some r) (t : State)
    (g : Nat → W64) : s.writeIop t a false false g =
      t.iopWrite true r ((g 32).setWidth 32) >>= fun u => .ok (t.noteStarted u) := by
  simp [State.writeIop, h.iopTarget hr, iopWidth_plain, State.noteStarted]

theorem State.Settled.readIop (h : s.Settled) {a : BitVec 8} {r : IopReg} (hr : iopReg a = some r)
    (he : r = .elast → s.recent.elast = false) (t : State) : s.readIop t a false false =
      t.iopRead r (s.free 3) >>= fun p => .ok (32, p.1.setWidth 64, p.2) := by
  have elast : ¬ (r = .elast ∧ s.recent.elast = true) := fun ⟨hr, hs⟩ => by simp [he hr] at hs
  simp [State.readIop, h.iopTarget hr, iopWidth_plain, elast, h.flushing, State.freeIn]

/-! ### The access -/

/-- MODE2.IIRAE reports an access to a register of the I/O processor in STKYx (60_exceptions.md R613). -/
def State.reportIop (s t : State) : State := t.stkyxOr (if s.reg.mode2.getLsbD 20 then 0x80000 else 0)

/-- A move between a data register and a register of the I/O processor. -/
def iopMove (pm : Bool) (op : MemOp) (a : BitVec 8) : MemMove := ⟨op, pm, .direct (a.setWidth 32), false⟩

theorem State.Settled.storeIop (h : s.Settled) {a : BitVec 8} {r : IopReg} (hr : iopReg a = some r) (n : Reg) (t : State) :
    s.store t (.reg (.r n)) (a.setWidth 32) false everyPe false =
      t.iopWrite true r ((s.dreg false n).extractLsb' 8 32) >>= fun u => .ok (t.noteStarted u) := by
  have ready : s.mayRead (.r n) = .ok () := h.mayRead _ (.inr rfl) (.inl (by simp))
  have word : (s.datumWord (.reg (.r n)) 32).setWidth 32 = (s.dreg false n).extractLsb' 8 32 := by
    simp [State.datumWord, State.regWord, State.read32]
  simp only [State.store, Datum.isPx, State.locate_iop, Run.ok_bind, Place.isReg, if_true, State.storeReg, regWidth, hr,
    iopWidth_plain, State.datumReady, regsOf, h.writeIop hr, word, Bool.false_and]
  cases t.iopWrite true r ((s.dreg false n).extractLsb' 8 32) <;> simp [ready, State.send, Loc.leaves]

theorem State.Settled.loadIop (h : s.Settled) {a : BitVec 8} {r : IopReg} (hr : iopReg a = some r)
    (he : r = .elast → s.recent.elast = false) (n : Reg) (t : State) :
    s.load t (.r n) (a.setWidth 32) false false everyPe false 4 =
      t.iopRead r (s.free 3) >>= fun p => .ok ([⟨.r n, 32, p.1.setWidth 64⟩], p.2) := by
  have ready : s.mayWrite (.r n) = .ok () := h.mayWrite _ rfl
  have px : (UReg.r n == UReg.px) = false := rfl
  simp only [State.load, px, State.locate_iop, Run.ok_bind, Place.isReg, if_true, State.loadIop, State.loadReg,
    h.readIop hr he, Bool.false_and]
  cases t.iopRead r (s.free 3) <;> simp [ready, regsOf, loadedBy, everyPe]

theorem State.Settled.reportMove (h : s.Settled) (pm : Bool) (op : MemOp) (a : BitVec 8) (t : State) :
    s.report t (iopMove pm op a) everyPe = .ok (s.reportIop t) := by
  simp [State.report, everyPe, Gate.any, iopMove, State.address, State.detect, iopAddr_target, iopAddr_form, h.changed,
    Changed.none, State.postReport, State.reportIop, bitAt]

/-- The instruction cache and the word of the fetch stage are all that a PM access changes (20_memory.md R186). -/
theorem State.Settled.pmAccess (h : s.Settled) (pm : Bool) (t : State) :
    ∃ c f, (if pm then s.pmAccess t else .ok t) = .ok (t.withCache c f) := by
  have same : ∃ c f, (.ok t : Run State) = .ok (t.withCache c f) := ⟨t.seq.cache, t.seq.cachedFaddr, rfl⟩
  cases pm with
  | false => exact same
  | true =>
    have ready : (s.changed.mode2 &&& 0x00080010 == 0) = true := by simp [h.changed, Changed.none]
    simp only [State.pmAccess, ready, need_true, Run.ok_bind, if_true]
    split
    · exact same
    · split
      · exact ⟨_, _, rfl⟩
      · split
        · split
          · exact same
          · exact ⟨_, _, rfl⟩
        · exact same

/-- What follows the access of the PM bus goes on from a state where only the cache may have changed. -/
theorem pmAccess_then {β : Type} {s t : State} {pm : Bool} {c : Vector (List CacheEntry) 16} {f : Option W48}
    (h : (if pm then s.pmAccess t else .ok t) = .ok (t.withCache c f)) (k : State → Run β) :
    (if pm then s.pmAccess t >>= k else k t) = k (t.withCache c f) := by
  cases pm with
  | true =>
    have h : s.pmAccess t = .ok (t.withCache c f) := h
    simp [h]
  | false =>
    have h : t = t.withCache c f := Except.ok.inj h
    exact congrArg k h

theorem gateOk_everyPe (a : W32) : s.gateOk everyPe a = .ok () := by
  simp [State.gateOk, everyPe]

theorem apart_nil (g : Gate) (us : List UReg) : s.apart g us [] = .ok () := by
  have : clashes us [] = false := by
    simp only [clashes, List.any_eq_false]
    intro u _
    split <;> simp
  simp [State.apart, this]

/-- A store to the register is its write, on a state where only the cache may have changed. -/
theorem State.Settled.moveStore (h : s.Settled) {a : BitVec 8} {r : IopReg} (hr : iopReg a = some r) (pm : Bool) (n : Reg)
    (t : State) : ∃ c f, s.move t (iopMove pm (.store (.reg (.r n))) a) everyPe [] =
      t.iopWrite true r ((s.dreg false n).extractLsb' 8 32) >>= fun u =>
        .ok (s.reportIop ((t.withCache c f).noteStarted (u.withCache c f))) := by
  obtain ⟨c, f, hc⟩ := h.pmAccess pm t
  refine ⟨c, f, ?_⟩
  have hm : s.memMove t (iopMove pm (.store (.reg (.r n))) a) everyPe false 4 =
      t.iopWrite true r ((s.dreg false n).extractLsb' 8 32) >>= fun u =>
        .ok ([], (t.withCache c f).noteStarted (u.withCache c f)) := by
    have any : everyPe.any = true := rfl
    have self : (iopMove pm (.store (.reg (.r n))) a).selfTransfer = false := rfl
    simp only [State.memMove, any, Bool.not_true, Bool.false_and, Bool.false_eq_true, if_false, h.useMode1, Run.ok_bind,
      self, Bool.not_false, need_true]
    simp only [iopMove, State.address, Run.ok_bind, gateOk_everyPe, pmAccess_then hc, h.storeIop hr, iopWrite_withCache,
      Run.withCache_bind, State.postModify]
    cases t.iopWrite true r ((s.dreg false n).extractLsb' 8 32) <;> rfl
  rw [State.move, hm]
  cases t.iopWrite true r ((s.dreg false n).extractLsb' 8 32) <;>
    simp [apart_nil, State.putAll, h.reportMove]

/-- A load from the register is its read, on a state where only the cache may have changed. -/
theorem State.Settled.moveLoad (h : s.Settled) {a : BitVec 8} {r : IopReg} (hr : iopReg a = some r)
    (he : r = .elast → s.recent.elast = false) (pm : Bool) (n : Reg) (t : State) :
    ∃ c f, s.move t (iopMove pm (.load (.r n)) a) everyPe [] =
      (t.withCache c f).iopRead r (s.free 3) >>= fun p => .ok (s.reportIop (p.2.setDreg false n (p.1 ++ 0#8))) := by
  obtain ⟨c, f, hc⟩ := h.pmAccess pm t
  refine ⟨c, f, ?_⟩
  have hm : s.memMove t (iopMove pm (.load (.r n)) a) everyPe false 4 =
      (t.withCache c f).iopRead r (s.free 3) >>= fun p => .ok ([⟨.r n, 32, p.1.setWidth 64⟩], p.2) := by
    have any : everyPe.any = true := rfl
    have self : (iopMove pm (.load (.r n)) a).selfTransfer = false := rfl
    simp only [State.memMove, any, Bool.not_true, Bool.false_and, Bool.false_eq_true, if_false, h.useMode1, Run.ok_bind,
      self, Bool.not_false, need_true]
    simp only [iopMove, State.address, Run.ok_bind, gateOk_everyPe, pmAccess_then hc, h.loadIop hr he, broadcastBy,
      State.postModify]
    cases (t.withCache c f).iopRead r (s.free 3) <;> rfl
  rw [State.move, hm]
  cases (t.withCache c f).iopRead r (s.free 3) <;>
    simp [apart_nil, State.putAll, State.putLoaded, State.write32, h.reportMove]

end Sys2Proof.Machine
end

section
/-!
PROOF. The accesses of the core to the registers and the buffers of the I/O processor, from a steady
state to their end.
-/
namespace Sys2Proof.Machine

variable {s b t : State}

/-! ### The state written to -/

theorem State.Steady.begun_iop (h : s.Steady) : s.begun.iop = s.iop := (congrArg State.iop h.begin.2.rest :)

theorem State.Steady.begun_daddr (h : s.Steady) : s.begun.seq.daddr = s.seq.daddr :=
  (congrArg Sequencer.daddr h.begin.2.seq :)

theorem State.Steady.begun_faddr (h : s.Steady) : s.begun.seq.faddr = s.seq.faddr :=
  (congrArg Sequencer.faddr h.begin.2.seq :)

/-- No register of the I/O processor shows what the loop mechanism did or what the cache holds. -/
theorem State.Steady.iopValue_begun (h : s.Steady) (r : IopReg) (c : Vector (List CacheEntry) 16) (f : Option W48) :
    (s.begun.withCache c f).iopValue r = s.iopValue r := by
  rw [h.begin.2.rest, h.begin.2.seq]
  cases r <;> rfl

/-! ### Buffers written -/

/-- A write of RXx that does not compand in place stops (62_link_serial_multiproc.md R745). -/
theorem iopWrite_misuse {r : IopReg} {v : W32} (h : b.bufferTakes r v = none) (core : Bool) :
    b.iopWrite core r v = .error (.fault .sportBufferMisuse) := by
  cases r with
  | sp x q =>
    cases q with
    | rx =>
      have : b.iop.sport[x].rxInPlace = none := by simpa [State.bufferTakes] using h
      show b.writeRx x v = _
      simp only [State.writeRx, this]
    | _ => cases h
  | _ => cases h

/-- A write of a buffer queues the word that the buffer takes, with what that draws. -/
theorem iopWrite_takes {r : IopReg} {c : Fin 14} {v y : W32} (hc : r.buffer? = some c) (h : b.bufferTakes r v = some y)
    (core : Bool) : b.iopWrite core r v = b.coreEnqueue c (y.setWidth 64) >>= fun t => .ok (b.drawn r t) := by
  have plain (c : Fin 14) (w : W64) : b.coreEnqueue c w = b.coreEnqueue c w >>= fun t => .ok t := by
    cases b.coreEnqueue c w <;> rfl
  cases r with
  | epb n => cases hc; cases h; exact plain _ _
  | lbuf n => cases hc; cases h; exact plain _ _
  | sp x q =>
    cases q with
    | tx =>
      cases hc; cases h
      have irq : (if x == 0 then Irq.spt0 else .spt1) = chanIrq (txChan x) := by
        match x with
        | 0 => rfl
        | 1 => rfl
      show b.writeTx x v = _
      simp only [State.writeTx, State.drawn, irq]
    | rx =>
      cases hc
      obtain ⟨law, hp, rfl⟩ := Option.map_eq_some_iff.1 h
      show b.writeRx x v = _
      simp only [State.writeRx, hp]
      exact plain _ _
    | _ => cases hc
  | _ => cases hc

/-- Nothing is drawn of a transmitter whose buffer holds a word. -/
theorem State.drawn_of_queue {r : IopReg} {c : Fin 14} (hc : r.buffer? = some c) (hq : s.iop.chan[c].queue ≠ [])
    (t : State) : s.drawn r t = t := by
  cases r with
  | sp x q =>
    cases q with
    | tx =>
      cases hc
      have : s.iop.chan[txChan x].queue.isEmpty = false := by simpa using hq
      simp only [State.drawn, this, Bool.false_and, State.occurIf, Bool.false_eq_true, if_false]
    | _ => rfl
  | _ => rfl

theorem State.drawn_congr (h : b.iop = s.iop) (r : IopReg) : b.drawn r = s.drawn r := by
  funext t
  unfold State.drawn
  rw [h]

theorem State.bufferTakes_congr (h : b.iop = s.iop) (r : IopReg) (v : W32) : b.bufferTakes r v = s.bufferTakes r v := by
  unfold State.bufferTakes
  rw [h]

/-! ### Buffers read -/

theorem State.bufferGives_congr (h : b.iop = s.iop) (r : IopReg) : b.bufferGives r = s.bufferGives r := by
  unfold State.bufferGives
  rw [h]

/-- A 32-bit read of a 32-bit word takes all of it. -/
theorem narrow_setWidth (x free : W32) : narrow (x.setWidth 64) free = x := by
  have : (x.setWidth 64 : W64) >>> 32 = 0 := by
    ext i hi
    simp
  simp [narrow, this]

/-- The low bits of two words side by side. -/
theorem extract_low_append (a : BitVec 24) (c : BitVec 8) : (a ++ c : W32).extractLsb' 0 8 = c :=
  BitVec.extractLsb'_append_eq_right

theorem iopRead_misuse {r : IopReg} (h : b.bufferGives r = none) (free : W32) :
    b.iopRead r free = .error (.fault .sportBufferMisuse) := by
  cases r with
  | sp x q =>
    cases q with
    | tx =>
      have : b.iop.sport[x].txInPlace = none := by simpa [State.bufferGives] using h
      simp only [State.iopRead, this]
    | _ => cases h
  | _ => cases h

/-- A buffer that cannot give a word stops the read in the same way. -/
theorem iopRead_error {r : IopReg} {c : Fin 14} {gives : W32 → W32 → Prop} {e : Halt} (hc : r.buffer? = some c)
    (hg : b.bufferGives r = some gives) (h : b.coreDequeue c = .error e) (free : W32) : b.iopRead r free = .error e := by
  cases r with
  | epb n => cases hc; simp [State.iopRead, h]
  | lbuf n => cases hc; simp [State.iopRead, h]
  | sp x q =>
    cases q with
    | tx =>
      cases hc
      cases hp : b.iop.sport[x].txInPlace with
      | none => simp only [State.bufferGives, hp, Option.map_none, reduceCtorEq] at hg
      | some law => simp only [State.iopRead, hp, h, Run.error_bind]
    | rx => cases hc; simp [State.iopRead, h]
    | _ => cases hc
  | _ => cases hc

/-- A read of a buffer that gives a 32-bit word. -/
theorem iopRead_ok {r : IopReg} {c : Fin 14} {gives : W32 → W32 → Prop} {x : W32} (hc : r.buffer? = some c)
    (hg : b.bufferGives r = some gives) (h : b.coreDequeue c = .ok (x.setWidth 64, t)) (free : W32) :
    ∃ z, gives x z ∧ b.iopRead r free = .ok (z, t) := by
  cases r with
  | epb n => cases hc; cases hg; exact ⟨x, rfl, by simp [State.iopRead, h, narrow_setWidth]⟩
  | lbuf n => cases hc; cases hg; exact ⟨x, rfl, by simp [State.iopRead, h, narrow_setWidth]⟩
  | sp y q =>
    cases q with
    | tx =>
      cases hc
      cases hp : b.iop.sport[y].txInPlace with
      | none => simp only [State.bufferGives, hp, Option.map_none, reduceCtorEq] at hg
      | some law =>
        simp only [State.bufferGives, hp, Option.map_some, Option.some.injEq] at hg
        have low : ((x.setWidth 64).setWidth 32 : W32) = x := by simp
        refine ⟨free.extractLsb' 8 24 ++ compress law x, hg ▸ extract_low_append _ _, ?_⟩
        simp only [State.iopRead, hp, h, Run.ok_bind, low]
    | rx => cases hc; cases hg; exact ⟨x, rfl, by simp [State.iopRead, h, narrow_setWidth]⟩
    | _ => cases hc
  | _ => cases hc

theorem iopRead_register {r : IopReg} (hr : r.buffer? = none) (free : W32) : b.iopRead r free = .ok (b.iopValue r, b) := by
  cases r with
  | sp x q => cases q <;> first | rfl | cases hr
  | _ => first | rfl | cases hr

/-! ### The instruction -/

/-- The store of a data register at the address of a register of the I/O processor. -/
abbrev iopStore (pm : Bool) (n : Reg) (a : BitVec 8) : Instr := .uregAbs pm true false (.r n) (a.setWidth 32)

/-- The load of a data register from there. -/
abbrev iopLoad (pm : Bool) (n : Reg) (a : BitVec 8) : Instr := .uregAbs pm false false (.r n) (a.setWidth 32)

/-- The access completes, and has done to the I/O processor and the data registers what `t` holds. -/
def State.Accesses (s : State) (i : Instr) (t : State) : Prop :=
  ∃ w u, exec i s = .next u ∧ s.IopAccessed t w ∧ s.Advanced w u

theorem State.Steady.exec_iopMove (h : s.Steady) (m : MemMove) :
    runAccess m s = outcome s (s.move s.begun m everyPe [] >>= s.advance) := by
  unfold runAccess
  rw [h.begin.1]
  rfl

/-- The report of an access on a state with another cache. -/
theorem iopAccessed_report (t w : State) (c : Vector (List CacheEntry) 16) (f : Option W48)
    (hw : w = { t.withCache c f with recent := { t.recent with started := w.recent.started } }) :
    s.IopAccessed t (s.reportIop w) := by
  rw [hw]
  rfl

/-- An access whose move reaches its end completes. -/
theorem State.Steady.accesses (h : s.Steady) {i : Instr} {m : MemMove} {t w : State} (hi : exec i s = runAccess m s)
    (hm : s.move s.begun m everyPe [] = .ok w) (hw : s.IopAccessed t w) (ht : t.seq = s.begun.seq) : s.Accesses i t := by
  have hd : w.seq.daddr = s.seq.daddr := by rw [hw, ← h.begun_daddr, ← ht]
  have hf : w.seq.faddr = s.seq.faddr := by rw [hw, ← h.begun_faddr, ← ht]
  obtain ⟨u, hu, ha⟩ := h.advance hd hf
  exact ⟨w, u, by rw [hi, h.exec_iopMove, hm, Run.ok_bind, hu, outcome_ok], hw, ha⟩

section
variable {pm : Bool} {n : Reg} {a : BitVec 8} {r : IopReg}

/-- A store does what a write of the register does. -/
theorem State.Steady.iopStore_ok (h : s.Steady) (hr : iopReg a = some r)
    (ht : s.begun.iopWrite true r ((s.dreg false n).extractLsb' 8 32) = .ok t) : s.Accesses (iopStore pm n a) t := by
  obtain ⟨c, f, hm⟩ := h.1.moveStore hr pm n s.begun
  rw [ht, Run.ok_bind] at hm
  exact h.accesses rfl hm (iopAccessed_report t _ c f rfl) (iopWrite_outside _ _ _ _ ht).seq

/-- A store stops or waits where the write of the register does. -/
theorem State.Steady.iopStore_error (h : s.Steady) (hr : iopReg a = some r) {e : Halt}
    (he : s.begun.iopWrite true r ((s.dreg false n).extractLsb' 8 32) = .error e) :
    exec (iopStore pm n a) s = outcome s (.error e) := by
  obtain ⟨c, f, hm⟩ := h.1.moveStore hr pm n s.begun
  rw [he, Run.error_bind] at hm
  show runAccess (iopMove pm (.store (.reg (.r n))) a) s = _
  rw [h.exec_iopMove, hm, Run.error_bind]

/-- A load gives what the read of the register gives, on a state with any cache. -/
theorem State.Steady.iopLoad_ok (h : s.Steady) (hr : iopReg a = some r) (hl : r = .elast → s.recent.elast = false)
    {x : W32} (ht : t.seq = s.begun.seq)
    (hx : ∀ c f, (s.begun.withCache c f).iopRead r (s.free 3) = .ok (x, t.withCache c f)) :
    s.Accesses (iopLoad pm n a) (t.setDreg false n (x ++ 0#8)) := by
  obtain ⟨c, f, hm⟩ := h.1.moveLoad hr hl pm n s.begun
  rw [hx, Run.ok_bind] at hm
  exact h.accesses rfl hm (iopAccessed_report (t.setDreg false n (x ++ 0#8)) _ c f rfl)
    ((State.setDreg_seq ..).trans ht)

theorem State.Steady.iopLoad_error (h : s.Steady) (hr : iopReg a = some r) (hl : r = .elast → s.recent.elast = false)
    {e : Halt} (he : ∀ c f, (s.begun.withCache c f).iopRead r (s.free 3) = .error e) :
    exec (iopLoad pm n a) s = outcome s (.error e) := by
  obtain ⟨c, f, hm⟩ := h.1.moveLoad hr hl pm n s.begun
  rw [he, Run.error_bind] at hm
  show runAccess (iopMove pm (.load (.r n)) a) s = _
  rw [h.exec_iopMove, hm, Run.error_bind]

end

/-! ### A buffer with room, a full one and an empty one -/

theorem coreEnqueue_room {c : Fin 14} (h : b.iop.chan[c].queue.length < capacity c) (w : W64) :
    b.coreEnqueue c w = .ok (b.enqueue c w) := if_pos h

/-- With BHD = 1 a write replaces the newest word of a full buffer (61_io_devices.md R720). -/
theorem coreEnqueue_full {c : Fin 14} (h : ¬ b.iop.chan[c].queue.length < capacity c) (w : W64) :
    b.coreEnqueue c w = if b.bhd then
        .ok (b.mapChan c fun g => { g with queue := b.iop.chan[c].queue.dropLast ++ [w] })
      else .error .stall := if_neg h

theorem coreDequeue_cons {c : Fin 14} {y : W64} {q : List W64} (h : b.iop.chan[c].queue = y :: q) :
    b.coreDequeue c = .ok (y, b.dequeue c y) := by
  unfold State.coreDequeue
  rw [h]

/-- With BHD = 1 a read of an empty buffer repeats the last word (61_io_devices.md R720). -/
theorem coreDequeue_nil {c : Fin 14} (h : b.iop.chan[c].queue = []) :
    b.coreDequeue c = if b.bhd then .ok (b.iop.chan[c].last, b) else .error .stall := by
  unfold State.coreDequeue
  rw [h]

theorem capacity_pos (c : Fin 14) : 0 < capacity c := by
  unfold capacity
  split <;> decide

/-! ### Accesses to a buffer -/

section
variable {pm : Bool} {n : Reg} {a : BitVec 8} {r : IopReg} {c : Fin 14}

/-- A store to a buffer adds a word, replaces the newest one of a full buffer with BHD = 1, or waits. -/
theorem State.Steady.iopStore_buffer (h : s.Steady) (hr : iopReg a = some r) (hc : r.buffer? = some c) :
    let v := (s.dreg false n).extractLsb' 8 32
    let q := s.iop.chan[c].queue
    match s.bufferTakes r v with
    | none => exec (iopStore pm n a) s = .fault .sportBufferMisuse
    | some y =>
      if q.length < capacity c then s.Accesses (iopStore pm n a) (s.drawn r (s.begun.enqueue c (y.setWidth 64)))
      else if s.bhd then
        s.Accesses (iopStore pm n a) (s.begun.mapChan c fun g => { g with queue := q.dropLast ++ [y.setWidth 64] })
      else exec (iopStore pm n a) s = .next s := by
  intro v q
  have takes : s.begun.bufferTakes r v = s.bufferTakes r v := State.bufferTakes_congr h.begun_iop r v
  have bhd : s.begun.bhd = s.bhd := by unfold State.bhd; rw [h.begun_iop]
  cases hy : s.bufferTakes r v with
  | none => exact h.iopStore_error hr (iopWrite_misuse (takes.trans hy) true)
  | some y =>
    have write := iopWrite_takes hc (takes.trans hy) true
    rw [State.drawn_congr h.begun_iop] at write
    dsimp only
    split
    · rename_i hq
      rw [coreEnqueue_room (by rwa [h.begun_iop])] at write
      exact h.iopStore_ok hr write
    · rename_i hq
      rw [coreEnqueue_full (by rwa [h.begun_iop]), bhd, h.begun_iop] at write
      have some_word : q ≠ [] := fun e => hq (by rw [e]; exact capacity_pos c)
      split
      · rename_i hb
        rw [if_pos hb, Run.ok_bind, State.drawn_of_queue hc some_word] at write
        exact h.iopStore_ok hr write
      · rename_i hb
        rw [if_neg hb] at write
        exact h.iopStore_error hr write

/-- A load from a buffer that answers a word of 32 bits. -/
theorem State.Steady.iopLoad_gives (h : s.Steady) (hr : iopReg a = some r) (hc : r.buffer? = some c)
    {gives : W32 → W32 → Prop} (hg : s.bufferGives r = some gives) {x : W32} (ht : t.seq = s.begun.seq)
    (hx : ∀ m f, (s.begun.withCache m f).coreDequeue c = .ok (x.setWidth 64, t.withCache m f)) :
    ∃ z, gives x z ∧ s.Accesses (iopLoad pm n a) (t.setDreg false n (z ++ 0#8)) := by
  have elast : r = .elast → s.recent.elast = false := by rintro rfl; cases hc
  have same (m : Vector (List CacheEntry) 16) (f : Option W48) : (s.begun.withCache m f).iop = s.iop := h.begun_iop
  obtain ⟨m, f, hm⟩ := h.1.moveLoad hr elast pm n s.begun
  obtain ⟨z, hz, he⟩ := iopRead_ok hc ((State.bufferGives_congr (same m f) r).trans hg) (hx m f) (s.free 3)
  rw [he, Run.ok_bind] at hm
  exact ⟨z, hz, h.accesses rfl hm (iopAccessed_report (t.setDreg false n (z ++ 0#8)) _ m f rfl)
    ((State.setDreg_seq ..).trans ht)⟩

/-- A load from a buffer takes the oldest word, repeats the last one of an empty buffer with BHD = 1, or waits. -/
theorem State.Steady.iopLoad_buffer (h : s.Steady) (hr : iopReg a = some r) (hc : r.buffer? = some c) :
    match s.bufferGives r with
    | none => exec (iopLoad pm n a) s = .fault .sportBufferMisuse
    | some gives =>
      match s.iop.chan[c].queue with
      | y :: _ => ∀ x : W32, y = x.setWidth 64 →
          ∃ z, gives x z ∧ s.Accesses (iopLoad pm n a) ((s.begun.dequeue c y).setDreg false n (z ++ 0#8))
      | [] =>
        if s.bhd then ∀ x : W32, s.iop.chan[c].last = x.setWidth 64 →
          ∃ z, gives x z ∧ s.Accesses (iopLoad pm n a) (s.begun.setDreg false n (z ++ 0#8))
        else exec (iopLoad pm n a) s = .next s := by
  have elast : r = .elast → s.recent.elast = false := by rintro rfl; cases hc
  have same (m : Vector (List CacheEntry) 16) (f : Option W48) : (s.begun.withCache m f).iop = s.iop := h.begun_iop
  have gives (m : Vector (List CacheEntry) 16) (f : Option W48) :
      (s.begun.withCache m f).bufferGives r = s.bufferGives r := State.bufferGives_congr (same m f) r
  have bhd (m : Vector (List CacheEntry) 16) (f : Option W48) : (s.begun.withCache m f).bhd = s.bhd := by
    unfold State.bhd; rw [same]
  cases hg : s.bufferGives r with
  | none => exact h.iopLoad_error hr elast fun m f => iopRead_misuse ((gives m f).trans hg) _
  | some g =>
    dsimp only
    cases hq : s.iop.chan[c].queue with
    | cons y q =>
      rintro x rfl
      exact h.iopLoad_gives hr hc hg rfl fun m f => coreDequeue_cons (by rw [same, hq])
    | nil =>
      have empty (m : Vector (List CacheEntry) 16) (f : Option W48) : (s.begun.withCache m f).coreDequeue c =
          if s.bhd then .ok (s.iop.chan[c].last, s.begun.withCache m f) else .error .stall := by
        rw [coreDequeue_nil (by rw [same, hq]), bhd, same]
      dsimp only
      split
      · rename_i hb
        intro x hx
        exact h.iopLoad_gives hr hc hg rfl fun m f => by rw [empty, if_pos hb, hx]
      · rename_i hb
        exact h.iopLoad_error hr elast fun m f =>
          iopRead_error hc ((gives m f).trans hg) (by rw [empty, if_neg hb]) _

end

/-- Settles O58: an access is the register's own read or write, a buffer is a queue, and the registers that hold what is
written are written alone. -/
theorem iopRegisters : Obligations.IopRegisters := by
  refine ⟨?_, ?_, ?_⟩
  · intro s pm n a r h hr
    refine ⟨fun _ t ht => h.iopStore_ok hr ht, fun hb hl => ?_,
      fun c hc => ⟨h.iopStore_buffer hr hc, h.iopLoad_buffer hr hc⟩⟩
    exact h.iopLoad_ok hr hl rfl fun c f => by rw [iopRead_register hb, h.iopValue_begun]
  · intro s t core r v mask hr ht
    obtain ⟨⟨g, q, rest⟩, kept⟩ := iopWrite_keepsWrite hr ht
    refine ⟨?_, fun o mask' ho hne => ?_, ?_⟩
    · rw [State.iopValue_of_keeps hr, kept.reads]
    · rw [State.iopValue_of_keeps ho, State.iopValue_of_keeps ho, kept.others o hne]
    · rw [rest]
      exact ⟨rfl, ⟨rfl, rfl⟩, ⟨rfl, rfl⟩, rfl⟩
  · intro s t core v ht
    obtain ⟨hs, hr, hk⟩ := writeSyscon_kept ht
    exact ⟨hs, hr, fun o mask ho => by rw [State.iopValue_of_keeps ho, State.iopValue_of_keeps ho, hk]⟩

end Sys2Proof.Machine
end

section
/-!
PROOF. What a loaded word leaves in a data register and its neighbour, and what a data register gives to a word
(20_memory.md R143 to R145, R152).
-/
namespace Sys2Proof.Machine

variable {s t : State}

/-- The two registers of a pair are two. -/
theorem neighbour_ne (n : Reg) : neighbour n ≠ n := by
  intro h
  have : neighbour n ^^^ n = 1 := by rw [neighbour, BitVec.xor_comm n, BitVec.xor_assoc, BitVec.xor_self, BitVec.xor_zero]
  rw [h, BitVec.xor_self] at this
  exact absurd this (by decide)

/-! ### Loads -/

/-- What a loaded word of `w` bits leaves in the data register named; `sse` is the MODE1 that extends a short word. -/
def loadedWord (sse : W32) (w : Nat) (v : W64) : W40 :=
  if w = 16 then extendShort sse v ++ 0#8 else if w = 48 then v.extractLsb' 8 40 else v.setWidth 32 ++ 0#8

/-- A processing element with a loaded word in data register `n`, a long word in its neighbour too. -/
def ProcElem.takeLoaded (p : ProcElem) (mode1 sse : W32) (n : Reg) (w : Nat) (v : W64) : ProcElem :=
  let q := p.setReg mode1 n (loadedWord sse w v)
  if w = 64 then q.setReg mode1 (neighbour n) (v.extractLsb' 32 32 ++ 0#8) else q

theorem State.setPe_setPe (y : Bool) (p q : ProcElem) : (s.setPe y p).setPe y q = s.setPe y q := by
  cases y <;> rfl

/-- A word loaded to a data register always gets there, and touches its processing element only. -/
theorem State.putLoaded_dreg (sse : W32) (y : Bool) (n : Reg) (w : Nat) (v : W64) :
    s.putLoaded sse ⟨UReg.ofDreg y n, w, v⟩ = .ok (s.setPe y ((s.pe y).takeLoaded s.reg.mode1 sse n w v)) := by
  have plain (u : W32) : s.write32 (UReg.ofDreg y n) u = .ok (s.setPe y ((s.pe y).setReg s.reg.mode1 n (u ++ 0#8))) :=
    State.write32_ofDreg y n u
  unfold State.putLoaded ProcElem.takeLoaded loadedWord
  dsimp only
  split
  · exact plain _
  · cases y <;> rfl
  · cases y <;> simp [UReg.ofDreg, UReg.pair?, State.write32, State.setDreg, State.setPe_setPe]
  · next h16 h48 h64 =>
    rw [if_neg h16, if_neg h48, if_neg h64]
    cases y <;> exact plain _

/-- The named register after a load. -/
theorem ProcElem.reg_takeLoaded (p : ProcElem) (m sse : W32) (n : Reg) (w : Nat) (v : W64) :
    (p.takeLoaded m sse n w v).reg m n = loadedWord sse w v := by
  unfold ProcElem.takeLoaded
  split <;> simp [ProcElem.reg_setReg, (neighbour_ne n).symm]

/-- The neighbour after a load of a long word. -/
theorem ProcElem.reg_takeLoaded_long (p : ProcElem) (m sse : W32) (n : Reg) (v : W64) :
    (p.takeLoaded m sse n 64 v).reg m (neighbour n) = v.extractLsb' 32 32 ++ 0#8 := by
  simp [ProcElem.takeLoaded, ProcElem.reg_setReg]

/-- Register `k` of both sets is the same in two processing elements. -/
def ProcElem.SameReg (p q : ProcElem) (k : Reg) : Prop :=
  q.r[k.toNat]'k.isLt = p.r[k.toNat]'k.isLt ∧ q.rAlt[k.toNat]'k.isLt = p.rAlt[k.toNat]'k.isLt

theorem ProcElem.SameReg.reg {p q : ProcElem} {k : Reg} (h : p.SameReg q k) (m : W32) : q.reg m k = p.reg m k := by
  unfold ProcElem.reg
  rw [h.1, h.2]

theorem ProcElem.sameReg_setReg (p : ProcElem) (m : W32) {n k : Reg} (v : W40) (h : k ≠ n) :
    p.SameReg (p.setReg m n v) k := by
  have hne : n.toNat ≠ k.toNat := fun e => h (BitVec.eq_of_toNat_eq e.symm)
  unfold ProcElem.SameReg ProcElem.setReg
  split <;> simp [Vector.getElem_set_ne _ _ hne]

/-- A load leaves every register but the one named and its neighbour. -/
theorem ProcElem.sameReg_takeLoaded (p : ProcElem) (m sse : W32) {n k : Reg} (w : Nat) (v : W64) (h : k ≠ n)
    (h' : k ≠ neighbour n) : p.SameReg (p.takeLoaded m sse n w v) k := by
  have first := p.sameReg_setReg m (loadedWord sse w v) h
  unfold ProcElem.takeLoaded
  split
  · have second := (p.setReg m n (loadedWord sse w v)).sameReg_setReg m (v.extractLsb' 32 32 ++ 0#8) h'
    exact ⟨second.1.trans first.1, second.2.trans first.2⟩
  · exact first

@[simp] theorem State.dreg_setPe (y : Bool) (p : ProcElem) (n : Reg) :
    (s.setPe y p).dreg y n = p.reg s.reg.mode1 n := by
  simp [State.dreg]

/-! ### Stores -/

/-- What a data register gives to a word of each width. -/
theorem State.regWord_dreg (y : Bool) (n : Reg) :
    s.regWord (UReg.ofDreg y n) 16 = ((s.dreg y n).extractLsb' 8 16).setWidth 64 ∧
    s.regWord (UReg.ofDreg y n) 32 = ((s.dreg y n).extractLsb' 8 32).setWidth 64 ∧
    s.regWord (UReg.ofDreg y n) 48 = (s.dreg y n ++ 0#8).setWidth 64 ∧
    s.regWord (UReg.ofDreg y n) 64 = (s.dreg y (neighbour n)).extractLsb' 8 32 ++ (s.dreg y n).extractLsb' 8 32 := by
  have low (w : W40) : (w.extractLsb' 8 32 &&& 0xFFFF#32).setWidth 64 = (w.extractLsb' 8 16).setWidth 64 := by
    have mask : (0xFFFF#32) = BitVec.ofNat 32 (2 ^ 16 - 1) := rfl
    rw [mask, ← setWidth_setWidth_eq_and]
    ext i hi
    by_cases h : i < 16 <;> simp [h]
    omega
  refine ⟨?_, ?_, ?_, ?_⟩
  · rw [← low]; cases y <;> rfl
  all_goals cases y <;> rfl

/-- Settles O41: a load writes its processing element, and a store reads it. -/
theorem loadedAndStoredValues : Obligations.LoadedAndStoredValues := by
  intro s n y v mode1
  have load (w : Nat) : ∃ t, s.putLoaded mode1 ⟨UReg.ofDreg y n, w, v⟩ = .ok t ∧
      ∀ k, t.dreg y k = ((s.pe y).takeLoaded s.reg.mode1 mode1 n w v).reg s.reg.mode1 k :=
    ⟨_, s.putLoaded_dreg mode1 y n w v, fun k => s.dreg_setPe y _ k⟩
  have named (w : Nat) : ∃ t, s.putLoaded mode1 ⟨UReg.ofDreg y n, w, v⟩ = .ok t ∧ t.dreg y n = loadedWord mode1 w v := by
    obtain ⟨t, ht, hk⟩ := load w
    exact ⟨t, ht, (hk n).trans (ProcElem.reg_takeLoaded ..)⟩
  obtain ⟨t, ht, hk⟩ := load 64
  exact ⟨named 16, named 32, named 48,
    ⟨t, ht, (hk n).trans (ProcElem.reg_takeLoaded ..), (hk _).trans (ProcElem.reg_takeLoaded_long ..),
      fun k h h' => (hk k).trans ((ProcElem.sameReg_takeLoaded _ _ _ _ _ h h').reg _)⟩,
    s.regWord_dreg y n⟩

end Sys2Proof.Machine
end

section
/-!
PROOF. MODIFY and BITREV in a steady state, and the circular update on natural numbers (20_memory.md R173).
-/
namespace Sys2Proof.Machine

variable {s t w : State}

/-! ### The update of an index register and its report -/

/-- Nothing bars an address register from being read. -/
theorem State.Settled.mayRead_dag (h : s.Settled) (k : DagKind) (n : Reg) : s.mayRead (UReg.ofDag k n) = .ok () :=
  h.mayRead _ (.inr (by cases k <;> rfl)) (.inl (by cases k <;> simp [UReg.ofDag]))

/-- An update that meets the conditions of its buffer is made. -/
theorem State.Settled.updateIndex (h : s.Settled) (t : State) {i : Reg} {m : W32} {always : Bool}
    (hi : s.IndexOk i m always) : s.updateIndex t i m always = .ok (t.setDagReg .i i (s.indexAfter i m always)) := by
  have ready : s.mayRead (.i i) = .ok () := h.mayRead_dag .i i
  have ok : (!s.circular i always || circOk (s.dagReg .i i) (s.dagReg .b i) (s.dagReg .l i) m) = true := by
    cases hc : s.circular i always with
    | false => rfl
    | true => simp [hi hc]
  simp [State.updateIndex, ready, h.useMode1, ok]

/-- From `t` to `u` the sticky bits `b` of STKYx are set, and latches of CB7I and CB15I may be if `b` is not 0
(60_exceptions.md R615). -/
structure WrapNoted (b : W32) (t u : State) : Prop where
  rest : u = { t with reg := { t.reg with stkyx := t.reg.stkyx ||| b, irptl := u.reg.irptl } }
  latch : u.reg.irptl &&& ~~~0x00300000#32 = t.reg.irptl &&& ~~~0x00300000#32
  none : b = 0 → u.reg.irptl = t.reg.irptl

theorem WrapNoted.zero (t : State) : WrapNoted 0 t t := ⟨by simp, rfl, fun _ => rfl⟩

/-- A sticky bit and the latch of a wrap. -/
theorem wrapNoted_occur (t : State) {k : Irq} (hk : k = .cb7 ∨ k = .cb15) {b : W32} (hb : b ≠ 0) :
    WrapNoted b t ((t.stkyxOr b).occur k) := by
  refine ⟨?_, ?_, fun h => absurd h hb⟩
  · unfold State.occur
    rcases hk with rfl | rfl <;> split <;> rfl
  · unfold State.occur
    split
    · rfl
    · rcases hk with rfl | rfl <;> exact putBits_outside _ _ _ _ (by decide)

theorem wrapNoted_wrapEvent (t : State) (i : Reg) : WrapNoted (wrapBit i true) t (t.wrapEvent i) := by
  unfold State.wrapEvent
  split
  · next h => rw [h]; exact wrapNoted_occur t (.inl rfl) (by decide)
  · next h7 =>
    split
    · next h => rw [h]; exact wrapNoted_occur t (.inr rfl) (by decide)
    · next h15 =>
      have : wrapBit i true = 0 := by simp [wrapBit, show i ≠ 7#4 from h7, show i ≠ 15#4 from h15]
      rw [this]
      exact WrapNoted.zero t

theorem wrapNoted_reportWrap (s t : State) (i : Reg) (m : W32) (always : Bool) :
    WrapNoted (wrapBit i (s.wraps i m always)) t (s.reportWrap t i m always) := by
  unfold State.reportWrap
  split
  · next h => rw [h]; exact wrapNoted_wrapEvent t i
  · next h => rw [Bool.eq_false_iff.2 h]; simpa [wrapBit] using WrapNoted.zero t

/-- MODIFY of an index register whose conditions are met. -/
theorem State.Settled.modifyIndex (h : s.Settled) (w : State) {i : Reg} {m : W32} {always : Bool}
    (hi : s.IndexOk i m always) : ∃ t, s.modifyIndex w i m always = .ok t ∧ s.Indexed w t i m always := by
  refine ⟨s.reportWrap (w.setDagReg .i i (s.indexAfter i m always)) i m always, ?_, ?_⟩
  · rw [State.modifyIndex, h.updateIndex w hi, Run.ok_bind]
  · obtain ⟨rest, latch, none⟩ := wrapNoted_reportWrap s (w.setDagReg .i i (s.indexAfter i m always)) i m always
    rw [State.setDagReg_reg] at rest latch none
    exact ⟨by rw [rest], by rw [rest], latch, none⟩

/-! ### To the end of the instruction -/

/-- A compute touches its processing elements, their flags and sticky bits, and the notes for the next instruction. -/
theorem State.runPes_rest (s t : State) (f : PeIn → PeOut) (ex ey : Bool) :
    let u := s.runPes t f ex ey
    u = { t with
      x := u.x, y := u.y, recent := u.recent
      reg := { t.reg with
        astatx := u.reg.astatx, astaty := u.reg.astaty, stkyx := u.reg.stkyx, stkyy := u.reg.stkyy } } := by
  cases ex <;> cases ey <;> rfl

theorem State.runPes_seq (s t : State) (f : PeIn → PeOut) (ex ey : Bool) : (s.runPes t f ex ey).seq = t.seq := by
  rw [State.runPes_rest]

/-- What leaves the sequencer as the step's begin left it reaches its end. -/
theorem State.Steady.ends (h : s.Steady) (ht : t.seq = s.begun.seq) :
    ∃ u, outcome s (s.advance t) = .next u ∧ s.Advanced t u := by
  obtain ⟨u, hu, ha⟩ := h.advance (t := t) (by rw [ht, h.begun_daddr]) (by rw [ht, h.begun_faddr])
  exact ⟨u, by rw [hu, outcome_ok], ha⟩

theorem State.Indexed.seq {i : Reg} {m : W32} {always : Bool} (h : s.Indexed w t i m always) : t.seq = w.seq := by
  rw [h.1]
  exact State.setDagReg_seq ..

/-- A conditional compute beside MODIFY. -/
theorem State.Steady.exec_modify (h : s.Steady) {c : Cond} {k : Compute} (hc : c = .lce → s.inShortLoop = false)
    (hk : k.dualClash = false) (g : Bool) (i m : DagNum) :
    let w := s.runPes s.begun (computePe k) (s.cond false c) (s.simd && s.cond true c)
    exec (.modify g c i m k) s = outcome s (do
      let u ← if s.condAny c then s.modifyByReg w g i m else .ok w
      s.advance u) := by
  have gate : s.peGate c false = (s.cond false c, s.simd && s.cond true c) := by simp [State.peGate]
  show execModify g c i m k s = _
  simp only [execModify, h.1.condReady c hc, h.begin.1, gate, h.computePart k _ hk, h.1.useMode1, Run.ok_bind]

theorem State.Steady.modify_taken (h : s.Steady) {c : Cond} {k : Compute} (hc : c = .lce → s.inShortLoop = false)
    (hk : k.dualClash = false) (g : Bool) (i m : DagNum) (ha : s.condAny c = true)
    (hi : s.IndexOk (dagNumber g i) (s.dagReg .m (dagNumber g m)) true) :
    ∃ t u, exec (.modify g c i m k) s = .next u ∧
      s.Indexed (s.runPes s.begun (computePe k) (s.cond false c) (s.simd && s.cond true c)) t (dagNumber g i)
        (s.dagReg .m (dagNumber g m)) true ∧ s.Advanced t u := by
  obtain ⟨t, ht, hx⟩ := h.1.modifyIndex
    (s.runPes s.begun (computePe k) (s.cond false c) (s.simd && s.cond true c)) hi
  have ready : s.mayRead (.m (dagNumber g m)) = .ok () := h.1.mayRead_dag .m _
  obtain ⟨u, hu, hv⟩ := h.ends (hx.seq.trans (State.runPes_seq ..))
  refine ⟨t, u, ?_, hx, hv⟩
  rw [h.exec_modify hc hk, if_pos ha, State.modifyByReg, ready, Run.ok_bind, ht, Run.ok_bind, hu]

theorem State.Steady.modify_skipped (h : s.Steady) {c : Cond} {k : Compute} (hc : c = .lce → s.inShortLoop = false)
    (hk : k.dualClash = false) (g : Bool) (i m : DagNum) (ha : s.condAny c = false) :
    ∃ u, exec (.modify g c i m k) s = .next u ∧
      s.Advanced (s.runPes s.begun (computePe k) (s.cond false c) (s.simd && s.cond true c)) u := by
  obtain ⟨u, hu, hv⟩ := h.ends (State.runPes_seq s s.begun (computePe k) (s.cond false c) (s.simd && s.cond true c))
  refine ⟨u, ?_, hv⟩
  rw [h.exec_modify hc hk, ha, ← hu]
  rfl

theorem State.Steady.modifyImm_ends (h : s.Steady) {g : Bool} {i : DagNum} {v : W32} (hi : s.IndexOk (dagNumber g i) v true) :
    ∃ t u, exec (.modifyImm g i v) s = .next u ∧ s.Indexed s.begun t (dagNumber g i) v true ∧ s.Advanced t u := by
  obtain ⟨t, ht, hx⟩ := h.1.modifyIndex s.begun hi
  obtain ⟨u, hu, hv⟩ := h.ends hx.seq
  refine ⟨t, u, ?_, hx, hv⟩
  show execModifyImm g i v s = _
  simp only [execModifyImm, h.1.useMode1, h.begin.1, Run.ok_bind, ht, hu]

/-! ### BITREV -/

/-- BITREV sums without its buffer where there is none, where the buffer gives the same sum, or where none is active. -/
theorem bitrev_ready_iff (i b l v mode1 : W32) : (bitrevPlain i b l v || !cbufen mode1) = true ↔
    l = 0 ∨ circUpdate i b l v = i + v ∨ cbufen mode1 = false := by
  simp [bitrevPlain, or_assoc]

theorem State.Steady.exec_bitrev (h : s.Steady) (g : Bool) (i : DagNum) (v : W32) :
    let n := dagNumber g i
    exec (.bitrev g i v) s =
      if bitrevPlain (s.dagReg .i n) (s.dagReg .b n) (s.dagReg .l n) v || !cbufen s.reg.mode1 then
        outcome s (s.advance (s.begun.setDagReg .i n (rev32 (s.dagReg .i n + v))))
      else .fault .bitrevCircular := by
  intro n
  have ready : s.mayRead (.i (dagNumber g i)) = .ok () := h.1.mayRead_dag .i _
  show execBitrev g i v s = _
  simp only [execBitrev, h.1.useMode1, ready, h.begin.1, Run.ok_bind]
  split
  · next hr => rw [hr]; rfl
  · next hr => rw [Bool.eq_false_iff.2 hr]; rfl

/-- Bit `j` of a word with its bits in reverse order. -/
theorem getLsbD_rev32 (v : W32) {j : Nat} (hj : j < 32) : (rev32 v).getLsbD j = v.getLsbD (31 - j) := by
  rw [rev32, BitVec.getLsbD_reverse, BitVec.getMsbD]
  simp [hj]

/-! ### The circular update on numbers -/

/-- The modifier on numbers. -/
theorem toNat_add_of_toInt {i m : W32} (h0 : 0 ≤ circSum i m) (h1 : circSum i m < 4294967296) :
    ((i + m).toNat : Int) = i.toNat + m.toInt := by
  unfold circSum at h0 h1
  rw [BitVec.toInt_eq_toNat_cond] at *
  rw [BitVec.toNat_add]
  split at * <;> omega

/-- A circular update keeps the index in its buffer, and differs from the sum by the length at most once (20_memory.md
R173). -/
theorem circUpdate_inside {i b l m : W32} (h : circOk i b l m = true) (hb : b.toNat ≤ i.toNat)
    (hl : i.toNat < b.toNat + l.toNat) :
    b.toNat ≤ (circUpdate i b l m).toNat ∧ (circUpdate i b l m).toNat < b.toNat + l.toNat ∧
      (((circUpdate i b l m).toNat : Int) = i.toNat + m.toInt ∨
        ((circUpdate i b l m).toNat : Int) = i.toNat + m.toInt - l.toNat ∨
        ((circUpdate i b l m).toNat : Int) = i.toNat + m.toInt + l.toNat) := by
  simp only [circOk, Bool.and_eq_true, decide_eq_true_eq] at h
  obtain ⟨⟨⟨⟨hm, hl2⟩, h0⟩, h1⟩, htop⟩ := h
  have sum := toNat_add_of_toInt h0 h1
  unfold circUpdate circWraps circSum
  by_cases hp : m.toInt ≥ 0
  · simp only [hp, if_true, decide_eq_true_eq]
    split
    · have := BitVec.toNat_sub (i + m) l
      omega
    · omega
  · simp only [hp, if_false, decide_eq_true_eq]
    split
    · have := BitVec.toNat_add (i + m) l
      omega
    · omega

/-- Settles O39: each instruction is the update of its index register, and the update is one on numbers. -/
theorem modifyCompletes : Obligations.ModifyCompletes := by
  refine ⟨?_, fun i b l m => circUpdate_inside⟩
  intro g i m c k v s h hc hk w n
  refine ⟨h.modify_taken hc hk g i m, h.modify_skipped hc hk g i m, h.modifyImm_ends, ?_⟩
  have run := h.exec_bitrev g i v
  split
  · next hr =>
    obtain ⟨u, hu, ha⟩ := h.ends (t := s.begun.setDagReg .i n (rev32 (s.dagReg .i n + v))) (State.setDagReg_seq ..)
    exact ⟨_, u, by rw [run, if_pos ((bitrev_ready_iff ..).2 hr), hu], fun j hj => getLsbD_rev32 _ hj, ha⟩
  · next hr => rw [run, if_neg (mt (bitrev_ready_iff ..).1 hr)]

end Sys2Proof.Machine
end

section
/-!
PROOF. What a data access of the core can touch beside memory, the address registers and the registers it loads: the
instruction cache, the reports in STKYx and the latches, the I/O processor, and what is given to the environment. One lemma
per operation.
-/
namespace Sys2Proof.Machine

/-- From `t` to `u` only the instruction cache, STKYx, the latches, the notes for the next instruction, the outputs and the
I/O processor differ, and of this one ELAST alone unless `reg`: a register of it is accessed. -/
structure Touched (reg : Prop) (t u : State) : Prop where
  rest : u = { t with
    seq := { t.seq with cache := u.seq.cache, cachedFaddr := u.seq.cachedFaddr }
    reg := { t.reg with stkyx := u.reg.stkyx, irptl := u.reg.irptl, lirptl := u.reg.lirptl }
    iop := u.iop
    recent := u.recent
    outputs := u.outputs }
  iop : ¬ reg → u.iop = { t.iop with elast := u.iop.elast }

/-- Every answer that satisfies `P` where it is known to be one. -/
theorem Run.sat_bind_eq {α β : Type} {r : Run α} {f : α → Run β} {Q : β → Prop}
    (hf : ∀ a, r = .ok a → Run.Sat (f a) Q) : Run.Sat (r >>= f) Q :=
  Run.sat_bind (P := fun a => r = .ok a) (fun _ h => h) hf

namespace Touched

variable {p q : Prop} {s t u : State}

theorem refl (t : State) : Touched p t t := ⟨rfl, fun _ => rfl⟩

theorem trans (h : Touched p s t) (g : Touched p t u) : Touched p s u where
  rest := by rw [g.rest, h.rest]
  iop hp := by rw [g.iop hp, h.iop hp]

theorem mono (h : Touched p s t) (hpq : p → q) : Touched q s t := ⟨h.rest, fun hq => h.iop (mt hpq hq)⟩

/-- An access that leaves the I/O processor is one of any kind. -/
theorem of_false (h : Touched False s t) : Touched p s t := h.mono False.elim

theorem recent (h : Touched p s t) (r : Recent) : Touched p s { t with recent := r } :=
  h.trans ⟨rfl, fun _ => rfl⟩

theorem output (h : Touched p s t) (o : Output) : Touched p s (t.output o) := h.trans ⟨rfl, fun _ => rfl⟩

theorem withCache (h : Touched p s t) (c : Vector (List CacheEntry) 16) (f : Option W48) : Touched p s (t.withCache c f) :=
  h.trans ⟨rfl, fun _ => rfl⟩

theorem stkyxOr (h : Touched p s t) (v : W32) : Touched p s (t.stkyxOr v) := h.trans ⟨rfl, fun _ => rfl⟩

theorem setLatch (h : Touched p s t) (k : Irq) (b : Bool) : Touched p s (t.setLatch k b) := by
  refine h.trans ?_
  unfold State.setLatch
  split <;> exact ⟨rfl, fun _ => rfl⟩

theorem ite {c : Prop} [Decidable c] (h : Touched p s t) (g : Touched p s u) : Touched p s (if c then t else u) := by
  split <;> assumption

theorem occur (h : Touched p s t) (k : Irq) : Touched p s (t.occur k) := ite h (h.setLatch k true)

theorem occurIf (h : Touched p s t) (b : Bool) (k : Irq) : Touched p s (t.occurIf b k) := ite (h.occur k) h

theorem elast (h : Touched p s t) (a : W32) : Touched p s (t.mapIop fun i => { i with elast := a }) :=
  h.trans ⟨rfl, fun _ => rfl⟩

theorem touchExt (h : Touched p s t) (a : W32) : Touched p s (t.touchExt a) := ite ((h.elast a).recent _) h

theorem sameAccess (h : Touched p s t) (v : State) : Touched p s (v.sameAccess t) := (h.elast _).recent _

theorem send (h : Touched p s t) (l : Loc) (v : W64) (w : Option W64) : Touched p s (t.send l v w) := by
  unfold State.send
  split
  · exact h
  · split
    · exact h.output _
    · exact ite ((h.output _).output _) (h.output _)

theorem setIop (h : Touched True s t) (i : Iop) : Touched True s { t with iop := i } :=
  h.trans ⟨rfl, fun hp => absurd trivial hp⟩

theorem mapIop (h : Touched True s t) (f : Iop → Iop) : Touched True s (t.mapIop f) := h.setIop _

theorem mapChan (h : Touched True s t) (c : Fin 14) (f : Channel → Channel) : Touched True s (t.mapChan c f) := h.setIop _

theorem dequeue (h : Touched True s t) (c : Fin 14) (v : W64) : Touched True s (t.dequeue c v) := h.mapChan c _

theorem mapSport (h : Touched True s t) (x : Fin 2) (f : Sport → Sport) : Touched True s (t.mapSport x f) := h.setIop _

theorem wrapNoted {b : W32} (h : Touched p s t) (g : WrapNoted b t u) : Touched p s u := by
  refine h.trans ?_
  rw [g.rest]
  exact ⟨rfl, fun _ => rfl⟩

end Touched

variable {s t : State}

/-! ### Registers and buffers of the I/O processor -/

theorem coreEnqueue_touched (c : Fin 14) (v : W64) : Run.Sat (s.coreEnqueue c v) (Touched True s) := by
  unfold State.coreEnqueue
  refine Run.sat_ite (fun _ => Run.sat_ok ((Touched.refl s).mapChan c _)) fun _ => ?_
  exact Run.sat_ite (fun _ => Run.sat_ok ((Touched.refl s).mapChan c _)) fun _ => Run.sat_error

theorem coreDequeue_touched (c : Fin 14) : Run.Sat (s.coreDequeue c) fun p => Touched True s p.2 := by
  unfold State.coreDequeue
  split
  · exact Run.sat_ok ((Touched.refl s).dequeue c _)
  · exact Run.sat_ite (fun _ => Run.sat_ok (Touched.refl s)) fun _ => Run.sat_error

theorem iopRead_touched (r : IopReg) (free : W32) : Run.Sat (s.iopRead r free) fun p => Touched True s p.2 := by
  have buffer (c : Fin 14) : Run.Sat (do let (v, t) ← s.coreDequeue c; .ok (narrow v free, t)) fun p : W32 × State =>
      Touched True s p.2 := Run.sat_bind (coreDequeue_touched c) fun _ hp => Run.sat_ok hp
  unfold State.iopRead
  split
  · exact buffer _
  · exact buffer _
  · exact buffer _
  · split
    · exact Run.sat_bind (coreDequeue_touched _) fun _ hp => Run.sat_ok hp
    · exact Run.sat_error
  · exact Run.sat_ok (Touched.refl s)

theorem writeLctl_touched (first : Fin 6) (v : W32) : Run.Sat (s.writeLctl first v) (Touched True s) := by
  have group (t : State) (b : Fin 6) (o k : BitVec 10) : Run.Sat (t.writeLinkGroup b o k) (Touched True t) :=
    Run.sat_seq fun _ => Run.sat_seq fun _ => Run.sat_ok ((Touched.refl t).mapIop _)
  refine Run.sat_seq fun _ => Run.sat_bind (group _ _ _ _) fun a ha => ?_
  refine Run.sat_bind (group _ _ _ _) fun b hb => Run.sat_bind (group _ _ _ _) fun c hc => ?_
  exact Run.sat_seq fun _ => Run.sat_ok (((ha.trans hb).trans hc).mapIop _)

theorem quietSport_touched (x : Fin 2) (p : Sport) (tx : Bool) : Touched True s (s.quietSport x p tx) := by
  have sent : Touched True s (if s.iop.sport[x].txOn || !(tx || p.txOn) then s else
      (s.mapChan (txChan x) Channel.clear).mapSport x fun p =>
        { p with chnl := 0, tuvf := false, halfSent := false, sentOnce := false }) :=
    Touched.ite (Touched.refl s) (((Touched.refl s).mapChan _ _).mapSport _ _)
  exact Touched.ite sent ((sent.mapChan _ _).mapSport _ _)

theorem writeSp_touched (x : Fin 2) (r : SpReg) (v : W32) : Run.Sat (s.writeSp x r v) (Touched True s) := by
  have ctl (tx : Bool) : Run.Sat (s.writeSpCtl x tx v) (Touched True s) :=
    Run.sat_seq fun _ => Run.sat_seq fun _ => Run.sat_seq fun _ =>
      Run.sat_ok (((((Touched.refl s).mapSport _ _).mapChan _ _).trans (quietSport_touched x _ tx)).occurIf _ _)
  unfold State.writeSp
  cases r with
  | stctl => exact ctl true
  | srctl => exact ctl false
  | tx => exact Run.sat_bind (coreEnqueue_touched _ _) fun _ ht => Run.sat_ok (ht.occurIf _ _)
  | rx =>
    show Run.Sat (s.writeRx x v) _
    unfold State.writeRx
    split
    · exact coreEnqueue_touched _ _
    · exact Run.sat_error
  | _ => exact Run.sat_ok ((Touched.refl s).mapSport _ _)

theorem iopWrite_touched (core : Bool) (r : IopReg) (v : W32) : Run.Sat (s.iopWrite core r v) (Touched True s) := by
  have one (f : Iop → Iop) : Touched True s (s.mapIop f) := (Touched.refl s).mapIop f
  have noted (b : Bool) (f : Iop → Iop) (q : Recent) :
      Touched True s (if b then { s.mapIop f with recent := q } else s.mapIop f) := Touched.ite ((one f).recent q) (one f)
  unfold State.iopWrite
  cases r with
  | syscon => exact Run.sat_seq fun _ => Run.sat_ok (noted _ _ _)
  | virpt => exact Run.sat_ok (Touched.ite (one _) (((one _).setLatch _ _).mapIop _))
  | wait => exact Run.sat_seq fun _ => Run.sat_ok (noted _ _ _)
  | epb n => exact coreEnqueue_touched _ _
  | dmac n =>
    exact Run.sat_seq fun _ => Run.sat_seq fun _ => Run.sat_seq fun _ => Run.sat_seq fun _ => Run.sat_seq fun _ =>
      Run.sat_ok (noted _ _ _)
  | bmax => exact Run.sat_seq fun _ => Run.sat_seq fun _ => Run.sat_ok (one _)
  | bcnt => exact Run.sat_seq fun _ => Run.sat_ok (one _)
  | param c p => exact Run.sat_seq fun _ => Run.sat_ok ((Touched.refl s).mapChan c _)
  | lbuf b => exact coreEnqueue_touched _ _
  | lctl0 => exact writeLctl_touched _ _
  | lctl1 => exact writeLctl_touched _ _
  | lcom => exact Run.sat_seq fun _ => Run.sat_seq fun _ => Run.sat_ok (one _)
  | lar => exact Run.sat_seq fun _ => Run.sat_seq fun _ => Run.sat_seq fun _ => Run.sat_ok (one _)
  | lsrq => exact Run.sat_seq fun _ => Run.sat_ok (one _)
  | sp x q => exact writeSp_touched _ _ _
  | elast => exact Run.sat_ok ((one _).recent _)
  | systat | pcShdw | mode2Shdw | dmastat => exact Run.sat_ok (Touched.refl s)
  | msgr | emu | mesh => exact Run.sat_ok (one _)

end Sys2Proof.Machine
end

section
/-!
PROOF. One memory access of the core: the bytes a store writes, the registers a load names, and what both leave alone.
-/
namespace Sys2Proof.Machine

variable {p : Prop} {s t u v : State}

/-! ### Bytes -/

theorem Mem.byte_put_ne {k a : Nat} (b : BitVec 8) (h : a ≠ k) (m : Mem) : (m.put k b).byte a = m.byte a := by
  induction m with
  | nil => unfold Mem.put; split <;> simp [Mem.byte, h.symm]
  | cons e m ih =>
    obtain ⟨c, d⟩ := e
    unfold Mem.put
    split
    · split <;> simp [Mem.byte, h.symm]
    · split
      · next hc => split <;> simp [Mem.byte, h.symm, ← hc]
      · simp [Mem.byte, ih]

/-- A store leaves the bytes outside its word, whether memory is in canonical form or not. -/
theorem Mem.byte_store_of_outside {l : Loc} {k : Nat} (m : Mem) (v : Nat) (h : l.Outside k) :
    (m.store l.bytes.1 l.bytes.2 v).byte k = m.byte k := by
  have run (n : Nat) : ∀ (j v : Nat), ¬ (j ≤ k ∧ k < j + n) → (m.store j n v).byte k = m.byte k := by
    induction n with
    | zero => intro j v _; rfl
    | succ n ih =>
      intro j v hk
      rw [Mem.store, Mem.byte_put_ne _ (by omega), ih _ _ (by omega)]
  exact run _ _ _ h

/-! ### Words -/

namespace Touched

theorem mem (h : Touched p t u) : u.mem = t.mem := by rw [h.rest]

theorem shadow1 (h : Touched p t u) : u.shadow1 = t.shadow1 := by rw [h.rest]

end Touched

/-- From `t` to `u` memory has become `m`, the shadow write FIFO may differ, and else only what an access can touch does. -/
def MemTouched (p : Prop) (m : Mem) (t u : State) : Prop := Touched p { t with mem := m, shadow1 := u.shadow1 } u

namespace MemTouched

variable {m n : Mem}

theorem of_touched (h : Touched p t u) : MemTouched p t.mem t u := by
  unfold MemTouched
  rw [h.shadow1]
  exact h

theorem mem (h : MemTouched p m t u) : u.mem = m := Touched.mem h

theorem touched (h : MemTouched p m t u) (g : Touched p u v) : MemTouched p m t v := by
  unfold MemTouched
  rw [g.shadow1]
  exact Touched.trans h g

theorem trans (h : MemTouched p m t u) (g : MemTouched p n u v) : MemTouched p n t v where
  rest := by rw [Touched.rest g, Touched.rest h]
  iop hp := by rw [Touched.iop g hp, Touched.iop h hp]

theorem of_false (h : MemTouched False m t u) : MemTouched p m t u := Touched.of_false h

theorem mono {q : Prop} (h : MemTouched p m t u) (hpq : p → q) : MemTouched q m t u := Touched.mono h hpq

end MemTouched

theorem State.readWord_touched (s t : State) (l : Loc) (site : Nat) :
    Run.Sat (s.readWord t l site) fun p => Touched False t p.2 := by
  unfold State.readWord
  split
  · exact Run.sat_seq fun _ => Run.sat_ok (Touched.refl t)
  · exact Run.sat_seq fun _ => Run.sat_ok ((Touched.refl t).touchExt _)
  · exact Run.sat_seq fun _ => Run.sat_ok (Touched.refl t)
  · exact Run.sat_ok (Touched.refl t)
  · exact Run.sat_ok (Touched.refl t)

/-- A word that has no bytes in memory leaves memory as it is. -/
theorem State.memTouched_noBytes {l : Loc} (v : W64) (h : l.bytes = (0, 0)) :
    MemTouched False (t.mem.store l.bytes.1 l.bytes.2 v.toNat) t t := by
  rw [h]
  exact MemTouched.of_touched (Touched.refl t)

theorem State.writeWord_touched (s t : State) (l : Loc) (v : W64) :
    Run.Sat (s.writeWord t l v) (MemTouched False (t.mem.store l.bytes.1 l.bytes.2 v.toNat) t) := by
  unfold State.writeWord
  split
  · next f hf =>
    have hb : l.bytes = (colKey f, l.width / 8) := by simp [Loc.bytes, hf]
    have stored : MemTouched False (t.mem.store l.bytes.1 l.bytes.2 v.toNat) t
        { t with mem := t.mem.store (colKey f) (l.width / 8) v.toNat
                 shadow1 := ⟨f, l.width / 16, l.width == 48⟩ :: t.shadow1 } := by rw [hb]; exact Touched.refl _
    refine Run.sat_seq fun _ => ?_
    exact Run.sat_ite (fun _ => Run.sat_seq fun _ => Run.sat_ok stored) fun _ => Run.sat_ok stored
  · next hl =>
    have hb : l.bytes = (extKey l.addr, l.width / 8) := by simp [Loc.bytes, hl]
    have stored : MemTouched False (t.mem.store l.bytes.1 l.bytes.2 v.toNat) t
        { t with mem := t.mem.store (extKey l.addr) (l.width / 8) v.toNat } := by rw [hb]; exact Touched.refl _
    exact Run.sat_seq fun _ => Run.sat_ok (stored.touched ((Touched.refl _).touchExt _))
  · next hl => exact Run.sat_seq fun _ => Run.sat_ok (State.memTouched_noBytes v (by simp [Loc.bytes, hl]))
  · next hl => exact Run.sat_ok (State.memTouched_noBytes v (by simp [Loc.bytes, hl]))
  · next hl => exact Run.sat_ok (State.memTouched_noBytes v (by simp [Loc.bytes, hl]))

theorem State.readIop_touched (s t : State) (a : BitVec 8) (px pair : Bool) :
    Run.Sat (s.readIop t a px pair) fun p => Touched True t p.2.2 := by
  refine Run.sat_seq fun r => ?_
  dsimp only
  refine Run.sat_ite (fun _ => ?_) fun _ => ?_
  · exact Run.sat_bind (iopRead_touched _ _) fun p hp => Run.sat_ok hp
  · exact Run.sat_bind (coreDequeue_touched _) fun p hp => Run.sat_ok hp

theorem State.writeIop_touched (s t : State) (a : BitVec 8) (px pair : Bool) (f : Nat → W64) :
    Run.Sat (s.writeIop t a px pair f) (Touched True t) := by
  refine Run.sat_seq fun r => ?_
  dsimp only
  refine Run.sat_ite (fun _ => ?_) fun _ => ?_
  · exact Run.sat_bind (iopWrite_touched _ _ _) fun _ o => Run.sat_ok (o.recent _)
  · exact Run.sat_bind (coreEnqueue_touched _ _) fun _ o => Run.sat_ok (o.recent _)

/-! ### Stores -/

theorem State.storeReg_touched (s t : State) (d : Datum) (l : Loc) (lw : Bool) :
    Run.Sat (s.storeReg t d l lw) (Touched True t) := by
  unfold State.storeReg
  dsimp only
  split
  · next r _ =>
    have put : Run.Sat (do
        let w ← regWidth r d.isPx (lw && s.simd && d.pairs)
        s.datumReady d w
        let u ← s.writeIop t r d.isPx (lw && s.simd && d.pairs) (s.datumWord d)
        .ok (u.send { l with width := w } (s.datumWord d w) none)) (Touched True t) :=
      Run.sat_seq fun w => Run.sat_seq fun _ => Run.sat_bind (s.writeIop_touched t _ _ _ _) fun u hu =>
        Run.sat_ok (hu.send _ _ _)
    exact Run.sat_ite (fun _ => Run.sat_seq fun _ => put) fun _ => put
  · exact Run.sat_seq fun _ => Run.sat_seq fun _ => Run.sat_seq fun _ => Run.sat_ok ((Touched.refl t).output _)
  · exact Run.sat_ok (Touched.refl t)

/-- Memory `m` with the explicit word of a store at `l` stored, if it is. -/
def State.explicitMem (s : State) (m : Mem) (d : Datum) (l : Loc) (g : Gate) : Mem :=
  if g.x then m.store l.bytes.1 l.bytes.2 (s.datumWord d l.width).toNat else m

/-- Memory `m` with the words of a store at `l` stored: the explicit one and, if there is one, the implicit one. -/
def State.storedMem (s : State) (m : Mem) (d : Datum) (l : Loc) (g : Gate) (explicitOnly : Bool) : Mem :=
  if l.place.isReg then m
  else
    match s.implicitDatum d l g explicitOnly, s.implicitLoc l with
    | some c, .ok k => (s.explicitMem m d l g).store k.bytes.1 k.bytes.2 (s.datumWord c l.width).toNat
    | _, _ => s.explicitMem m d l g

theorem State.simd_of_implicitDatum {d c : Datum} {l : Loc} {g : Gate} {e : Bool} (h : s.implicitDatum d l g e = some c) :
    s.simd = true := by
  unfold State.implicitDatum at h
  split at h
  · simp_all
  · cases h

/-- A store leaves the bytes outside its words. -/
theorem State.byte_storedMem {a : W32} {px lw : Bool} {l : Loc} {k : Nat} (hl : s.locate a px lw = .ok l)
    (ho : s.OutsideStore a px lw k) (m : Mem) (d : Datum) (g : Gate) (e : Bool) :
    (s.storedMem m d l g e).byte k = m.byte k := by
  obtain ⟨explicit, implicit⟩ := ho l hl
  have first : (s.explicitMem m d l g).byte k = m.byte k := by
    unfold State.explicitMem
    split
    · exact Mem.byte_store_of_outside m _ explicit
    · rfl
  unfold State.storedMem
  split
  · rfl
  · split
    · next c j hc hj => rw [Mem.byte_store_of_outside _ _ (implicit (s.simd_of_implicitDatum hc) j hj), first]
    · exact first

theorem State.store_touched (s t : State) (d : Datum) (a : W32) (lw : Bool) (g : Gate) (e : Bool) :
    Run.Sat (s.store t d a lw g e) fun u => ∃ l, s.locate a d.isPx lw = .ok l ∧
      MemTouched (l.place.isReg = true) (s.storedMem t.mem d l g e) t u := by
  refine Run.sat_bind_eq fun l hl => ?_
  refine Run.sat_mono (P := MemTouched (l.place.isReg = true) (s.storedMem t.mem d l g e) t) ?_ fun u hu => ⟨l, hl, hu⟩
  dsimp only
  refine Run.sat_ite (fun hr => ?_) fun hr => Run.sat_seq fun _ => ?_
  · refine Run.sat_mono (s.storeReg_touched t d l lw) fun u hu => ?_
    simpa [State.storedMem, hr] using MemTouched.of_touched (hu.mono fun _ => hr)
  have implicit (w : State) (hw : MemTouched False (s.explicitMem t.mem d l g) t w) : Run.Sat
      (match s.implicitDatum d l g e with
      | some c => do
        s.datumReady c l.width
        let m ← s.implicitLoc l
        let t2 ← s.writeWord w m (s.datumWord c l.width)
        .ok ((w.sameAccess t2).send l (s.datumWord d l.width) (some (s.datumWord c l.width)))
      | none => .ok (w.send l (s.datumWord d l.width) none)) (MemTouched False (s.storedMem t.mem d l g e) t) := by
    unfold State.storedMem
    rw [if_neg hr]
    split
    · next c hc =>
      refine Run.sat_seq fun _ => Run.sat_bind_eq fun k hk => Run.sat_bind (s.writeWord_touched w k _) fun x hx =>
        Run.sat_ok ?_
      rw [hw.mem] at hx
      simpa only [hc, hk] using (hw.trans hx).touched (((Touched.refl x).sameAccess w).send _ _ _)
    · next hc =>
      refine Run.sat_ok ?_
      simpa only [hc] using hw.touched ((Touched.refl w).send _ _ _)
  refine Run.sat_mono ?_ fun u hu => MemTouched.of_false hu
  refine Run.sat_ite (fun hg => Run.sat_seq fun _ => ?_) fun hg => implicit t ?_
  · refine Run.sat_bind (s.writeWord_touched t l _) fun w hw => implicit w ?_
    simpa [State.explicitMem, hg] using hw
  · simpa [State.explicitMem, hg] using MemTouched.of_touched (Touched.refl t)

/-! ### Loads -/

/-- The words go to a register or to its complement. -/
def LoadsTo (r : UReg) (xs : List Loaded) : Prop := ∀ x ∈ xs, x.u = r ∨ r.comp = some x.u

theorem loadsTo_nil (r : UReg) : LoadsTo r [] := fun _ h => absurd h List.not_mem_nil

theorem loadsTo_one (r : UReg) (w : Nat) (v : W64) : LoadsTo r [⟨r, w, v⟩] := by
  intro x hx
  rw [List.mem_singleton.1 hx]
  exact .inl rfl

theorem LoadsTo.comp {r c : UReg} {xs : List Loaded} (h : LoadsTo r xs) (hc : r.comp = some c) (w : Nat) (v : W64) :
    LoadsTo r (xs ++ [⟨c, w, v⟩]) := by
  intro x hx
  rcases List.mem_append.1 hx with hx | hx
  · exact h x hx
  · rw [List.mem_singleton.1 hx]
    exact .inr hc

theorem loadsTo_loadedBy (r : UReg) (w : Nat) (v : W64) (gates : Bool × Bool) : LoadsTo r (loadedBy r w v gates) := by
  have first : LoadsTo r (if gates.1 then [⟨r, w, v⟩] else []) := by
    split
    · exact loadsTo_one r w v
    · exact loadsTo_nil r
  unfold loadedBy
  cases hc : (if gates.2 then r.comp else none) with
  | none => simpa only [hc, List.append_nil] using first
  | some c => exact first.comp (Option.ite_none_right_eq_some.1 hc).2 w v

theorem State.comp_of_implicitReg {r c : UReg} {l : Loc} {g : Gate} {e : Bool} (h : s.implicitReg r l g e = some c) :
    r.comp = some c := by
  unfold State.implicitReg at h
  split at h
  · exact h
  · cases h

theorem State.loadReg_touched (s t : State) (l : Loc) (px pair : Bool) (site : Nat) :
    Run.Sat (s.loadReg t l px pair site) fun p => Touched True t p.2.2 := by
  unfold State.loadReg
  split
  · exact s.readIop_touched t _ _ _
  · exact Run.sat_seq fun _ => Run.sat_seq fun _ => Run.sat_ok (Touched.refl t)
  · exact Run.sat_ok (Touched.refl t)

theorem State.loadIop_touched (s t : State) (r : UReg) (l : Loc) (lw : Bool) (gates : Bool × Bool) (site : Nat) :
    Run.Sat (s.loadIop t r l lw gates site) fun p => Touched True t p.2 ∧ LoadsTo r p.1 :=
  Run.sat_bind (s.loadReg_touched t l _ _ _) fun _ hp => Run.sat_seq fun _ => Run.sat_ok ⟨hp, loadsTo_loadedBy _ _ _ _⟩

theorem State.loadBoth_touched (s t : State) (r : UReg) (l : Loc) (gates : Bool × Bool) (site : Nat) :
    Run.Sat (s.loadBoth t r l gates site) fun p => Touched False t p.2 ∧ LoadsTo r p.1 :=
  Run.sat_bind (s.readWord_touched t l site) fun _ hp => Run.sat_seq fun _ => Run.sat_ok ⟨hp, loadsTo_loadedBy _ _ _ _⟩

theorem State.loadEach_touched (s t : State) (r : UReg) (l : Loc) (g : Gate) (e : Bool) (site : Nat) :
    Run.Sat (s.loadEach t r l g e site) fun p => Touched False t p.2 ∧ LoadsTo r p.1 := by
  have implicit (xs : List Loaded) (w : State) (hx : LoadsTo r xs) (hw : Touched False t w) : Run.Sat
      (match s.implicitReg r l g e with
      | some c => do
        s.mayWrite c
        let m ← s.implicitLoc l
        let (v, t2) ← s.readWord w m (site + 1)
        .ok (xs ++ [⟨c, l.width, v⟩], w.sameAccess t2)
      | none => .ok (xs, w) : Run (List Loaded × State)) fun p => Touched False t p.2 ∧ LoadsTo r p.1 := by
    split
    · next c hc =>
      exact Run.sat_seq fun _ => Run.sat_seq fun k => Run.sat_bind (s.readWord_touched w k _) fun p hp =>
        Run.sat_ok ⟨(hw.trans hp).sameAccess w, hx.comp (s.comp_of_implicitReg hc) _ _⟩
    · exact Run.sat_ok ⟨hw, hx⟩
  refine Run.sat_ite (fun _ => Run.sat_seq fun _ => ?_) fun _ => implicit [] t (loadsTo_nil r) (Touched.refl t)
  exact Run.sat_bind (s.readWord_touched t l site) fun p hp => implicit _ p.2 (loadsTo_one _ _ _) hp

theorem State.load_touched (s t : State) (r : UReg) (a : W32) (lw b : Bool) (g : Gate) (e : Bool) (site : Nat) :
    Run.Sat (s.load t r a lw b g e site) fun p =>
      (∃ l, s.locate a (r == .px) lw = .ok l ∧ Touched (l.place.isReg = true) t p.2) ∧ LoadsTo r p.1 := by
  refine Run.sat_bind_eq fun l hl => ?_
  refine Run.sat_mono (P := fun p => Touched (l.place.isReg = true) t p.2 ∧ LoadsTo r p.1) ?_
    fun p hp => ⟨⟨l, hl, hp.1⟩, hp.2⟩
  dsimp only
  have memory (gates : Bool × Bool) : Run.Sat (if b then s.loadBoth t r l gates site else s.loadEach t r l g e site)
      fun p => Touched (l.place.isReg = true) t p.2 ∧ LoadsTo r p.1 :=
    Run.sat_mono (Run.sat_ite (fun _ => s.loadBoth_touched t r l gates site) fun _ => s.loadEach_touched t r l g e site)
      fun _ hp => ⟨hp.1.of_false, hp.2⟩
  refine Run.sat_ite (fun hr => ?_) fun _ => Run.sat_seq fun _ => ?_
  · exact Run.sat_mono (s.loadIop_touched t r l lw _ site) fun _ hp => ⟨hp.1.mono fun _ => hr, hp.2⟩
  · exact Run.sat_ite (fun _ => Run.sat_seq fun _ => memory _) fun _ => memory _

/-! ### A memory move -/

theorem State.pmAccess_touched (s t : State) : Run.Sat (s.pmAccess t) (Touched False t) := by
  refine Run.sat_seq fun _ => Run.sat_ite (fun _ => Run.sat_ok (Touched.refl t)) fun _ => ?_
  dsimp only
  split
  · exact Run.sat_ok ((Touched.refl t).withCache _ _)
  · split
    · exact Run.sat_ite (fun _ => Run.sat_ok (Touched.refl t)) fun _ =>
        Run.sat_ok ((Touched.refl t).withCache _ t.seq.cachedFaddr)
    · exact Run.sat_ok (Touched.refl t)

/-- The state `t` with the index update of an address mode. -/
def State.postModified (s t : State) : AddrMode → State
  | .post i d => t.setDagReg .i i (s.indexAfter i (s.modifier d) false)
  | _ => t

theorem State.updateIndex_eq (s t : State) (i : Reg) (m : W32) (always : Bool) :
    Run.Sat (s.updateIndex t i m always) (· = t.setDagReg .i i (s.indexAfter i m always)) := by
  have last : Run.Sat (do
      need (!s.circular i always || circOk (s.dagReg .i i) (s.dagReg .b i) (s.dagReg .l i) m) .circularBufferRange
      .ok (t.setDagReg .i i (s.indexAfter i m always))) (· = t.setDagReg .i i (s.indexAfter i m always)) :=
    Run.sat_seq fun _ => Run.sat_ok rfl
  exact Run.sat_seq fun _ => Run.sat_ite (fun _ => Run.sat_seq fun _ => last) fun _ => last

theorem State.postModify_eq (s t : State) (m : AddrMode) : Run.Sat (s.postModify t m) (· = s.postModified t m) := by
  cases m with
  | post i d => exact s.updateIndex_eq t i _ false
  | direct a => exact Run.sat_ok rfl
  | pre i d => exact Run.sat_ok rfl

theorem State.detect_touched (s t : State) (a : W32) (lw : Bool) : Run.Sat (s.detect t a lw) (Touched False t) :=
  Run.sat_seq fun _ => Run.sat_seq fun _ => Run.sat_ok ((Touched.refl t).stkyxOr _)

theorem State.postReport_touched (s t : State) (m : AddrMode) : Touched False t (s.postReport t m) := by
  unfold State.postReport
  split
  · exact (Touched.refl t).wrapNoted (wrapNoted_reportWrap s t _ _ _)
  · exact Touched.refl t

/-- The reports of a memory move touch the sticky bits and the latches. -/
theorem State.report_touched (s t : State) (m : MemMove) (g : Gate) : Run.Sat (s.report t m g) (Touched False t) := by
  refine Run.sat_ite (fun _ => Run.sat_ok (Touched.refl t)) fun _ => Run.sat_seq fun a => ?_
  dsimp only
  refine Run.sat_ite (fun _ => ?_) fun _ => Run.sat_ok (s.postReport_touched t _)
  exact Run.sat_bind (s.detect_touched t a m.lw) fun w hw => Run.sat_ok (hw.trans (s.postReport_touched w _))

/-- The word at the address of a memory move is a register of an I/O processor. -/
def State.HitsReg (s : State) (m : MemMove) : Prop :=
  ∃ a l, s.address m.mode = .ok a ∧ s.locate a m.px m.lw = .ok l ∧ l.place.isReg = true

/-- A byte that a memory move does not write: any byte for a load, one outside its words for a store. -/
def State.Spares (s : State) (m : MemMove) (k : Nat) : Prop :=
  m.isStore = true → ∀ a, s.address m.mode = .ok a → s.OutsideStore a m.px m.lw k

/-- What a memory move can make of the state `t`, with the words `xs` for the registers. -/
structure MemMoved (s : State) (m : MemMove) (t : State) (xs : List Loaded) (u : State) : Prop where
  access : ∃ v, MemTouched (s.HitsReg m) v.mem t v ∧ (u = v ∨ u = s.postModified v m.mode)
  byte : ∀ k, s.Spares m k → u.mem.byte k = t.mem.byte k
  mem : m.isStore = false → u.mem = t.mem
  loads : ∀ x ∈ xs, ∃ r, m.op = .load r ∧ (x.u = r ∨ r.comp = some x.u)

@[simp] theorem State.postModified_mem (m : AddrMode) : (s.postModified t m).mem = t.mem := by
  cases m <;> simp [State.postModified]

theorem MemMoved.refl (s : State) (m : MemMove) (t : State) : MemMoved s m t [] t :=
  ⟨⟨t, .of_touched (.refl t), .inl rfl⟩, fun _ _ => rfl, fun _ => rfl, fun _ h => absurd h List.not_mem_nil⟩

/-- What comes before the access of a memory move touches no memory. -/
theorem MemMoved.after {m : MemMove} {xs : List Loaded} (h : Touched False t v) (g : MemMoved s m v xs u) :
    MemMoved s m t xs u := by
  obtain ⟨⟨w, hw, hu⟩, hb, hm, hl⟩ := g
  exact ⟨⟨w, (MemTouched.of_touched h.of_false).trans hw, hu⟩, fun k hk => by rw [hb k hk, h.mem],
    fun hs => by rw [hm hs, h.mem], hl⟩

theorem MemMoved.modified {m : MemMove} {xs : List Loaded} (h : MemMoved s m t xs u)
    (ht : MemTouched (s.HitsReg m) u.mem t u) : MemMoved s m t xs (s.postModified u m.mode) :=
  ⟨⟨u, ht, .inr rfl⟩, fun k hk => by rw [State.postModified_mem, h.byte k hk],
    fun hs => by rw [State.postModified_mem, h.mem hs], h.loads⟩

/-- A memory move makes no more of a state than that. -/
theorem State.memMove_sat (s t : State) (m : MemMove) (g : Gate) (e : Bool) (site : Nat) :
    Run.Sat (s.memMove t m g e site) fun p => MemMoved s m t p.1 p.2 := by
  refine Run.sat_ite (fun _ => Run.sat_ok (.refl s m t)) fun _ => Run.sat_seq fun _ => Run.sat_bind_eq fun a ha =>
    Run.sat_seq fun _ => ?_
  refine Run.sat_ite (fun _ => Run.sat_ok (.refl s m t)) fun _ => Run.sat_seq fun _ => ?_
  have post (xs : List Loaded) (v w : State) (h : MemMoved s m v xs w) (hw : MemTouched (s.HitsReg m) w.mem v w) :
      Run.Sat (do
        let t3 ← s.postModify w m.mode
        .ok (xs, t3) : Run (List Loaded × State)) fun p => MemMoved s m v p.1 p.2 :=
    Run.sat_bind (s.postModify_eq w m.mode) fun _ hx => Run.sat_ok (hx ▸ h.modified hw)
  have hits {l : Loc} {px : Bool} (hp : m.px = px) (hl : s.locate a px m.lw = .ok l) (hr : l.place.isReg = true) :
      s.HitsReg m := ⟨a, l, ha, hp ▸ hl, hr⟩
  have access (v : State) : Run.Sat (do
      let (xs, t2) ← match m.op with
        | .load u => do
          s.useMode1 (broadcastMask m.mode)
          s.load v u a m.lw (broadcastBy s.reg.mode1 u m.mode) g e site
        | .store d => do
          let t2 ← s.store v d a m.lw g e
          .ok (([] : List Loaded), t2)
      let t3 ← s.postModify t2 m.mode
      .ok (xs, t3) : Run (List Loaded × State)) fun p => MemMoved s m v p.1 p.2 := by
    dsimp only
    split
    · next r hop =>
      have hp : m.px = (r == .px) := by simp [MemMove.px, hop]
      refine Run.sat_seq fun _ => Run.sat_bind (s.load_touched v r a m.lw _ g e site) fun p hp' => ?_
      obtain ⟨⟨l, hl, hv⟩, hx⟩ := hp'
      have ht : MemTouched (s.HitsReg m) v.mem v p.2 := .of_touched (hv.mono (hits hp hl))
      refine post p.1 v p.2 ⟨⟨p.2, ?_, .inl rfl⟩, fun k _ => by rw [hv.mem], fun _ => hv.mem,
        fun x h => ⟨r, hop, hx x h⟩⟩ ?_ <;> exact hv.mem ▸ ht
    · next d hop =>
      have hp : m.px = d.isPx := by simp [MemMove.px, hop]
      have hs : m.isStore = true := by simp [MemMove.isStore, hop]
      refine Run.sat_bind (s.store_touched v d a m.lw g e) fun w hw' => ?_
      obtain ⟨l, hl, hw⟩ := hw'
      have ht : MemTouched (s.HitsReg m) w.mem v w := hw.mem.symm ▸ hw.mono (hits hp hl)
      refine post _ v w ⟨⟨w, ht, .inl rfl⟩, fun k hk => ?_, fun h => absurd hs (by simp [h]),
        fun _ h => absurd h List.not_mem_nil⟩ ht
      rw [hw.mem]
      exact State.byte_storedMem hl (hp ▸ hk hs a ha) _ _ _ _
  dsimp only
  refine Run.sat_ite (fun _ => Run.sat_bind (s.pmAccess_touched t) fun v hv => ?_) fun _ => ?_
  · have := Run.sat_mono (access v) fun p hp => MemMoved.after hv hp
    revert this
    cases m.op <;> exact id
  · have := access t
    revert this
    cases m.op <;> exact id

end Sys2Proof.Machine
end

section
/-!
PROOF. What a storing instruction leaves alone, from the begin of the step to the move of the window.
-/
namespace Sys2Proof.Machine

variable {p : Prop} {s t u v : State} {ms : List MemMove}

/-! ### The begin of a step and its end -/

theorem LoopDone.popLoop (h : s.loopAct ≠ .none) (hu : LoopDone s t u) (hv : u.popLoop = .ok v) : LoopDone s t v := by
  obtain ⟨-, -, rfl⟩ := State.popLoop_eq_ok.1 hv
  refine ⟨?_, ?_, ?_, fun h' => absurd h' h⟩
  · unfold State.stackState
    rw [hu.rest]
  · show ({ u.seq with loopDepth := _ } : Sequencer) = _
    rw [hu.seq]
    rfl
  · exact (putBits_outside _ _ _ _ (by decide)).trans hu.stkyx

theorem LoopDone.popPc (h : s.loopAct ≠ .none) (hu : LoopDone s t u) (hv : u.popPc = .ok v) : LoopDone s t v := by
  obtain ⟨-, -, rfl⟩ := State.popPc_eq_ok.1 hv
  refine ⟨?_, ?_, ?_, fun h' => absurd h' h⟩
  · unfold State.stackState
    rw [hu.rest]
  · show ({ u.seq with pcstkp := _ } : Sequencer) = _
    rw [hu.seq]
    rfl
  · exact (putBits_outside _ _ _ _ (by decide)).trans hu.stkyx

/-- The end of a loop pops its stacks. -/
theorem State.endLoop_done (h : s.loopAct ≠ .none) : Run.Sat (s.endLoop s.start) (LoopDone s s.start) := by
  refine Run.sat_bind_eq fun v hv => Run.sat_bind_eq fun w hw => Run.sat_ok (LoopDone.noteExit h ?_)
  have popped : LoopDone s s.start w := ((LoopDone.refl s _).popLoop h hv).popPc h hw
  split
  · exact popped.setCount h _ _
  · exact popped

theorem State.loopStep_done (s : State) : Run.Sat (s.loopStep s.start) (LoopDone s s.start) := by
  unfold State.loopStep
  split
  · exact Run.sat_ok (.refl s _)
  · next ha => exact Run.sat_ok ((LoopDone.refl s _).setCount (by simp [ha]) _ _)
  · exact Run.sat_ok (.refl s _)
  · next ha => exact Run.sat_ok ((LoopDone.refl s _).setCount (by simp [ha]) _ _)
  · next ha => exact State.endLoop_done (by simp [ha])
  · next ha => exact State.endLoop_done (by simp [ha])

/-- A step that begins does the work of the loop mechanism and no more. -/
theorem State.begin_done (s : State) : Run.Sat s.begin fun b => b = s.begun ∧ LoopDone s s.start b := fun b hb =>
  ⟨by simp [State.begun, hb], (Run.sat_seq fun _ => s.loopStep_done : Run.Sat s.begin (LoopDone s s.start)) b hb⟩

/-- Without work for the loop mechanism the sequencer is as before. -/
theorem State.begun_seq (h : s.loopAct = .none) : s.begun.seq = s.seq := by
  simp [State.begun, State.begin, State.loopReady, State.loopStep, h, State.start]

/-- Two sequencers with the same stacks. -/
structure SameStacks (q r : Sequencer) : Prop where
  pcstkp : r.pcstkp = q.pcstkp
  pcStack : r.pcStack = q.pcStack
  loopDepth : r.loopDepth = q.loopDepth
  loopAddr : r.loopAddr = q.loopAddr
  loopCount : r.loopCount = q.loopCount
  statusStack : r.statusStack = q.statusStack

theorem SameStacks.refl (q : Sequencer) : SameStacks q q := ⟨rfl, rfl, rfl, rfl, rfl, rfl⟩

theorem SameStacks.trans {q r x : Sequencer} (h : SameStacks q r) (g : SameStacks r x) : SameStacks q x :=
  ⟨g.1.trans h.1, g.2.trans h.2, g.3.trans h.3, g.4.trans h.4, g.5.trans h.5, g.6.trans h.6⟩

/-- From `t` to `u` only the window of the sequencer and the notes of changed registers differ. -/
structure WindowMoved (t u : State) : Prop where
  rest : u = { t with seq := u.seq, changed := u.changed }
  sameStacks : SameStacks t.seq u.seq

theorem State.goOn_stacks (s : State) (nf : W24) (q : Sequencer) : SameStacks q (s.goOn nf q) := by
  unfold State.goOn
  split <;> exact ⟨rfl, rfl, rfl, rfl, rfl, rfl⟩

theorem State.window_moved (s t : State) (nf : W24) (fl : Flow) : Run.Sat (s.window nf fl t) (WindowMoved t) := by
  unfold State.window
  cases fl with
  | jump a => exact Run.sat_ok ⟨rfl, ⟨rfl, rfl, rfl, rfl, rfl, rfl⟩⟩
  | delayed a ret => exact Run.sat_seq fun _ => Run.sat_ok ⟨rfl, ⟨rfl, rfl, rfl, rfl, rfl, rfl⟩⟩
  | doLoop d f => exact Run.sat_seq fun _ => Run.sat_ok ⟨rfl, ⟨rfl, rfl, rfl, rfl, rfl, rfl⟩⟩
  | next =>
    refine Run.sat_seq fun _ => Run.sat_ok ⟨rfl, ?_⟩
    obtain ⟨h1, h2, h3, h4, h5, h6⟩ := s.goOn_stacks nf { t.seq with prevKind := .other }.slot
    exact ⟨h1, h2, h3, h4, h5, h6⟩

/-- What an instruction that asks nothing of the stacks does at its end. -/
theorem State.advance_moved (s t : State) : Run.Sat (s.advance t) (WindowMoved t) :=
  s.window_moved t s.nextFetch .next

/-- A JUMP without (LA) and (CI) moves the window only. -/
theorem State.jumpIf_moved (s t : State) (c : Cond) (target : Run W24) :
    Run.Sat (s.jumpIf t c false false false target) (WindowMoved t) := by
  refine Run.sat_seq fun _ => Run.sat_ite (fun _ => Run.sat_seq fun _ => Run.sat_seq fun a => ?_) fun _ => s.advance_moved t
  have ask : Run.Sat (do
      need (t.entryAllowed a) .loopEndEntry
      .ok (t, branchTo false false a) : Run (State × Flow)) fun p => p.1 = t := Run.sat_seq fun _ => Run.sat_ok rfl
  exact Run.sat_bind ask fun p hp => hp ▸ s.window_moved p.1 _ _

theorem State.computePart_runs (s t : State) (k : Compute) (g : Bool × Bool) :
    Run.Sat (s.computePart t k g) fun u => ∃ ex ey, u = s.runPes t (computePe k) ex ey :=
  Run.sat_ite (fun _ => Run.sat_ok ⟨false, false, rfl⟩) fun _ => Run.sat_seq fun _ => Run.sat_seq fun _ =>
    Run.sat_seq fun _ => Run.sat_seq fun _ => Run.sat_ok ⟨_, _, rfl⟩

theorem State.shiftPart_runs (s t : State) (op : ShImm) (ex : BitVec 4) (data : BitVec 8) (rn rx : Reg) (g : Bool × Bool) :
    Run.Sat (s.shiftPart t op ex data rn rx g) fun u => ∃ x y, u = s.runPes t (shImmPe op ex data rn rx) x y :=
  Run.sat_ite (fun _ => Run.sat_ok ⟨false, false, rfl⟩) fun _ => Run.sat_seq fun _ => Run.sat_ok ⟨_, _, rfl⟩

/-- A processing element after a compute: as before where it does not run. -/
theorem State.pe_runPes (s t : State) (f : PeIn → PeOut) (ex ey y : Bool) :
    (s.runPes t f ex ey).pe y =
      if (if y then ey else ex) then (t.pe y).take s.reg.mode1 (f (s.peIn y)) else t.pe y := by
  cases y <;> cases ex <;> cases ey <;> rfl

/-! ### The state of a storing instruction on its way -/

/-- Register `n` of a kind that is not selected by `mode1` is the same in `t` as in `s`. -/
def State.SameOther (s t : State) (mode1 : W32) (k : DagKind) (n : Reg) : Prop :=
  if dagSelect mode1 n then (t.dag.kind k)[n.toNat]'n.isLt = (s.dag.kind k)[n.toNat]'n.isLt
  else (t.dagAlt.kind k)[n.toNat]'n.isLt = (s.dagAlt.kind k)[n.toNat]'n.isLt

/-- What a storing instruction with the memory moves `ms` keeps of the state `s`, at each point of the step after its begin;
`e` are the processing elements that its compute leaves. -/
structure StoreKeeps (s : State) (ms : List MemMove) (e : Bool → ProcElem) (t : State) : Prop where
  byte : ∀ k, (∀ m ∈ ms, s.Spares m k) → t.mem.byte k = s.mem.byte k
  onlyStores : (∀ m ∈ ms, m.isStore = true) → ∀ y, t.pe y = e y
  mr : ∀ y, (t.pe y).mra = (e y).mra ∧ (t.pe y).mrb = (e y).mrb
  sameReg : ∀ y n, (∀ m ∈ ms, ∀ r, m.op = .load (.r r) → n ≠ r ∧ n ≠ neighbour r) → (e y).SameReg (t.pe y) n
  dagReg : ∀ k n, t.dagReg k n = s.dagReg k n ∨ ∃ m ∈ ms, t.dagReg k n = s.dagAfter m.mode k n
  other : ∀ k n, s.SameOther t s.reg.mode1 k n
  reg : t.reg = { s.reg with
    astatx := t.reg.astatx, astaty := t.reg.astaty, stkyx := t.reg.stkyx, stkyy := t.reg.stkyy, irptl := t.reg.irptl
    lirptl := t.reg.lirptl }
  sameStacks : SameStacks s.begun.seq t.seq
  freeIdx : t.freeIdx = s.freeIdx + freeStride
  iop : (¬ ∃ m ∈ ms, s.HitsReg m) → t.iop = { s.iop with elast := t.iop.elast }

/-- The compute `f` of the instruction ran in each element or did not. -/
def State.ComputedPe (s : State) (f : PeIn → PeOut) (e : Bool → ProcElem) : Prop :=
  ∀ y, e y = s.pe y ∨ e y = (s.pe y).take s.reg.mode1 (f (s.peIn y))

namespace StoreKeeps

variable {e : Bool → ProcElem}

theorem mode1 (h : StoreKeeps s ms e t) : t.reg.mode1 = s.reg.mode1 := by rw [h.reg]

theorem begun (s : State) (ms : List MemMove) {b : State} (hb : b = s.begun ∧ LoopDone s s.start b) :
    StoreKeeps s ms s.pe b := by
  obtain ⟨rfl, hd⟩ := hb
  have rest := hd.rest
  generalize hb : s.begun = b at rest
  have hp : b.pe = s.pe := by rw [rest]; rfl
  refine ⟨fun k _ => by rw [rest]; rfl, fun _ y => by rw [hp], fun y => by rw [hp]; exact ⟨rfl, rfl⟩,
    fun y n _ => by rw [hp]; exact ⟨rfl, rfl⟩, fun k n => .inl (by rw [rest]; rfl), fun k n => ?_, by rw [rest]; rfl,
    by rw [hb]; exact .refl _, by rw [rest]; rfl, fun _ => by rw [rest]; rfl⟩
  rw [rest]
  unfold State.SameOther
  split <;> rfl

end StoreKeeps

end Sys2Proof.Machine
end

section
/-!
PROOF. A store leaves every byte outside its words and every other register alone (StoreFrame, the storing instructions).
-/
namespace Sys2Proof.Machine

variable {p : Prop} {s t u v : State} {ms : List MemMove} {e : Bool → ProcElem}

theorem ProcElem.SameReg.trans {a b c : ProcElem} {k : Reg} (h : a.SameReg b k) (g : b.SameReg c k) : a.SameReg c k :=
  ⟨g.1.trans h.1, g.2.trans h.2⟩

theorem ProcElem.setReg_mr (a : ProcElem) (m : W32) (n : Reg) (v : W40) :
    (a.setReg m n v).mra = a.mra ∧ (a.setReg m n v).mrb = a.mrb := by
  unfold ProcElem.setReg
  split <;> exact ⟨rfl, rfl⟩

/-- A load leaves the multiplier result registers. -/
theorem ProcElem.takeLoaded_mr (a : ProcElem) (m sse : W32) (n : Reg) (w : Nat) (v : W64) :
    (a.takeLoaded m sse n w v).mra = a.mra ∧ (a.takeLoaded m sse n w v).mrb = a.mrb := by
  have first := a.setReg_mr m n (loadedWord sse w v)
  unfold ProcElem.takeLoaded
  split
  · have second := (a.setReg m n (loadedWord sse w v)).setReg_mr m (neighbour n) (v.extractLsb' 32 32 ++ 0#8)
    exact ⟨second.1.trans first.1, second.2.trans first.2⟩
  · exact first

theorem State.sameOther_setDagReg {k : DagKind} {n : Reg} {mode1 : W32} (hm : t.reg.mode1 = mode1)
    (h : s.SameOther t mode1 k n) (j : DagKind) (i : Reg) (w : W32) : s.SameOther (t.setDagReg j i w) mode1 k n := by
  by_cases hi : i = n
  · subst hi
    unfold State.SameOther State.setDagReg at *
    rw [hm]
    split <;> simp_all
  · have hn : i.toNat ≠ n.toNat := fun e => hi (BitVec.eq_of_toNat_eq e)
    have kept (d : DagSet) : ((d.put j i w).kind k)[n.toNat]'n.isLt = (d.kind k)[n.toNat]'n.isLt := by
      cases j <;> cases k <;> simp [DagSet.put, DagSet.kind, Vector.getElem_set_ne _ _ hn]
    unfold State.SameOther State.setDagReg at *
    split <;> split <;> simp_all

/-- The register an address mode updates has its new value, the others are as they were. -/
theorem State.dagReg_postModified (s t : State) (m : AddrMode) (k : DagKind) (n : Reg) :
    (s.postModified t m).dagReg k n = t.dagReg k n ∨ (s.postModified t m).dagReg k n = s.dagAfter m k n := by
  cases m with
  | post i d =>
    simp only [State.postModified, State.dagReg_setDagReg, State.dagAfter]
    by_cases h : n = i ∧ k = .i
    · right; simp [h]
    · left
      rw [if_neg (by simpa using h)]
  | direct a => exact .inl rfl
  | pre i d => exact .inl rfl

/-- The index update of an access touches address registers only. -/
theorem State.postModified_rest (s t : State) (m : AddrMode) :
    s.postModified t m = { t with dag := (s.postModified t m).dag, dagAlt := (s.postModified t m).dagAlt } := by
  cases m with
  | post i d =>
    unfold State.postModified State.setDagReg
    dsimp only
    split <;> rfl
  | direct a => rfl
  | pre i d => rfl

namespace StoreKeeps

/-- A change of memory outside the bytes that the moves spare, and beside it what an access touches. -/
theorem memTouched (h : StoreKeeps s ms e t) {m : Mem} (g : MemTouched p m t u) (hp : p → ∃ x ∈ ms, s.HitsReg x)
    (hm : ∀ k, (∀ x ∈ ms, s.Spares x k) → m.byte k = t.mem.byte k) : StoreKeeps s ms e u := by
  have rest := Touched.rest g
  have hpe : u.pe = t.pe := by rw [rest]; rfl
  have hdag (k : DagKind) (n : Reg) : u.dagReg k n = t.dagReg k n := by rw [rest]; rfl
  have hreg := h.reg
  have hst := h.sameStacks
  refine ⟨fun k hk => by rw [g.mem, hm k hk, h.byte k hk], fun hs y => by rw [hpe, h.onlyStores hs],
    fun y => by rw [hpe]; exact h.mr y, fun y n hn => by rw [hpe]; exact h.sameReg y n hn,
    fun k n => by rw [hdag]; exact h.dagReg k n, fun k n => ?_, ?_, ?_, ?_, fun hi => ?_⟩
  · have := h.other k n
    rw [rest]
    exact this
  · rw [rest]
    generalize t.reg = r at hreg
    rw [hreg]
  · rw [rest]
    obtain ⟨h1, h2, h3, h4, h5, h6⟩ := hst
    exact ⟨h1, h2, h3, h4, h5, h6⟩
  · rw [rest]
    exact h.freeIdx
  · rw [Touched.iop g (mt hp hi)]
    show ({ t.iop with elast := _ } : Iop) = _
    rw [h.iop hi]

theorem touched (h : StoreKeeps s ms e t) (g : Touched False t u) : StoreKeeps s ms e u :=
  h.memTouched (MemTouched.of_touched g) False.elim fun _ _ => rfl

theorem windowMoved (h : StoreKeeps s ms e t) (g : WindowMoved t u) : StoreKeeps s ms e u := by
  have stk := h.sameStacks.trans g.sameStacks
  have rest := g.rest
  generalize u.seq = q at *
  generalize u.changed = c at *
  subst rest
  exact { h with sameStacks := stk }

/-- The begin of the step, with the compute that follows it. -/
theorem computed {b : State} (hb : b = s.begun ∧ LoopDone s s.start b) (f : PeIn → PeOut) (ex ey : Bool) :
    s.ComputedPe f (s.runPes b f ex ey).pe ∧ StoreKeeps s ms (s.runPes b f ex ey).pe (s.runPes b f ex ey) := by
  have h := begun s ms hb
  have hp : b.pe = s.pe := by rw [hb.2.rest]; rfl
  refine ⟨fun y => ?_, ?_⟩
  · rw [State.pe_runPes, hp]
    generalize (if y then ey else ex) = ran
    cases ran
    · exact .inl rfl
    · exact .inr rfl
  · have rest := State.runPes_rest s b f ex ey
    generalize s.runPes b f ex ey = u at *
    dsimp only at rest
    refine ⟨fun k hk => ?_, fun _ _ => rfl, fun _ => ⟨rfl, rfl⟩, fun _ _ _ => ⟨rfl, rfl⟩, fun k n => ?_, fun k n => ?_,
      ?_, ?_, ?_, fun hi => ?_⟩ <;> rw [rest]
    · exact h.byte k hk
    · exact h.dagReg k n
    · exact h.other k n
    · show ({ b.reg with astatx := _, astaty := _, stkyx := _, stkyy := _ } : SysRegs) = _
      rw [h.reg]
    · exact h.sameStacks
    · exact h.freeIdx
    · exact h.iop hi

theorem postModified (h : StoreKeeps s ms e t) {m : MemMove} (hm : m ∈ ms) : StoreKeeps s ms e (s.postModified t m.mode) := by
  have rest := s.postModified_rest t m.mode
  have hpe : (s.postModified t m.mode).pe = t.pe := by rw [rest]; rfl
  refine ⟨fun k hk => by rw [State.postModified_mem]; exact h.byte k hk, fun hs y => by rw [hpe]; exact h.onlyStores hs y,
    fun y => by rw [hpe]; exact h.mr y, fun y n hn => by rw [hpe]; exact h.sameReg y n hn, fun k n => ?_, fun k n => ?_,
    by rw [rest]; exact h.reg, by rw [rest]; exact h.sameStacks, by rw [rest]; exact h.freeIdx,
    fun hi => by rw [rest]; exact h.iop hi⟩
  · rcases s.dagReg_postModified t m.mode k n with hk | hk
    · rw [hk]
      exact h.dagReg k n
    · exact .inr ⟨m, hm, hk⟩
  · unfold State.postModified
    split
    · exact State.sameOther_setDagReg h.mode1 (h.other k n) _ _ _
    · exact h.other k n

/-- A memory move to or from the addresses of one of the moves. -/
theorem memMoved (h : StoreKeeps s ms e t) {m n : MemMove} (hm : m ∈ ms) (hmode : n.mode = m.mode) (hpx : n.px = m.px)
    (hlw : n.lw = m.lw) (hst : n.isStore = m.isStore) {xs : List Loaded} (g : MemMoved s n t xs u) :
    StoreKeeps s ms e u := by
  have hits : s.HitsReg n → ∃ x ∈ ms, s.HitsReg x := fun hn => ⟨m, hm, by rwa [State.HitsReg, hmode, hpx, hlw] at hn⟩
  have spares (k : Nat) (hk : ∀ x ∈ ms, s.Spares x k) : s.Spares n k := by
    rw [State.Spares, hmode, hpx, hlw, hst]
    exact hk m hm
  obtain ⟨⟨v, hv, hu⟩, hb, -, -⟩ := g
  have accessed (hmem : v.mem = u.mem) : StoreKeeps s ms e v :=
    h.memTouched hv hits fun k hk => by rw [hmem, hb k (spares k hk)]
  rcases hu with rfl | rfl
  · exact accessed rfl
  · exact hmode ▸ (accessed (State.postModified_mem _).symm).postModified hm

/-- A word loaded to a data register that one of the moves loads. -/
theorem takeLoaded (h : StoreKeeps s ms e t) {m : MemMove} (hm : m ∈ ms) {n : Reg} (hn : m.op = .load (.r n)) (y : Bool)
    (sse : W32) (w : Nat) (v : W64) : StoreKeeps s ms e (t.setPe y ((t.pe y).takeLoaded t.reg.mode1 sse n w v)) := by
  have hpe (z : Bool) : (t.setPe y ((t.pe y).takeLoaded t.reg.mode1 sse n w v)).pe z =
      if z = y then (t.pe z).takeLoaded t.reg.mode1 sse n w v else t.pe z := by
    rw [State.pe_setPe]
    split
    · next hz => rw [hz]
    · rfl
  refine ⟨fun k hk => by simpa using h.byte k hk, fun hs => ?_, fun z => ?_, fun z k hk => ?_,
    fun j k => by simpa [State.dagReg] using h.dagReg j k, fun j k => by simpa [State.SameOther] using h.other j k,
    by simpa using h.reg, by simpa using h.sameStacks, by simpa using h.freeIdx, by simpa using h.iop⟩
  · have := hs m hm
    simp [MemMove.isStore, hn] at this
  · rw [hpe]
    split
    · exact ⟨((t.pe z).takeLoaded_mr _ _ _ _ _).1.trans (h.mr z).1, ((t.pe z).takeLoaded_mr _ _ _ _ _).2.trans (h.mr z).2⟩
    · exact h.mr z
  · rw [hpe]
    split
    · exact (h.sameReg z k hk).trans (ProcElem.sameReg_takeLoaded _ _ _ _ _ (hk m hm n hn).1 (hk m hm n hn).2)
    · exact h.sameReg z k hk

/-- Words loaded to data registers that the moves load. -/
theorem putAll (sse : W32) {xs : List Loaded} (hx : ∀ x ∈ xs, ∃ y n, x.u = UReg.ofDreg y n ∧ ∃ m ∈ ms, m.op = .load (.r n)) :
    ∀ {t : State}, StoreKeeps s ms e t → Run.Sat (t.putAll sse xs) (StoreKeeps s ms e) := by
  induction xs with
  | nil => exact fun h => Run.sat_ok h
  | cons x xs ih =>
    intro t h
    obtain ⟨⟨y, n, hu, m, hm, hn⟩, hxs⟩ := List.forall_mem_cons.1 hx
    obtain ⟨r, w, v⟩ := x
    obtain rfl : r = UReg.ofDreg y n := hu
    rw [State.putAll, State.putLoaded_dreg, Run.ok_bind]
    exact ih hxs (h.takeLoaded hm hn y sse w v)

/-- A store with its reports. -/
theorem move (h : StoreKeeps s ms e t) {m : MemMove} (hm : m ∈ ms) (hs : m.isStore = true) (g : Gate) (ds : List Reg) :
    Run.Sat (s.move t m g ds) (StoreKeeps s ms e) := by
  refine Run.sat_bind (s.memMove_sat t m g false 4) fun p hp => Run.sat_seq fun _ => ?_
  obtain ⟨xs, t1⟩ := p
  have none : xs = [] := List.eq_nil_iff_forall_not_mem.2 fun x hx => by
    obtain ⟨r, hr, -⟩ := hp.loads x hx
    simp [MemMove.isStore, hr] at hs
  subst none
  show Run.Sat (s.report t1 m g >>= fun w => .ok w) _
  refine Run.sat_bind (s.report_touched t1 m g) fun w hw => Run.sat_ok ?_
  exact (h.memMoved hm rfl rfl rfl rfl hp).touched hw

/-- A word that one side of a Type 1 instruction loads goes to a data register of the number it names. -/
theorem loaded_of_sideMove {w b y : Bool} {i m : DagNum} {r : UReg} {d : Reg} (hm : sideMove w b i m (.r d) ∈ ms)
    (hr : r = UReg.ofDreg y d) {x : Loaded} (hx : ∃ q, (sideMove w b i m r).op = .load q ∧ (x.u = q ∨ q.comp = some x.u)) :
    ∃ y n, x.u = UReg.ofDreg y n ∧ ∃ m ∈ ms, m.op = .load (.r n) := by
  obtain ⟨q, hq, hu⟩ := hx
  cases w with
  | true => cases hq
  | false =>
    cases hq
    subst hr
    rcases hu with hu | hu
    · exact ⟨y, d, hu, _, hm, rfl⟩
    · refine ⟨!y, d, ?_, _, hm, rfl⟩
      cases y <;> exact (Option.some.inj hu).symm

/-- The two accesses of a Type 1 instruction. -/
theorem dualAccess (dw : Bool) (di dm : DagNum) (dr : Reg) (pw : Bool) (pi pm : DagNum) (pr : Reg)
    (h : StoreKeeps s [sideMove dw false di dm (.r dr), sideMove pw true pi pm (.r pr)] e t) :
    Run.Sat (s.dualAccess t dw di dm dr pw pi pm pr)
      (StoreKeeps s [sideMove dw false di dm (.r dr), sideMove pw true pi pm (.r pr)] e) := by
  refine Run.sat_seq fun _ => Run.sat_seq fun a1 => Run.sat_seq fun l1 => Run.sat_seq fun a2 => Run.sat_seq fun l2 => ?_
  refine Run.sat_seq fun _ => ?_
  have moves (wide : Bool) : Run.Sat (do
      let (xs, t1) ← s.memMove t (sideMove dw false di dm (.r dr)) ⟨true, true, false⟩ wide 4
      let (ys, t2) ← s.memMove t1 (sideMove pw true pi pm (if wide then .s pr else .r pr)) ⟨true, true, false⟩ wide 6
      let t3 ← t2.putAll s.reg.mode1 (ys ++ xs)
      let t4 ← s.report t3 (sideMove dw false di dm (.r dr)) ⟨true, true, false⟩
      s.report t4 (sideMove pw true pi pm (if wide then .s pr else .r pr)) ⟨true, true, false⟩)
      (StoreKeeps s [sideMove dw false di dm (.r dr), sideMove pw true pi pm (.r pr)] e) := by
    refine Run.sat_bind (s.memMove_sat _ _ _ _ _) fun p hp => Run.sat_bind (s.memMove_sat _ _ _ _ _) fun q hq => ?_
    have first : StoreKeeps s _ e p.2 := h.memMoved (List.mem_cons_self ..) rfl rfl rfl rfl hp
    have second : StoreKeeps s _ e q.2 := first.memMoved (m := sideMove pw true pi pm (.r pr))
      (n := sideMove pw true pi pm (if wide then .s pr else .r pr)) (by simp) rfl
      (by cases pw <;> cases wide <;> rfl) rfl (by cases pw <;> rfl) hq
    refine Run.sat_bind (putAll s.reg.mode1 (fun x hx => ?_) second) fun v hv => ?_
    · rcases List.mem_append.1 hx with hx | hx
      · exact loaded_of_sideMove (by simp) (by cases wide <;> rfl : _ = UReg.ofDreg wide pr) (hq.loads x hx)
      · exact loaded_of_sideMove (by simp) (rfl : _ = UReg.ofDreg false dr) (hp.loads x hx)
    · exact Run.sat_bind (s.report_touched v _ _) fun w hw => Run.sat_mono (s.report_touched w _ _) fun x hx =>
        (hv.touched hw).touched hx
  dsimp only
  refine Run.sat_ite (fun _ => ?_) fun _ => moves _
  exact Run.sat_seq fun _ => Run.sat_seq fun _ => Run.sat_seq fun _ => moves _

end StoreKeeps

end Sys2Proof.Machine
end

section
/-!
PROOF. StoreFrame, the storing instructions: every form of a store is a begin, a compute, moves and the end of the step.
-/
namespace Sys2Proof.Machine

variable {s t : State}

/-- What a storing instruction with the compute `f` and the memory moves `ms` makes of the state `s`. -/
def State.StoredBy (s : State) (f : PeIn → PeOut) (ms : List MemMove) (t : State) : Prop :=
  ∃ e, s.ComputedPe f e ∧ StoreKeeps s ms e t

theorem State.StoredBy.advance {f : PeIn → PeOut} {ms : List MemMove} (h : s.StoredBy f ms t) :
    Run.Sat (s.advance t) (s.StoredBy f ms) := by
  obtain ⟨e, he, ht⟩ := h
  exact Run.sat_mono (s.advance_moved t) fun _ hu => ⟨e, he, ht.windowMoved hu⟩

/-- A store beside a compute. -/
theorem State.storedBy_move {f : PeIn → PeOut} {part : State → Run State}
    (hp : ∀ b, Run.Sat (part b) fun u => ∃ ex ey, u = s.runPes b f ex ey) {m : MemMove} (hs : m.isStore = true)
    {b : State} (hb : b = s.begun ∧ LoopDone s s.start b) (g : Gate) (ds : List Reg) :
    Run.Sat (do
      let t ← part b
      let u ← s.move t m g ds
      s.advance u) (s.StoredBy f [m]) := by
  refine Run.sat_bind (hp b) fun t ht => ?_
  obtain ⟨ex, ey, rfl⟩ := ht
  obtain ⟨he, hk⟩ := StoreKeeps.computed (ms := [m]) hb f ex ey
  exact Run.sat_bind (hk.move (List.mem_singleton_self m) hs g ds) fun u hu => State.StoredBy.advance ⟨_, he, hu⟩

theorem runMove_stores (c : Cond) (k : Compute) {m : MemMove} (hs : m.isStore = true) :
    ∃ r, runMove c k m s = outcome s r ∧ Run.Sat r (s.StoredBy (computePe k) [m]) :=
  ⟨_, rfl, Run.sat_seq fun _ => Run.sat_bind s.begin_done fun _ hb =>
    State.storedBy_move (fun b => s.computePart_runs b k _) hs hb _ _⟩

theorem runAccess_stores {m : MemMove} (hs : m.isStore = true) :
    ∃ r, runAccess m s = outcome s r ∧ Run.Sat r (s.StoredBy PeOut.none [m]) :=
  ⟨_, rfl, Run.sat_bind s.begin_done fun _ hb =>
    State.storedBy_move (part := .ok) (fun _ => Run.sat_ok ⟨false, false, rfl⟩) hs hb _ _⟩

theorem execShiftImmMem_stores (i m : DagNum) (c : Cond) (dag2 : Bool) (ex : BitVec 4) (d : Reg) (op : ShImm)
    (data : BitVec 8) (rn rx : Reg) :
    ∃ r, execShiftImmMem i m c dag2 true ex d op data rn rx s = outcome s r ∧ Run.Sat r (s.StoredBy (shImmPe op ex data rn rx)
      [⟨moveOp true (.r d), dag2, .post (dagNumber dag2 i) (.reg (dagNumber dag2 m)), false⟩]) :=
  ⟨_, rfl, Run.sat_seq fun _ => Run.sat_bind s.begin_done fun _ hb =>
    State.storedBy_move (fun b => s.shiftPart_runs b op ex data rn rx _) rfl hb _ _⟩

/-- The store of Type 10, or the jump in its place. -/
theorem jumpElse_stores (i m : DagNum) (c : Cond) (target : State → Run W24) (d : Reg) (k : Compute) :
    ∃ r, jumpElse true i m c target d k s = outcome s r ∧ Run.Sat r (s.StoredBy (computePe k)
      [⟨moveOp true (.r d), false, .post (dagNumber false i) (.reg (dagNumber false m)), false⟩]) := by
  refine ⟨_, rfl, Run.sat_seq fun _ => Run.sat_bind s.begin_done fun b hb => Run.sat_ite (fun _ => ?_) fun _ =>
    Run.sat_seq fun _ => State.storedBy_move (fun b => s.computePart_runs b k _) rfl hb _ _⟩
  obtain ⟨he, hk⟩ := StoreKeeps.computed hb (computePe k) false false
  exact Run.sat_mono (s.jumpIf_moved b c _) fun u hu => ⟨_, he, hk.windowMoved hu⟩

theorem execDualMove_stores (dw : Bool) (di dm : DagNum) (dr : Reg) (pw : Bool) (pi pm : DagNum) (pr : Reg) (k : Compute) :
    ∃ r, execDualMove dw di dm dr pw pi pm pr k s = outcome s r ∧ Run.Sat r (s.StoredBy (computePe k)
      [sideMove dw false di dm (.r dr), sideMove pw true pi pm (.r pr)]) := by
  refine ⟨_, rfl, Run.sat_bind s.begin_done fun b hb => Run.sat_bind (s.computePart_runs b k _) fun t ht => ?_⟩
  obtain ⟨ex, ey, rfl⟩ := ht
  obtain ⟨he, hk⟩ := StoreKeeps.computed hb (computePe k) ex ey
  exact Run.sat_bind (StoreKeeps.dualAccess _ _ _ _ _ _ _ _ hk) fun u hu => State.StoredBy.advance ⟨_, he, hu⟩

/-- Every storing instruction does its compute and its memory moves, and no more. -/
theorem exec_stores (i : Instr) (h : i.stores = true) :
    ∃ r, exec i s = outcome s r ∧ Run.Sat r (s.StoredBy i.movePe i.moves) := by
  have one {m : MemMove} (hm : [m].any MemMove.isStore = true) : m.isStore = true := by simpa using hm
  cases i with
  | dualMove => exact execDualMove_stores _ _ _ _ _ _ _ _ _
  | uregMem post i m c g w lw u k => exact runMove_stores c k (one h)
  | dregMemImm i g w post c data d k => exact runMove_stores c k (one h)
  | shiftImmMem i m c g w =>
    cases w with
    | true => exact execShiftImmMem_stores _ _ _ _ _ _ _ _ _ _
    | false => cases h
  | jumpIndElse w di dm c i m =>
    cases w with
    | true => exact jumpElse_stores _ _ _ (fun s => s.indTarget i m) _ _
    | false => cases h
  | jumpRelElse w di dm c rel =>
    cases w with
    | true => exact jumpElse_stores _ _ _ (fun s => s.relTarget (rel.signExtend 24)) _ _
    | false => cases h
  | uregAbs => exact runAccess_stores (one h)
  | uregPre => exact runAccess_stores (one h)
  | storeImm => exact runAccess_stores (one h)
  | _ => cases h

/-- What StoreFrame states of a storing instruction from `s` to `t`. -/
def StoreFramed (i : Instr) (s t : State) : Prop :=
  (∀ k, (∀ m ∈ i.moves, m.isStore = true → ∀ a, s.address m.mode = .ok a → s.OutsideStore a m.px m.lw k) →
    t.mem.byte k = s.mem.byte k) ∧
  (∀ y, ∃ e ∈ [s.pe y, (s.pe y).take s.reg.mode1 (i.movePe (s.peIn y))],
    ((∀ m ∈ i.moves, m.isStore = true) → t.pe y = e) ∧ (t.pe y).mra = e.mra ∧ (t.pe y).mrb = e.mrb ∧
    ∀ n, (∀ m ∈ i.moves, ∀ r, m.op = .load (.r r) → n ≠ r ∧ n ≠ neighbour r) → e.SameReg (t.pe y) n) ∧
  (∀ k n, t.dagReg k n = s.dagReg k n ∨ ∃ m ∈ i.moves, t.dagReg k n = s.dagAfter m.mode k n) ∧
  (∀ k n, s.SameOther t s.reg.mode1 k n) ∧
  t.reg = { s.reg with
    astatx := t.reg.astatx, astaty := t.reg.astaty, stkyx := t.reg.stkyx, stkyy := t.reg.stkyy, irptl := t.reg.irptl
    lirptl := t.reg.lirptl } ∧
  t.seq.statusStack = s.seq.statusStack ∧
  (let q := if t.freeIdx = s.freeIdx then s.seq else s.begun.seq
   t.seq.pcstkp = q.pcstkp ∧ t.seq.pcStack = q.pcStack ∧ t.seq.loopDepth = q.loopDepth ∧
     t.seq.loopAddr = q.loopAddr ∧ t.seq.loopCount = q.loopCount) ∧
  (s.loopAct = .none → s.begun.seq = s.seq) ∧
  ((∀ m ∈ i.moves, ∀ a l, s.address m.mode = .ok a → s.locate a m.px m.lw = .ok l → l.place.isReg = false) →
    t.iop = { s.iop with elast := t.iop.elast })

/-- The status stack is not the loop mechanism's. -/
theorem State.begun_statusStack (s : State) : s.begun.seq.statusStack = s.seq.statusStack := by
  unfold State.begun
  split
  · next b hb => rw [(s.begin_done b hb).2.seq]; rfl
  · rfl

/-- A storing instruction that waits, with or without a note of it. -/
theorem storeFramed_wait (i : Instr) (s : State) (r : Recent) : StoreFramed i s { s with recent := r } := by
  refine ⟨fun _ _ => rfl, fun y => ⟨s.pe y, List.mem_cons_self .., fun _ => rfl, rfl, rfl, fun _ _ => ⟨rfl, rfl⟩⟩,
    fun _ _ => .inl rfl, fun k n => ?_, rfl, rfl, ?_, State.begun_seq, fun _ => rfl⟩
  · unfold State.SameOther
    split <;> rfl
  · rw [if_pos rfl]
    exact ⟨rfl, rfl, rfl, rfl, rfl⟩

/-- A storing instruction that reaches its end. -/
theorem State.StoredBy.framed {i : Instr} (h : s.StoredBy i.movePe i.moves t) : StoreFramed i s t := by
  obtain ⟨e, he, hk⟩ := h
  have later : t.freeIdx ≠ s.freeIdx := by
    rw [hk.freeIdx, freeStride]
    omega
  refine ⟨hk.byte, fun y => ⟨e y, ?_, fun hs => hk.onlyStores hs y, (hk.mr y).1, (hk.mr y).2, hk.sameReg y⟩, hk.dagReg,
    hk.other, hk.reg, hk.sameStacks.statusStack.trans s.begun_statusStack, ?_, State.begun_seq, fun hi => hk.iop ?_⟩
  · rcases he y with hy | hy <;> simp [hy]
  · rw [if_neg later]
    obtain ⟨h1, h2, h3, h4, h5, -⟩ := hk.sameStacks
    exact ⟨h1, h2, h3, h4, h5⟩
  · rintro ⟨m, hm, a, l, ha, hl, hr⟩
    rw [hi m hm a l ha hl] at hr
    cases hr

theorem exec_storeFramed {i : Instr} (hi : i.stores = true) (h : exec i s = .next t) : StoreFramed i s t := by
  obtain ⟨r, hr, hs⟩ := exec_stores (s := s) i hi
  rw [hr, outcome_eq_next] at h
  rcases h with h | ⟨-, rfl⟩ | ⟨-, rfl⟩
  · exact (hs t h).framed
  · exact storeFramed_wait i t t.recent
  · exact storeFramed_wait i s _

end Sys2Proof.Machine
end

section
/-!
PROOF. Only the stores write memory: each operation of the other instructions, and so each of these, leaves it as it is
(StoreFrame, the instructions that do not store).
-/
namespace Sys2Proof.Machine

variable {s t : State} {n : Mem}

/-- The memory of the state is `n`. -/
def State.HasMem (n : Mem) (t : State) : Prop := t.mem = n

/-! ### Registers -/

theorem State.HasMem.of_eq {u : State} (h : t.HasMem n) (hu : u.mem = t.mem) : u.HasMem n := hu.trans h

theorem State.HasMem.setDagReg (h : t.HasMem n) (k : DagKind) (i : Reg) (v : W32) : (t.setDagReg k i v).HasMem n :=
  h.of_eq (by simp)

theorem State.HasMem.setDreg (h : t.HasMem n) (y : Bool) (i : Reg) (v : W40) : (t.setDreg y i v).HasMem n :=
  h.of_eq (by simp)

theorem State.HasMem.writeStkyx (h : t.HasMem n) (v : W32) : (t.writeStkyx v).HasMem n := by
  unfold State.writeStkyx
  dsimp only
  split <;> exact h

theorem State.HasMem.writeAstat (h : t.HasMem n) (y : Bool) (v : W32) : (t.writeAstat y v).HasMem n := by
  unfold State.writeAstat
  cases y <;> exact h

theorem State.HasMem.writeSys (h : t.HasMem n) (k : SReg) (v : W32) : Run.Sat (t.writeSys k v) (State.HasMem n) := by
  have ok {u : State} (hu : u.mem = t.mem) : Run.Sat (.ok u) (State.HasMem n) := Run.sat_ok (h.of_eq hu)
  unfold State.writeSys
  cases k with
  | mode1 | mode2 | flags | imask | imaskp | stkyy => exact Run.sat_seq fun _ => ok rfl
  | irptl | lirptl => exact Run.sat_seq fun _ => Run.sat_seq fun _ => ok rfl
  | astatx => exact Run.sat_seq fun _ => Run.sat_ok (h.writeAstat false v)
  | astaty => exact Run.sat_seq fun _ => Run.sat_ok (h.writeAstat true v)
  | stkyx => exact Run.sat_seq fun _ => Run.sat_ok (h.writeStkyx v)
  | _ => exact ok rfl

theorem State.HasMem.writePcstkp (h : t.HasMem n) (p : BitVec 5) : (t.writePcstkp p).HasMem n := by
  unfold State.writePcstkp
  split
  · exact h
  · exact h.of_eq (by simp)

theorem State.HasMem.writeLaddr (h : t.HasMem n) (v : W32) : Run.Sat (t.writeLaddr v) (State.HasMem n) :=
  Run.sat_ite (fun _ => Run.sat_ok h) fun _ => Run.sat_seq fun _ => Run.sat_ok h

theorem State.HasMem.writeCurlcntr (h : t.HasMem n) (v : W32) : (t.writeCurlcntr v).HasMem n := by
  unfold State.writeCurlcntr
  split <;> exact h

theorem State.HasMem.writePcstk (h : t.HasMem n) (v : W24) : (t.writePcstk v).HasMem n := by
  unfold State.writePcstk
  split <;> exact h

theorem State.HasMem.write32 (h : t.HasMem n) (r : UReg) (v : W32) : Run.Sat (t.write32 r v) (State.HasMem n) := by
  unfold State.write32
  cases r with
  | r | s => exact Run.sat_ok (h.setDreg _ _ _)
  | i | m | l | b => exact Run.sat_ok (h.setDagReg _ _ _)
  | pcstk => exact Run.sat_ok (h.writePcstk _)
  | pcstkp => exact Run.sat_ok (h.writePcstkp _)
  | laddr => exact h.writeLaddr v
  | curlcntr => exact Run.sat_ok (h.writeCurlcntr v)
  | sys k => exact h.writeSys k v
  | _ => exact Run.sat_ok h

theorem State.HasMem.write40 (h : t.HasMem n) (r : UReg) (v : W40) (wide : Bool) :
    Run.Sat (t.write40 r v wide) (State.HasMem n) := by
  unfold State.write40
  split
  · exact Run.sat_ok (h.setDreg _ _ _)
  · exact Run.sat_ok (h.setDreg _ _ _)
  · exact Run.sat_ok h
  · exact h.write32 _ _

theorem State.HasMem.copyReg (h : t.HasMem n) (dst src : UReg) : Run.Sat (s.copyReg t dst src) (State.HasMem n) :=
  Run.sat_seq fun _ => Run.sat_seq fun _ => h.write40 _ _ _

theorem State.HasMem.uregMove (h : t.HasMem n) (dst src : UReg) (g : Gate) :
    Run.Sat (s.uregMove t dst src g) (State.HasMem n) := by
  have implicit (v : State) (hv : v.HasMem n) : Run.Sat (match (if s.simd && g.y then dst.comp else none) with
      | some c => s.copyReg v c (implicitSource src)
      | none => .ok v) (State.HasMem n) := by
    split
    · exact hv.copyReg _ _
    · exact Run.sat_ok hv
  exact Run.sat_seq fun _ => Run.sat_ite (fun _ => Run.sat_bind (h.copyReg _ _) implicit) fun _ => implicit t h

theorem State.HasMem.swapRegs (h : t.HasMem n) (y x : Reg) (g : Gate) : Run.Sat (s.swapRegs t y x g) (State.HasMem n) := by
  have second (v : State) (hv : v.HasMem n) :
      Run.Sat (if g.y then s.copyReg v (.s y) (.r x) else .ok v) (State.HasMem n) :=
    Run.sat_ite (fun _ => hv.copyReg _ _) fun _ => Run.sat_ok hv
  exact Run.sat_seq fun _ => Run.sat_ite (fun _ => Run.sat_bind (h.copyReg _ _) second) fun _ => second t h

theorem State.HasMem.putImmediate (h : t.HasMem n) (r : UReg) (v : W32) :
    Run.Sat (s.putImmediate t r v) (State.HasMem n) := by
  refine Run.sat_seq fun _ => Run.sat_seq fun _ => Run.sat_bind (h.write32 r v) fun w hw => ?_
  split
  · exact hw.write32 _ _
  · exact Run.sat_ok hw

theorem State.HasMem.touched {p : Prop} {u : State} (h : t.HasMem n) (g : Touched p t u) : u.HasMem n := h.of_eq g.mem

theorem State.HasMem.modifyIndex (h : t.HasMem n) (i : Reg) (m : W32) (always : Bool) :
    Run.Sat (s.modifyIndex t i m always) (State.HasMem n) :=
  Run.sat_bind (s.updateIndex_eq t i m always) fun u hu => Run.sat_ok
    ((hu ▸ h.setDagReg _ _ _ : u.HasMem n).touched (p := False)
      ((Touched.refl u).wrapNoted (wrapNoted_reportWrap s u i m always)))

/-! ### Loads -/

theorem State.HasMem.putLoaded (h : t.HasMem n) (m : W32) (x : Loaded) : Run.Sat (t.putLoaded m x) (State.HasMem n) := by
  unfold State.putLoaded
  split
  · exact h.write32 _ _
  · split
    · exact Run.sat_ok h
    · exact Run.sat_ok (h.setDreg _ _ _)
    · exact Run.sat_ok (h.setDreg _ _ _)
    · exact h.write32 _ _
  · split
    · exact Run.sat_ok h
    · refine Run.sat_bind (h.write32 _ _) fun v hv => ?_
      split
      · exact hv.write32 _ _
      · exact Run.sat_ok hv
  · split
    · exact Run.sat_ok h
    · exact h.write32 _ _

theorem State.HasMem.putAll (h : t.HasMem n) (m : W32) (xs : List Loaded) : Run.Sat (t.putAll m xs) (State.HasMem n) := by
  induction xs generalizing t with
  | nil => exact Run.sat_ok h
  | cons x xs ih => exact Run.sat_bind (h.putLoaded m x) fun v hv => ih hv

theorem State.HasMem.memMove (h : t.HasMem n) {m : MemMove} (hm : m.isStore = false) (g : Gate) (e : Bool) (site : Nat) :
    Run.Sat (s.memMove t m g e site) fun p => p.2.HasMem n :=
  Run.sat_mono (s.memMove_sat t m g e site) fun _ hp => h.of_eq (hp.mem hm)

theorem State.HasMem.report (h : t.HasMem n) (m : MemMove) (g : Gate) : Run.Sat (s.report t m g) (State.HasMem n) :=
  Run.sat_mono (s.report_touched t m g) fun _ hu => h.touched hu

theorem State.HasMem.move (h : t.HasMem n) {m : MemMove} (hm : m.isStore = false) (g : Gate) (ds : List Reg) :
    Run.Sat (s.move t m g ds) (State.HasMem n) := by
  refine Run.sat_bind (h.memMove hm g false 4) fun p hp => Run.sat_seq fun _ => Run.sat_bind (hp.putAll _ _) fun v hv => ?_
  refine Run.sat_bind (hv.report m g) fun w hw => Run.sat_ok ?_
  split <;> exact hw

theorem State.HasMem.dualAccess (h : t.HasMem n) (di dm : DagNum) (dr : Reg) (pi pm : DagNum) (pr : Reg) :
    Run.Sat (s.dualAccess t false di dm dr false pi pm pr) (State.HasMem n) := by
  refine Run.sat_seq fun _ => Run.sat_seq fun a1 => Run.sat_seq fun l1 => Run.sat_seq fun a2 => Run.sat_seq fun l2 => ?_
  refine Run.sat_seq fun _ => Run.sat_bind (h.memMove (by rfl) _ _ _) fun p hp => ?_
  refine Run.sat_bind (hp.memMove (by rfl) _ _ _) fun q hq => Run.sat_bind (hq.putAll _ _) fun v hv => ?_
  exact Run.sat_bind (hv.report _ _) fun w hw => hw.report _ _

/-! ### Stacks -/

theorem State.HasMem.pushPc (h : t.HasMem n) (v : W24) : (t.pushPc v).HasMem n := by
  unfold State.pushPc
  exact h.of_eq (by simp)

theorem State.HasMem.popPc (h : t.HasMem n) : Run.Sat t.popPc (State.HasMem n) :=
  Run.sat_seq fun _ => Run.sat_seq fun _ => Run.sat_ok h

theorem State.HasMem.pushLoop (h : t.HasMem n) (a c : W32) : (t.pushLoop a c).HasMem n := by
  unfold State.pushLoop
  dsimp only
  split
  · exact h.of_eq (by simp)
  · exact h

theorem State.HasMem.popLoop (h : t.HasMem n) : Run.Sat t.popLoop (State.HasMem n) :=
  Run.sat_seq fun _ => Run.sat_seq fun _ => Run.sat_ok h

theorem State.HasMem.pushSts (h : t.HasMem n) (m : W32) : (t.pushSts m).HasMem n := by
  unfold State.pushSts
  dsimp only
  split
  · exact h.of_eq (by simp)
  · exact h

theorem State.HasMem.popSts (h : t.HasMem n) : Run.Sat t.popSts (State.HasMem n) := by
  refine Run.sat_seq fun _ => ?_
  split
  · exact Run.sat_error
  · exact Run.sat_ok h

theorem State.HasMem.leave (h : t.HasMem n) : Run.Sat t.leave (State.HasMem n) := by
  unfold State.leave
  split
  · exact Run.sat_ok h
  · next k _ =>
    have fin (v : State) (hv : v.HasMem n) : Run.Sat (.ok (if k == .virpti then
        { v.setService k false with iop := { (v.setService k false).iop with vipd := false } }
        else v.setService k false) : Run State) (State.HasMem n) := by
      refine Run.sat_ok ?_
      split <;> exact hv.of_eq (by simp)
    exact Run.sat_ite (fun _ => Run.sat_bind h.popSts fin) fun _ => fin t h

theorem State.HasMem.abortLoop (h : t.HasMem n) (a : W24) : Run.Sat (t.abortLoop a) (State.HasMem n) :=
  Run.sat_bind h.popLoop fun _ hu => Run.sat_bind hu.popPc fun _ hv => Run.sat_seq fun _ => Run.sat_ok hv

theorem State.HasMem.flushIf (h : t.HasMem n) (b : Bool) : (t.flushIf b).HasMem n := by
  unfold State.flushIf
  split <;> exact h

/-! ### The parts of a step -/

theorem State.begin_mem (s : State) : Run.Sat s.begin (State.HasMem s.mem) :=
  Run.sat_mono s.begin_done fun b hb => by rw [hb.2.rest]; rfl

theorem State.HasMem.runPes (h : t.HasMem n) (f : PeIn → PeOut) (ex ey : Bool) : (s.runPes t f ex ey).HasMem n := by
  rw [State.runPes_rest]
  exact h

theorem State.HasMem.computePart (h : t.HasMem n) (k : Compute) (g : Bool × Bool) :
    Run.Sat (s.computePart t k g) (State.HasMem n) :=
  Run.sat_mono (s.computePart_runs t k g) fun _ ⟨_, _, hu⟩ => hu ▸ h.runPes _ _ _

theorem State.HasMem.shiftPart (h : t.HasMem n) (op : ShImm) (ex : BitVec 4) (data : BitVec 8) (rn rx : Reg)
    (g : Bool × Bool) : Run.Sat (s.shiftPart t op ex data rn rx g) (State.HasMem n) :=
  Run.sat_mono (s.shiftPart_runs t op ex data rn rx g) fun _ ⟨_, _, hu⟩ => hu ▸ h.runPes _ _ _

theorem State.HasMem.windowMoved {u : State} (h : t.HasMem n) (g : WindowMoved t u) : u.HasMem n :=
  h.of_eq (by rw [g.rest])

theorem State.HasMem.advance (h : t.HasMem n) : Run.Sat (s.advance t) (State.HasMem n) :=
  Run.sat_mono (s.advance_moved t) fun _ hu => h.windowMoved hu

/-- The end of a step keeps memory where what it asks of the stacks does. -/
theorem State.HasMem.flow (h : t.HasMem n) {ask : W24 → State → Run (State × Flow)}
    (ha : ∀ a u, u.HasMem n → Run.Sat (ask a u) fun p => p.1.HasMem n) : Run.Sat (s.flow t ask) (State.HasMem n) :=
  Run.sat_bind (ha _ t h) fun p hp => Run.sat_mono (s.window_moved p.1 _ _) fun _ hu => hp.windowMoved hu

theorem State.HasMem.jumpIf (h : t.HasMem n) (c : Cond) (la db ci : Bool) (target : Run W24) :
    Run.Sat (s.jumpIf t c la db ci target) (State.HasMem n) := by
  refine Run.sat_seq fun _ => Run.sat_ite (fun _ => Run.sat_seq fun _ => Run.sat_seq fun a => h.flow fun _ u hu => ?_)
    fun _ => h.advance
  have enter (v : State) (hv : v.HasMem n) : Run.Sat (do
      need (v.entryAllowed a) .loopEndEntry
      .ok (v, branchTo db false a) : Run (State × Flow)) fun p => p.1.HasMem n := Run.sat_seq fun _ => Run.sat_ok hv
  have leave (v : State) (hv : v.HasMem n) : Run.Sat (do
      let w ← if ci then v.leave else .ok v
      need (w.entryAllowed a) .loopEndEntry
      .ok (w, branchTo db false a) : Run (State × Flow)) fun p => p.1.HasMem n :=
    Run.sat_ite (fun _ => Run.sat_bind hv.leave enter) fun _ => enter v hv
  cases la with
  | true => exact Run.sat_seq fun _ => Run.sat_bind (hu.abortLoop a) leave
  | false => exact leave u hu

theorem State.HasMem.callIf (h : t.HasMem n) (c : Cond) (db : Bool) (target : Run W24) :
    Run.Sat (s.callIf t c db target) (State.HasMem n) := by
  refine Run.sat_seq fun _ => Run.sat_ite (fun _ => ?_) fun _ => h.advance
  refine Run.sat_seq fun _ => Run.sat_seq fun _ => Run.sat_seq fun _ => Run.sat_seq fun a => h.flow fun _ u hu => ?_
  exact Run.sat_seq fun _ => Run.sat_ok (hu.pushPc _)

theorem State.HasMem.returnIf (h : t.HasMem n) (c : Cond) (db : Bool) {after : W24 → State → Run State}
    (ha : ∀ a u, u.HasMem n → Run.Sat (after a u) (State.HasMem n)) :
    Run.Sat (s.returnIf t c db after) (State.HasMem n) := by
  refine Run.sat_seq fun _ => Run.sat_ite (fun _ => ?_) fun _ => h.advance
  refine Run.sat_seq fun _ => Run.sat_seq fun _ => h.flow fun _ u hu => ?_
  exact Run.sat_bind hu.popPc fun v hv => Run.sat_bind (ha _ v hv) fun w hw => Run.sat_ok hw

theorem State.doUntil_mem (s : State) (term : Cond) (rel : W24) (count : Option W32) :
    Run.Sat (s.doUntil term rel count) (State.HasMem s.mem) := by
  have looped (u : State) (hu : u.HasMem s.mem) (a c : W32) (v : W24) : ((u.pushLoop a c).pushPc v).HasMem s.mem :=
    (hu.pushLoop a c).pushPc v
  unfold State.doUntil
  refine Run.sat_seq fun _ => Run.sat_seq fun _ => Run.sat_seq fun _ => Run.sat_seq fun _ => ?_
  refine Run.sat_seq fun _ => Run.sat_bind s.begin_mem fun b hb => hb.flow fun _ u hu => Run.sat_seq fun _ => ?_
  cases count with
  | none => exact Run.sat_ok (looped u hu _ _ _)
  | some c => exact Run.sat_ok (looped (u.setCount u.seq.loopDepth c) hu _ _ _)

end Sys2Proof.Machine
end

section
/-!
PROOF. StoreFrame: the instructions that do not store, and both parts together.
-/
namespace Sys2Proof.Machine

variable {s t : State}

/-- An outcome that goes on with the memory of the state `s`. -/
def KeepsMem (s : State) (o : Host.Outcome State Fault Refusal) : Prop := ∀ t, o = .next t → t.mem = s.mem

/-- A step that waits has the memory it began with. -/
theorem KeepsMem.outcome {r : Run State} (h : Run.Sat r (State.HasMem s.mem)) : KeepsMem s (outcome s r) := by
  intro t ht
  rcases outcome_eq_next.1 ht with hr | ⟨-, rfl⟩ | ⟨-, rfl⟩
  · exact h t hr
  · rfl
  · rfl

/-- What begins the step, writes results and goes on. -/
theorem State.beginWriteAdvance_mem {write : State → Run State}
    (hw : ∀ v, v.HasMem s.mem → Run.Sat (write v) (State.HasMem s.mem)) :
    Run.Sat (do let t0 ← s.begin; let t ← write t0; s.advance t) (State.HasMem s.mem) :=
  Run.sat_bind s.begin_mem fun v hv => Run.sat_bind (hw v hv) fun _ ht => ht.advance

theorem runCompute_mem (k : Compute) : KeepsMem s (runCompute k s) :=
  .outcome (State.beginWriteAdvance_mem fun _ hv => hv.computePart _ _)

theorem runMove_mem (c : Cond) (k : Compute) {m : MemMove} (hm : m.isStore = false) : KeepsMem s (runMove c k m s) :=
  .outcome (Run.sat_seq fun _ => Run.sat_bind s.begin_mem fun _ h0 => Run.sat_bind (h0.computePart _ _) fun _ hv =>
    Run.sat_bind (hv.move hm _ _) fun _ hw => hw.advance)

theorem runAccess_mem {m : MemMove} (hm : m.isStore = false) : KeepsMem s (runAccess m s) :=
  .outcome (State.beginWriteAdvance_mem fun _ hv => hv.move hm _ _)

theorem execDualMove_mem (di dm : DagNum) (dr : Reg) (pi pm : DagNum) (pr : Reg) (k : Compute) :
    KeepsMem s (execDualMove false di dm dr false pi pm pr k s) :=
  .outcome (Run.sat_bind s.begin_mem fun _ h0 => Run.sat_bind (h0.computePart _ _) fun _ hv =>
    Run.sat_bind (hv.dualAccess _ _ _ _ _ _) fun _ hw => hw.advance)

theorem execCondCompute_mem (c : Cond) (k : Compute) : KeepsMem s (execCondCompute c k s) :=
  .outcome (Run.sat_seq fun _ => State.beginWriteAdvance_mem fun _ hv => hv.computePart _ _)

theorem execUregMove_mem (src : UReg) (c : Cond) (dst : UReg) (k : Compute) : KeepsMem s (execUregMove src c dst k s) :=
  .outcome (Run.sat_seq fun _ => Run.sat_seq fun _ => Run.sat_bind s.begin_mem fun _ h0 =>
    Run.sat_bind (h0.computePart _ _) fun _ hv => Run.sat_bind (hv.uregMove _ _ _) fun _ hw => hw.advance)

theorem execSwap_mem (y : Reg) (c : Cond) (x : Reg) (k : Compute) : KeepsMem s (execSwap y c x k s) :=
  .outcome (Run.sat_seq fun _ => Run.sat_seq fun _ => Run.sat_bind s.begin_mem fun _ h0 =>
    Run.sat_bind (h0.computePart _ _) fun _ hv => Run.sat_bind (hv.swapRegs _ _ _) fun _ hw => hw.advance)

theorem execShiftImmMem_mem (i m : DagNum) (c : Cond) (dag2 : Bool) (ex : BitVec 4) (d : Reg) (op : ShImm)
    (data : BitVec 8) (rn rx : Reg) : KeepsMem s (execShiftImmMem i m c dag2 false ex d op data rn rx s) :=
  .outcome (Run.sat_seq fun _ => Run.sat_bind s.begin_mem fun _ h0 =>
    Run.sat_bind (h0.shiftPart _ _ _ _ _ _) fun _ hv => Run.sat_bind (hv.move rfl _ _) fun _ hw => hw.advance)

theorem execShiftImm_mem (c : Cond) (ex : BitVec 4) (op : ShImm) (data : BitVec 8) (rn rx : Reg) :
    KeepsMem s (execShiftImm c ex op data rn rx s) :=
  .outcome (Run.sat_seq fun _ => State.beginWriteAdvance_mem fun _ hv => hv.shiftPart _ _ _ _ _ _)

theorem execModify_mem (dag2 : Bool) (c : Cond) (i m : DagNum) (k : Compute) : KeepsMem s (execModify dag2 c i m k s) := by
  refine .outcome (Run.sat_seq fun _ => Run.sat_bind s.begin_mem fun _ h0 =>
    Run.sat_bind (h0.computePart _ _) fun v hv => Run.sat_seq fun _ => ?_)
  have modified : Run.Sat (s.modifyByReg v dag2 i m) (State.HasMem s.mem) := Run.sat_seq fun _ => hv.modifyIndex _ _ _
  exact Run.sat_ite (fun _ => Run.sat_bind modified fun _ hw => hw.advance) fun _ => hv.advance

theorem withGate_mem (c : Cond) (els : Bool) (k : Compute) {branch : State → Run State}
    (hb : ∀ t, t.HasMem s.mem → Run.Sat (branch t) (State.HasMem s.mem)) : KeepsMem s (withGate c els k s branch) :=
  .outcome (Run.sat_seq fun _ => Run.sat_bind s.begin_mem fun _ h0 => Run.sat_bind (h0.computePart _ _) hb)

theorem jumpElse_mem (i m : DagNum) (c : Cond) (target : State → Run W24) (d : Reg) (k : Compute) :
    KeepsMem s (jumpElse false i m c target d k s) := by
  refine .outcome (Run.sat_seq fun _ => Run.sat_bind s.begin_mem fun v hv =>
    Run.sat_ite (fun _ => hv.jumpIf _ _ _ _ _) fun _ => Run.sat_seq fun _ => ?_)
  exact Run.sat_bind (hv.computePart _ _) fun _ ht => Run.sat_bind (ht.move rfl _ _) fun _ hw => hw.advance

theorem execLoadImm_mem (r : UReg) (data : W32) : KeepsMem s (execLoadImm r data s) :=
  .outcome (State.beginWriteAdvance_mem fun _ hv => hv.putImmediate _ _)

theorem execModifyImm_mem (dag2 : Bool) (i : DagNum) (data : W32) : KeepsMem s (execModifyImm dag2 i data s) :=
  .outcome (Run.sat_seq fun _ => State.beginWriteAdvance_mem fun _ hv => hv.modifyIndex _ _ _)

theorem execBitrev_mem (dag2 : Bool) (i : DagNum) (data : W32) : KeepsMem s (execBitrev dag2 i data s) :=
  .outcome (Run.sat_seq fun _ => Run.sat_seq fun _ => Run.sat_seq fun _ => Run.sat_seq fun _ =>
    Run.sat_bind s.begin_mem fun _ hv => (hv.setDagReg _ _ _).advance)

theorem execFlushCache_mem : KeepsMem s (execFlushCache s) :=
  .outcome (Run.sat_bind s.begin_mem fun _ hv => (hv.flushIf _).advance)

theorem execNop_mem : KeepsMem s (execNop s) := .outcome (Run.sat_bind s.begin_mem fun _ hv => hv.advance)

theorem execIdle_mem : KeepsMem s (execIdle s) :=
  .outcome (Run.sat_seq fun _ => Run.sat_bind s.begin_mem fun v hv =>
    State.HasMem.advance (t := v.mapSeq fun q => { q with idle := true }) hv)

theorem execRframe_mem : KeepsMem s (execRframe s) :=
  .outcome (Run.sat_seq fun _ => Run.sat_seq fun _ => Run.sat_seq fun _ =>
    State.beginWriteAdvance_mem fun _ hv => (hv.setDagReg _ _ _).move rfl _ _)

theorem execRts_mem (c : Cond) (db els lr : Bool) (k : Compute) : KeepsMem s (execRts c db els lr k s) :=
  withGate_mem _ _ _ fun _ ht => ht.returnIf _ _ fun _ _ hu => Run.sat_seq fun _ => Run.sat_ok hu

theorem execRti_mem (c : Cond) (db els : Bool) (k : Compute) : KeepsMem s (execRti c db els k s) :=
  withGate_mem _ _ _ fun _ ht => ht.returnIf _ _ fun _ _ hu => hu.leave

theorem bitWrite_mem (k : SReg) (f : W32 → W32) : KeepsMem s (bitWrite k f s) := by
  have write (v : State) (hv : v.HasMem s.mem) : Run.Sat (do
      let t ← v.writeSys k (f (s.readBack v k))
      let u ← match (if s.simd then sregComp k else none) with
        | some d => t.writeSys d (f (s.readBack v d))
        | none => .ok t
      s.advance u) (State.HasMem s.mem) := by
    refine Run.sat_bind (hv.writeSys _ _) fun t ht => ?_
    split
    · exact Run.sat_bind (ht.writeSys _ _) fun u hu => hu.advance
    · exact ht.advance
  exact .outcome (Run.sat_ite (fun _ => Run.sat_seq fun _ => Run.sat_bind s.begin_mem write) fun _ =>
    Run.sat_bind s.begin_mem write)

theorem bitTest_mem (k : SReg) (f : W32 → Bool) : KeepsMem s (bitTest k f s) :=
  .outcome (Run.sat_seq fun _ => Run.sat_bind s.begin_mem fun _ hv => State.HasMem.advance (hv.of_eq rfl))

theorem pushAll_mem (loop sts pc flush : Bool) : KeepsMem s (pushAll loop sts pc flush s) := by
  have rest (v : State) (hv : v.HasMem s.mem) : Run.Sat (s.flow v fun _ u =>
      let u1 := if loop then u.pushLoop 0 u.lcntr else u
      let u2 := if sts then (u1.pushSts s.reg.mmask).noteStatus u1 else u1
      let u3 := if pc then u2.pushPc ((s.free 10).setWidth 24) else u2
      .ok (u3.flushIf flush, .next)) (State.HasMem s.mem) := by
    refine hv.flow fun _ u hu => Run.sat_ok (State.HasMem.flushIf ?_ _)
    have h1 : (if loop then u.pushLoop 0 u.lcntr else u).HasMem s.mem := by
      split
      · exact hu.pushLoop _ _
      · exact hu
    have h2 (w : State) (hw : w.HasMem s.mem) :
        (if sts then (w.pushSts s.reg.mmask).noteStatus w else w).HasMem s.mem := by
      split
      · exact hw.pushSts s.reg.mmask
      · exact hw
    split
    · exact (h2 _ h1).pushPc _
    · exact h2 _ h1
  refine .outcome (Run.sat_seq fun _ => ?_)
  exact Run.sat_ite (fun _ => Run.sat_seq fun _ => Run.sat_seq fun _ => Run.sat_bind s.begin_mem rest) fun _ =>
    Run.sat_seq fun _ => Run.sat_bind s.begin_mem rest

theorem popAll_mem (loop sts pc flush : Bool) : KeepsMem s (popAll loop sts pc flush s) := by
  have pops {b : Bool} {w : State} {r : Run State} {f : State → Run (State × Flow)} (hr : Run.Sat r (State.HasMem s.mem))
      (hw : w.HasMem s.mem) (hf : ∀ v, v.HasMem s.mem → Run.Sat (f v) fun p => p.1.HasMem s.mem) :
      Run.Sat (if b then r >>= f else f w) fun p => p.1.HasMem s.mem :=
    Run.sat_ite (fun _ => Run.sat_bind hr hf) fun _ => hf w hw
  have rest (v : State) (hv : v.HasMem s.mem) : Run.Sat (s.flow v fun _ u => do
      let u1 ← if loop then u.popLoop else .ok u
      let u2 ← if sts then u1.popSts else .ok u1
      let u3 ← if pc then u2.popPc else .ok u2
      .ok (u3.flushIf flush, .next)) (State.HasMem s.mem) := by
    refine hv.flow fun _ u hu => ?_
    exact pops hu.popLoop hu fun v hv => pops hv.popSts hv fun w hw => pops hw.popPc hw fun x hx =>
      Run.sat_ok (hx.flushIf flush)
  refine .outcome (Run.sat_seq fun _ => ?_)
  exact Run.sat_ite (fun _ => Run.sat_seq fun _ => Run.sat_bind s.begin_mem rest) fun _ => Run.sat_bind s.begin_mem rest

theorem cjump_mem (target : State → W24) : KeepsMem s (cjump target s) := by
  refine .outcome (Run.sat_seq fun _ => Run.sat_seq fun _ => Run.sat_seq fun _ => Run.sat_seq fun _ => Run.sat_seq fun _ =>
    Run.sat_bind s.begin_mem fun v hv => ?_)
  refine State.HasMem.flow (State.HasMem.setDagReg ?_ _ _ _) fun _ u hu => Run.sat_seq fun _ => Run.sat_ok hu
  split
  · exact (hv.setDreg _ _ _).setDreg _ _ _
  · exact hv.setDreg _ _ _

/-- Every instruction that does not store leaves memory as it is. -/
theorem exec_mem (i : Instr) (hs : i.stores = false) : KeepsMem s (exec i s) := by
  have one {m : MemMove} (hm : [m].any MemMove.isStore = false) : m.isStore = false := by simpa using hm
  have jump (c : Cond) (la db ci els : Bool) (k : Compute) (target : Run W24) :
      KeepsMem s (withGate c els k s fun t => s.jumpIf t c la db ci target) :=
    withGate_mem _ _ _ fun _ ht => ht.jumpIf _ _ _ _ _
  have call (c : Cond) (db els : Bool) (k : Compute) (target : Run W24) :
      KeepsMem s (withGate c els k s fun t => s.callIf t c db target) :=
    withGate_mem _ _ _ fun _ ht => ht.callIf _ _ _
  cases hk : i.compute? with
  | some k => exact exec_of_compute hk ▸ runCompute_mem k
  | none =>
    cases i with
    | dualMove w1 _ _ _ w2 =>
      cases w1 with
      | true => cases hs
      | false =>
        cases w2 with
        | true => cases hs
        | false => exact execDualMove_mem _ _ _ _ _ _ _
    | condCompute => exact execCondCompute_mem _ _
    | uregMem _ _ _ c _ _ _ _ k => exact runMove_mem c k (one hs)
    | dregMemImm _ _ _ _ c _ _ k => exact runMove_mem c k (one hs)
    | uregMove => exact execUregMove_mem _ _ _ _
    | swap => exact execSwap_mem _ _ _ _
    | shiftImmMem _ _ _ _ w =>
      cases w with
      | true => cases hs
      | false => exact execShiftImmMem_mem _ _ _ _ _ _ _ _ _ _
    | shiftImm => exact execShiftImm_mem _ _ _ _ _ _
    | modify => exact execModify_mem _ _ _ _ _
    | jumpAbs | jumpRel | jumpInd | jumpRel6 => exact jump _ _ _ _ _ _ _
    | callAbs | callRel | callInd | callRel6 => exact call _ _ _ _ _
    | jumpIndElse w di dm c i m =>
      cases w with
      | true => cases hs
      | false => exact jumpElse_mem _ _ _ (fun s => s.indTarget i m) _ _
    | jumpRelElse w di dm c rel =>
      cases w with
      | true => cases hs
      | false => exact jumpElse_mem _ _ _ (fun s => s.relTarget (rel.signExtend 24)) _ _
    | rts => exact execRts_mem _ _ _ _ _
    | rti => exact execRti_mem _ _ _ _
    | doImm => exact .outcome (s.doUntil_mem _ _ _)
    | doUreg => exact .outcome (Run.sat_seq fun _ => s.doUntil_mem _ _ _)
    | doUntil => exact .outcome (s.doUntil_mem _ _ _)
    | uregAbs | uregPre => exact runAccess_mem (one hs)
    | storeImm => cases hs
    | loadImm => exact execLoadImm_mem _ _
    | bitSet _ data => exact bitWrite_mem _ (· ||| data)
    | bitClr _ data => exact bitWrite_mem _ (· &&& ~~~data)
    | bitTgl _ data => exact bitWrite_mem _ (· ^^^ data)
    | bitTst _ data => exact bitTest_mem _ fun v => v &&& data == data
    | bitXor _ data => exact bitTest_mem _ (· == data)
    | modifyImm => exact execModifyImm_mem _ _ _
    | bitrev => exact execBitrev_mem _ _ _
    | pushLoop | pushSts | pushPc => exact pushAll_mem _ _ _ _
    | popLoop | popSts | popPc => exact popAll_mem _ _ _ _
    | flushCache => exact execFlushCache_mem
    | nop => exact execNop_mem
    | idle => exact execIdle_mem
    | cjumpAbs addr => exact cjump_mem fun _ => addr
    | cjumpRel rel => exact cjump_mem fun s => s.seq.pc + rel
    | rframe => exact execRframe_mem
    | _ => cases hk

/-- Settles O45: a storing instruction keeps to `StoreFramed`, and no other instruction writes memory. -/
theorem storeFrame : Obligations.StoreFrame :=
  ⟨fun _ _ _ hi h => exec_storeFramed hi h, fun i _ t hi h => exec_mem i hi t h⟩

end Sys2Proof.Machine
end

section
/-!
PROOF. In a calm state an access of a word that the core reaches completes: the word is read or written, and an
unconditional move goes on to the end of the instruction.
-/
namespace Sys2Proof.Machine

variable {s t u v : State}

/-! ### One word -/

theorem State.Settled.busReady (h : s.Settled) {l : Loc} {read : Bool} (hm : s.busMine = true)
    (hb : bankOk s.iop.syscon s.iop.wait l.addr read = true) : s.busReady l read = .ok () := by
  simp [State.busReady, State.busSettled, h.syscon, h.wait, hm, hb]

/-- The word in memory at a location. -/
def Loc.word (l : Loc) (m : Mem) : W64 := BitVec.ofNat 64 (m.load l.bytes.1 l.bytes.2)

/-- A reachable word is no register of an I/O processor. -/
theorem State.Reachable.isReg {l : Loc} {read : Bool} (h : s.Reachable l read) : l.place.isReg = false := by
  obtain ⟨-, h⟩ := h
  cases hp : l.place <;> simp_all [Place.isReg]

/-- A reachable word is read, from a state that has stored nothing yet. -/
theorem State.Settled.readWord (h : s.Settled) {l : Loc} (hl : s.Reachable l true) (ht : t.shadow1 = []) (site : Nat) :
    ∃ u, s.readWord t l site = .ok (l.word t.mem, u) := by
  obtain ⟨-, hl⟩ := hl
  unfold State.readWord Loc.word Loc.bytes
  cases hp : l.place with
  | cells f =>
    rw [hp] at hl
    have clear : shadowed (s.shadow1 ++ s.shadow2) f (l.width / 16) (l.width == 48) = false := hl
    simp [ht, clear]
  | ext =>
    rw [hp] at hl
    simp [h.busReady hl.1 hl.2]
  | _ => simp [hp] at hl

/-- A reachable word is written. -/
theorem State.Settled.writeWord (h : s.Settled) {l : Loc} (hl : s.Reachable l false) (t : State) (v : W64) :
    ∃ u, s.writeWord t l v = .ok u := by
  obtain ⟨hall, hl⟩ := hl
  unfold State.writeWord
  cases hp : l.place with
  | cells f =>
    rw [hp] at hl
    have free : s.hitsFetched f (l.width / 16) = false := hl
    simp [free, hall]
  | ext =>
    rw [hp] at hl
    simp [h.busReady hl.1 hl.2]
  | _ => simp [hp] at hl

/-- Checks that all hold. -/
theorem forM_ok {α : Type} {f : α → Run Unit} {xs : List α} (h : ∀ x ∈ xs, f x = .ok ()) : xs.forM f = .ok () := by
  induction xs with
  | nil => rfl
  | cons x xs ih =>
    obtain ⟨hx, hxs⟩ := List.forall_mem_cons.1 h
    show (f x >>= fun _ => xs.forM f) = .ok ()
    rw [hx]
    exact ih hxs

/-! ### A store -/

/-- The registers of a store can be read. -/
theorem State.Calm.datumReady (h : s.Calm) {d : Datum} (hd : d = .reg .lcntr → s.seq.loopDepth < 6) (w : Nat) :
    s.datumReady d w = .ok () := by
  cases d with
  | imm v => rfl
  | reg r =>
    refine forM_ok fun x hx => h.1.1.mayRead x (.inl h.2) ?_
    by_cases hr : r = .lcntr
    · exact .inr (hd (hr ▸ rfl))
    · refine .inl fun hc => ?_
      subst hc
      unfold regsOf at hx
      split at hx
      · rcases List.mem_cons.1 hx with hx | hx
        · exact hr hx.symm
        · cases r <;> simp [UReg.pair?] at hx
      · exact hr (List.mem_singleton.1 hx).symm

/-- The complement of a store is not LCNTR. -/
theorem Datum.comp_ne_lcntr {d c : Datum} (h : d.comp = some c) : c ≠ .reg .lcntr := by
  rintro rfl
  cases d with
  | imm v => cases h
  | reg r =>
    obtain ⟨x, hx, hc⟩ := Option.map_eq_some_iff.1 h
    cases hc
    cases r with
    | sys k => cases k <;> cases hx
    | _ => cases hx

theorem State.implicitDatum_everyPe (hs : s.simd = true) (d : Datum) (l : Loc) :
    s.implicitDatum d l everyPe false = if l.width = 16 ∨ l.width = 32 then d.comp else none := by
  simp [State.implicitDatum, hs, everyPe]

/-- In SIMD mode an unconditional store of a datum to words that can be reached completes. -/
theorem State.Calm.store (h : s.Calm) (hs : s.simd = true) {d : Datum} {a : W32} {lw : Bool} {l k : Loc}
    (hl : s.locate a d.isPx lw = .ok l) (hr : s.Reachable l false) (hp : l.width = 64 → d.pairs = true)
    (hd : d = .reg .lcntr → s.seq.loopDepth < 6)
    (hk : l.width = 16 ∨ l.width = 32 → d.comp.isSome = true → s.implicitLoc l = .ok k ∧ s.Reachable k false) (t : State) :
    ∃ u, s.store t d a lw everyPe false = .ok u := by
  have pairs : (l.width != 64 || d.pairs) = true := by
    by_cases hw : l.width = 64 <;> simp [hw, hp]
  have gate : everyPe.x = true := rfl
  obtain ⟨w, hw⟩ := h.1.1.writeWord hr t (s.datumWord d l.width)
  simp only [State.store, hl, Run.ok_bind, hr.isReg, Bool.false_eq_true, if_false, pairs, need_true, gate, if_true,
    h.datumReady hd, hw, s.implicitDatum_everyPe hs]
  split
  · next c hc =>
    obtain ⟨narrow, comp⟩ := Option.ite_none_right_eq_some.1 hc
    obtain ⟨hk, hkr⟩ := hk narrow (by simp [comp])
    obtain ⟨x, hx⟩ := h.1.1.writeWord hkr w (s.datumWord c l.width)
    exact ⟨_, by simp only [h.datumReady (d := c) fun hc => absurd hc (Datum.comp_ne_lcntr comp), hk, hx, Run.ok_bind]; rfl⟩
  · exact ⟨_, rfl⟩

/-! ### A load -/

theorem State.implicitReg_everyPe (hs : s.simd = true) (r : UReg) (l : Loc) :
    s.implicitReg r l everyPe false = if l.width = 16 ∨ l.width = 32 then r.comp else none := by
  simp [State.implicitReg, hs, everyPe]

theorem UReg.comp_ofDreg (y : Bool) (n : Reg) : (UReg.ofDreg y n).comp = some (UReg.ofDreg (!y) n) := by cases y <;> rfl

/-- Data registers, and their neighbours, can be written. -/
theorem State.Settled.mayWrite_regsOf (h : s.Settled) (y : Bool) (n : Reg) (w : Nat) :
    (regsOf (UReg.ofDreg y n) w).forM s.mayWrite = .ok () := by
  refine forM_ok fun x hx => h.mayWrite x ?_
  unfold regsOf at hx
  cases y <;> split at hx <;> simp [UReg.ofDreg, UReg.pair?] at hx <;> rcases hx with rfl | rfl <;> rfl

/-- The words that an unconditional load of data register `n` in SIMD mode delivers: the word at `l` to the register; of a
broadcast load to its complement too, else for a narrow word the implicit word at `k`. -/
def simdLoads (m : Mem) (y : Bool) (n : Reg) (same : Bool) (l k : Loc) : List Loaded :=
  ⟨UReg.ofDreg y n, l.width, l.word m⟩ ::
    (if same then [⟨UReg.ofDreg (!y) n, l.width, l.word m⟩]
      else if l.width = 16 ∨ l.width = 32 then [⟨UReg.ofDreg (!y) n, l.width, k.word m⟩] else [])

theorem State.Settled.loadBoth (h : s.Settled) {l : Loc} (hr : s.Reachable l true) (ht : t.shadow1 = []) (y : Bool)
    (n : Reg) (k : Loc) (site : Nat) :
    ∃ u, s.loadBoth t (UReg.ofDreg y n) l (true, true) site = .ok (simdLoads t.mem y n true l k, u) := by
  obtain ⟨u, hu⟩ := h.readWord hr ht site
  refine ⟨u, ?_⟩
  have both : loadedBy (UReg.ofDreg y n) l.width (l.word t.mem) (true, true) = simdLoads t.mem y n true l k := by
    simp [loadedBy, UReg.comp_ofDreg, simdLoads]
  have ready : (simdLoads t.mem y n true l k).forM (fun x => (regsOf x.u l.width).forM s.mayWrite) = .ok () := by
    refine forM_ok fun x hx => ?_
    simp only [simdLoads, if_true, List.mem_cons, List.not_mem_nil, or_false] at hx
    rcases hx with rfl | rfl <;> exact h.mayWrite_regsOf _ _ _
  simp only [State.loadBoth, hu, Run.ok_bind, both, ready]

theorem State.Settled.loadEach (h : s.Settled) (hs : s.simd = true) {l k : Loc} (hr : s.Reachable l true)
    (hk : l.width = 16 ∨ l.width = 32 → s.implicitLoc l = .ok k ∧ s.Reachable k true) (ht : t.shadow1 = []) (y : Bool)
    (n : Reg) (site : Nat) :
    ∃ u, s.loadEach t (UReg.ofDreg y n) l everyPe false site = .ok (simdLoads t.mem y n false l k, u) := by
  have gate : everyPe.x = true := rfl
  obtain ⟨u, hu⟩ := h.readWord hr ht site
  have touched : Touched False t u := s.readWord_touched t l site _ hu
  simp only [State.loadEach, gate, if_true, h.mayWrite_regsOf, hu, Run.ok_bind, s.implicitReg_everyPe hs, UReg.comp_ofDreg,
    simdLoads, Bool.false_eq_true, if_false]
  by_cases narrow : l.width = 16 ∨ l.width = 32
  · obtain ⟨hk, hkr⟩ := hk narrow
    obtain ⟨w, hw⟩ := h.readWord hkr (touched.shadow1.trans ht) (site + 1)
    have ready : s.mayWrite (UReg.ofDreg (!y) n) = .ok () := h.mayWrite _ (by cases y <;> rfl)
    simp only [if_pos narrow, ready, hk, hw, Run.ok_bind, touched.mem]
    exact ⟨_, rfl⟩
  · simp only [if_neg narrow]
    exact ⟨_, rfl⟩

/-- In SIMD mode an unconditional load of a data register from words that can be reached delivers them. -/
theorem State.Settled.load (h : s.Settled) (hs : s.simd = true) {a : W32} {lw same : Bool} {l k : Loc}
    (hl : s.locate a false lw = .ok l) (hr : s.Reachable l true)
    (hk : l.width = 16 ∨ l.width = 32 → same = false → s.implicitLoc l = .ok k ∧ s.Reachable k true) (ht : t.shadow1 = [])
    (y : Bool) (n : Reg) (site : Nat) :
    ∃ u, s.load t (UReg.ofDreg y n) a lw same everyPe false site = .ok (simdLoads t.mem y n same l k, u) := by
  have px : (UReg.ofDreg y n == UReg.px) = false := by cases y <;> rfl
  have pairs : (UReg.ofDreg y n).pair?.isSome = true := by cases y <;> rfl
  have gates : s.broadcastGate (UReg.ofDreg y n) everyPe = (true, true) := by cases y <;> simp [State.broadcastGate, everyPe]
  have read : ∃ u, (if same then s.loadBoth t (UReg.ofDreg y n) l (if same then (true, true) else (true, false)) site
      else s.loadEach t (UReg.ofDreg y n) l everyPe false site) = .ok (simdLoads t.mem y n same l k, u) := by
    cases same with
    | true => exact h.loadBoth hr ht y n k site
    | false => exact h.loadEach hs hr (fun narrow => hk narrow rfl) ht y n site
  obtain ⟨u, hu⟩ := read
  have explicit : everyPe.x = true := rfl
  refine ⟨u, ?_⟩
  simp only [State.load, px, hl, Run.ok_bind, hr.isReg, Bool.false_eq_true, if_false, pairs, Bool.or_true, need_true,
    gates, explicit, h.useMode1, ite_self, hu]

end Sys2Proof.Machine
end

section
/-!
PROOF. An unconditional memory move from its access to the end of the instruction, and SimdAccess.
-/
namespace Sys2Proof.Machine

variable {p : Prop} {s t u v w : State}

/-! ### The operands of an access -/

/-- The registers of both elements, the address registers, memory and MODE1 are the same. -/
structure SameOperands (t u : State) : Prop where
  x : u.x = t.x
  y : u.y = t.y
  dag : u.dag = t.dag
  dagAlt : u.dagAlt = t.dagAlt
  mem : u.mem = t.mem
  mode1 : u.reg.mode1 = t.reg.mode1

namespace SameOperands

theorem trans (h : SameOperands t u) (g : SameOperands u v) : SameOperands t v :=
  ⟨g.1.trans h.1, g.2.trans h.2, g.3.trans h.3, g.4.trans h.4, g.5.trans h.5, g.6.trans h.6⟩

theorem of_touched (h : Touched p t u) : SameOperands t u := by
  constructor <;> rw [h.rest]

theorem of_advanced (h : s.Advanced t u) : SameOperands t u := by
  constructor <;> rw [h.1]

theorem dreg (h : SameOperands t u) (y : Bool) (n : Reg) : u.dreg y n = t.dreg y n := by
  unfold State.dreg State.pe
  rw [h.x, h.y, h.mode1]

theorem dagReg (h : SameOperands t u) (k : DagKind) (n : Reg) : u.dagReg k n = t.dagReg k n := by
  unfold State.dagReg
  rw [h.dag, h.dagAlt, h.mode1]

end SameOperands

/-- The index update of an access leaves the address registers as `dagAfter` says. -/
theorem State.dagReg_postModified_eq (h : ∀ k n, t.dagReg k n = s.dagReg k n) (m : AddrMode) (k : DagKind) (n : Reg) :
    (s.postModified t m).dagReg k n = s.dagAfter m k n := by
  cases m with
  | post i d => simp [State.postModified, State.dagReg_setDagReg, State.dagAfter, h, and_comm]
  | direct a => exact h k n
  | pre i d => exact h k n

/-- What an access finds after the compute beside it. -/
theorem State.Steady.computed (h : s.Steady) (f : PeIn → PeOut) (ex ey : Bool) :
    let p := s.runPes s.begun f ex ey
    p.mem = s.mem ∧ p.shadow1 = [] ∧ p.reg.mode1 = s.reg.mode1 ∧ p.seq = s.begun.seq ∧
      ∀ k n, p.dagReg k n = s.dagReg k n := by
  intro p
  have rest : p = _ := State.runPes_rest s s.begun f ex ey
  have begun := h.begin.2.rest
  have from_begun : p.mem = s.begun.mem ∧ p.shadow1 = s.begun.shadow1 ∧ p.reg.mode1 = s.begun.reg.mode1 ∧
      p.seq = s.begun.seq ∧ p.dagReg = s.begun.dagReg := by
    rw [rest]
    exact ⟨rfl, rfl, rfl, rfl, rfl⟩
  obtain ⟨hmem, hshadow, hmode, hseq, hdag⟩ := from_begun
  rw [hmem, hshadow, hmode, hdag]
  refine ⟨?_, ?_, ?_, hseq, fun k n => ?_⟩ <;> rw [begun] <;> rfl

/-! ### The memory move -/

/-- What precedes the access of an unconditional memory move. -/
theorem State.Settled.memMove_eq (h : s.Settled) {m : MemMove} {a : W32} (ha : s.address m.mode = .ok a)
    (hself : m.selfTransfer = false) (t : State) (site : Nat) :
    ∃ c f, s.memMove t m everyPe false site = (do
      let (xs, w) ← match m.op with
        | .load r => s.load (t.withCache c f) r a m.lw (broadcastBy s.reg.mode1 r m.mode) everyPe false site
        | .store d => do
          let w ← s.store (t.withCache c f) d a m.lw everyPe false
          .ok (([] : List Loaded), w)
      let u ← s.postModify w m.mode
      .ok (xs, u)) := by
  obtain ⟨c, f, hc⟩ := h.pmAccess m.pm t
  refine ⟨c, f, ?_⟩
  have any : everyPe.any = true := rfl
  have self : (!m.selfTransfer) = true := by rw [hself]; rfl
  simp only [State.memMove, any, Bool.not_true, Bool.false_and, Bool.false_eq_true, if_false, h.useMode1, ha, Run.ok_bind,
    gateOk_everyPe, self, need_true, pmAccess_then hc] <;> cases m.op <;> rfl

/-- The index update of an access whose buffer conditions are met. -/
theorem State.Settled.postModify (h : s.Settled) {m : AddrMode} (hm : s.ModeOk m) (t : State) :
    s.postModify t m = .ok (s.postModified t m) := by
  cases m with
  | post i d => exact h.updateIndex t hm
  | direct a => rfl
  | pre i d => rfl

/-- The access of an unconditional load, followed by its index update. -/
theorem State.Settled.memMove_load (h : s.Settled) {m : MemMove} {a : W32} {r : UReg} {xs : List Loaded} {site : Nat}
    (hop : m.op = .load r) (ha : s.address m.mode = .ok a) (hself : m.selfTransfer = false) (hm : s.ModeOk m.mode)
    (hx : ∀ c f, ∃ w, s.load (t.withCache c f) r a m.lw (broadcastBy s.reg.mode1 r m.mode) everyPe false site = .ok (xs, w)) :
    ∃ w, Touched True t w ∧ s.memMove t m everyPe false site = .ok (xs, s.postModified w m.mode) := by
  obtain ⟨c, f, run⟩ := h.memMove_eq ha hself t site
  obtain ⟨w, hw⟩ := hx c f
  obtain ⟨⟨_, -, touched⟩, -⟩ := s.load_touched _ _ _ _ _ _ _ _ _ hw
  refine ⟨w, ((Touched.refl t).withCache c f).trans (touched.mono fun _ => trivial), ?_⟩
  rw [run, hop]
  simp only [hw, Run.ok_bind, h.postModify hm]

/-- The access of an unconditional store, followed by its index update. -/
theorem State.Settled.memMove_store (h : s.Settled) {m : MemMove} {a : W32} {d : Datum} {l : Loc} {site : Nat}
    (hop : m.op = .store d) (ha : s.address m.mode = .ok a) (hself : m.selfTransfer = false) (hm : s.ModeOk m.mode)
    (hl : s.locate a d.isPx m.lw = .ok l) (hx : ∀ t, ∃ w, s.store t d a m.lw everyPe false = .ok w) :
    ∃ w, MemTouched True (s.storedMem t.mem d l everyPe false) t w ∧
      s.memMove t m everyPe false site = .ok ([], s.postModified w m.mode) := by
  obtain ⟨c, f, run⟩ := h.memMove_eq ha hself t site
  obtain ⟨w, hw⟩ := hx (t.withCache c f)
  obtain ⟨l', hl', touched⟩ := s.store_touched _ _ _ _ _ _ _ hw
  obtain rfl : l' = l := Except.ok.inj (hl'.symm.trans hl)
  refine ⟨w, (MemTouched.of_touched ((Touched.refl t).withCache c f)).trans (touched.mono fun _ => trivial), ?_⟩
  rw [run, hop]
  simp only [hw, Run.ok_bind, h.postModify hm]

/-! ### To the end of the instruction -/

/-- The reports of an unconditional memory move complete. -/
theorem State.Settled.report (h : s.Settled) {m : MemMove} {a : W32} (ha : s.address m.mode = .ok a) (t : State) :
    ∃ u, s.report t m everyPe = .ok u := by
  simp [State.report, everyPe, Gate.any, ha, State.detect, h.changed, Changed.none]

theorem State.apart_everyPe (us : List UReg) (ds : List Reg) : s.apart everyPe us ds = .ok () := by
  simp [State.apart, everyPe]

/-- An unconditional move whose access completes and whose registers are written reaches the end of the instruction. -/
theorem State.Steady.move_ends (h : s.Steady) {m : MemMove} {a : W32} {xs : List Loaded} (ha : s.address m.mode = .ok a)
    (hmove : s.memMove t m everyPe false 4 = .ok (xs, v)) (hput : v.putAll s.reg.mode1 xs = .ok w)
    (hx : (xs.any fun x => x.u == .curlcntr) = false) (hd : w.seq.daddr = s.seq.daddr) (hf : w.seq.faddr = s.seq.faddr)
    (ds : List Reg) :
    ∃ z, outcome s (s.move t m everyPe ds >>= s.advance) = .next z ∧ SameOperands w z := by
  obtain ⟨x, hr⟩ := h.1.report ha w
  have touched : Touched False w x := s.report_touched w m everyPe _ hr
  have window : x.seq.daddr = w.seq.daddr ∧ x.seq.faddr = w.seq.faddr := by
    rw [touched.rest]
    exact ⟨rfl, rfl⟩
  obtain ⟨z, hz, hadv⟩ := h.advance (window.1.trans hd) (window.2.trans hf)
  refine ⟨z, ?_, (SameOperands.of_touched touched).trans (.of_advanced hadv)⟩
  simp only [State.move, hmove, State.apart_everyPe, hput, hr, hx, Run.ok_bind, Bool.false_eq_true, if_false, hz, outcome_ok]

end Sys2Proof.Machine
end

section
/-!
PROOF. SimdAccess: the instructions with an unconditional move, and their loads and stores in SIMD mode.
-/
namespace Sys2Proof.Machine

variable {s t u v w : State}

/-! ### The instructions -/

/-- What an unconditional move stands for after the compute `f` of its instruction. -/
def State.MovesAfter (s : State) (f : PeIn → PeOut) (m : MemMove) (o : Host.Outcome State Fault Refusal) : Prop :=
  ∃ ds, o = outcome s (s.move (s.runPes s.begun f true true) m everyPe ds >>= s.advance)

theorem State.peGate_always (h : s.simd = true) : s.peGate .always false = (true, true) := by
  simp [State.peGate, h, State.cond, evalIf]

theorem State.moveGate_always (s : State) : s.moveGate .always = everyPe := rfl

theorem State.Steady.runMove_always (h : s.Steady) (hs : s.simd = true) {k : Compute} (hk : (!k.dualClash) = true)
    (m : MemMove) : s.MovesAfter (computePe k) m (runMove .always k m s) := by
  refine ⟨k.dests, ?_⟩
  have ready : s.condReady .always = .ok () := rfl
  simp only [runMove, ready, h.begin.1, State.peGate_always hs, h.computePart k _ (by simpa using hk), Run.ok_bind,
    State.moveGate_always]

theorem State.Steady.runAccess (h : s.Steady) (m : MemMove) : s.MovesAfter PeOut.none m (runAccess m s) := by
  refine ⟨[], ?_⟩
  have same : s.runPes s.begun PeOut.none true true = s.begun := h.runPes_none (true, true)
  simp only [Machine.runAccess, h.begin.1, Run.ok_bind, same]

/-- Every instruction with an unconditional memory move does its compute and then the move. -/
theorem State.Steady.exec_access (h : s.Steady) (hs : s.simd = true) {i : Instr} {m : MemMove}
    (hi : i.access? = some (.always, true, m)) (hc : i.noClash = true) : s.MovesAfter i.movePe m (exec i s) := by
  cases i with
  | uregMem => cases hi; exact h.runMove_always hs hc _
  | dregMemImm => cases hi; exact h.runMove_always hs hc _
  | shiftImmMem i m c g w ex d op data rn rx =>
    cases hi
    refine ⟨shImmDests op rn, ?_⟩
    have ready : s.condReady .always = .ok () := rfl
    show execShiftImmMem i m .always g w ex d op data rn rx s = _
    simp only [execShiftImmMem, ready, h.begin.1, State.peGate_always hs, h.1.shiftPart, Run.ok_bind, State.moveGate_always]
    rfl
  | uregAbs | uregPre | storeImm => cases hi; exact h.runAccess _
  | _ => cases hi

/-! ### Registers loaded -/

/-- Words for data registers can always be written, and what they leave there depends on the elements alone. -/
theorem putAll_dregs (sse : W32) {xs : List Loaded} (hx : ∀ x ∈ xs, ∃ y n, x.u = UReg.ofDreg y n) :
    ∀ {t v : State}, v.x = t.x → v.y = t.y → v.reg.mode1 = t.reg.mode1 →
      ∃ t' v', t.putAll sse xs = .ok t' ∧ v.putAll sse xs = .ok v' ∧ v' = { v with x := t'.x, y := t'.y } ∧
        t'.reg.mode1 = t.reg.mode1 := by
  induction xs with
  | nil => exact fun {t v} h1 h2 _ => ⟨t, v, rfl, rfl, by rw [← h1, ← h2], rfl⟩
  | cons x xs ih =>
    intro t v h1 h2 h3
    obtain ⟨⟨y, n, hu⟩, hxs⟩ := List.forall_mem_cons.1 hx
    obtain ⟨r, wd, val⟩ := x
    obtain rfl : r = UReg.ofDreg y n := hu
    rw [State.putAll, State.putAll, State.putLoaded_dreg, State.putLoaded_dreg, Run.ok_bind, Run.ok_bind]
    have hpe : v.pe y = t.pe y := by
      unfold State.pe
      rw [h1, h2]
    rw [hpe, h3]
    generalize (t.pe y).takeLoaded t.reg.mode1 sse n wd val = q
    obtain ⟨t', v', ht, hv, hrest, hmode⟩ := ih hxs (t := t.setPe y q) (v := v.setPe y q)
      (by cases y <;> simp [State.setPe, h1]) (by cases y <;> simp [State.setPe, h2]) (by simpa using h3)
    exact ⟨t', v', ht, hv, by rw [hrest]; cases y <;> rfl, by simpa using hmode⟩

theorem simdLoads_dregs (n : Mem) (y : Bool) (d : Reg) (same : Bool) (l k : Loc) :
    ∀ x ∈ simdLoads n y d same l k, ∃ y n, x.u = UReg.ofDreg y n := by
  intro x hx
  rcases List.mem_cons.1 hx with rfl | hx
  · exact ⟨y, d, rfl⟩
  · refine ⟨!y, d, ?_⟩
    split at hx
    · rw [List.mem_singleton.1 hx]
    · split at hx
      · rw [List.mem_singleton.1 hx]
      · exact absurd hx List.not_mem_nil

/-! ### SIMD loads and stores -/

/-- An access of the words that make memory `n`, with its index update: what the end of the instruction and the next one
see of it. -/
structure Accessed (s : State) (n : Mem) (m : AddrMode) (t u : State) : Prop where
  x : u.x = t.x
  y : u.y = t.y
  mode1 : u.reg.mode1 = t.reg.mode1
  daddr : u.seq.daddr = t.seq.daddr
  faddr : u.seq.faddr = t.seq.faddr
  mem : u.mem = n
  dagReg : ∀ k j, u.dagReg k j = s.dagAfter m k j

theorem MemTouched.accessed {p : Prop} {n : Mem} (h : MemTouched p n t w) (ht : ∀ k j, t.dagReg k j = s.dagReg k j)
    (m : AddrMode) : Accessed s n m t (s.postModified w m) := by
  have hdag (k : DagKind) (j : Reg) : w.dagReg k j = s.dagReg k j := by
    rw [Touched.rest h]
    exact ht k j
  have dag := State.dagReg_postModified_eq hdag m
  have mem := (s.postModified_mem (t := w) m).trans h.mem
  have rest := s.postModified_rest w m
  generalize s.postModified w m = v at *
  refine ⟨?_, ?_, ?_, ?_, ?_, mem, dag⟩ <;> rw [rest, Touched.rest h]

variable {i : Instr} {m : MemMove} {a : W32} {l k : Loc}

/-- An unconditional load of a data register in SIMD mode, with the words that it delivers. -/
theorem State.Steady.simdLoad (h : s.Steady) (hs : s.simd = true) (hi : i.access? = some (.always, true, m))
    (hc : i.noClash = true) (hm : s.ModeOk m.mode) (ha : s.address m.mode = .ok a) (hself : m.selfTransfer = false)
    {y : Bool} {n : Reg} (hop : m.op = .load (UReg.ofDreg y n)) (hl : s.locate a false m.lw = .ok l)
    (hr : s.Reachable l true)
    (hk : l.width = 16 ∨ l.width = 32 → broadcastBy s.reg.mode1 (UReg.ofDreg y n) m.mode = false →
      s.implicitLoc l = .ok k ∧ s.Reachable k true) :
    ∃ t u, exec i s = .next u ∧ (s.runPes s.begun i.movePe true true).putAll s.reg.mode1
        (simdLoads s.mem y n (broadcastBy s.reg.mode1 (UReg.ofDreg y n) m.mode) l k) = .ok t ∧
      u.mem = s.mem ∧ (∀ z j, u.dreg z j = t.dreg z j) ∧ ∀ z j, u.dagReg z j = s.dagAfter m.mode z j := by
  obtain ⟨ds, he⟩ := h.exec_access hs hi hc
  obtain ⟨pmem, pshadow, pmode, pseq, pdag⟩ := h.computed i.movePe true true
  generalize s.runPes s.begun i.movePe true true = p at *
  have words := simdLoads_dregs s.mem y n (broadcastBy s.reg.mode1 (UReg.ofDreg y n) m.mode) l k
  obtain ⟨w, hw, hmove⟩ := h.1.memMove_load (site := 4) (t := p) hop ha hself hm fun c f =>
    pmem ▸ h.1.load hs hl hr hk (t := p.withCache c f) pshadow y n 4
  have acc := (MemTouched.of_touched hw).accessed pdag m.mode
  obtain ⟨t, v, ht, hv, hrest, tmode⟩ := putAll_dregs s.reg.mode1 words acc.x acc.y acc.mode1
  have seq : v.seq.daddr = s.seq.daddr ∧ v.seq.faddr = s.seq.faddr := by
    rw [hrest]
    exact ⟨by rw [← h.begun_daddr, ← pseq]; exact acc.daddr, by rw [← h.begun_faddr, ← pseq]; exact acc.faddr⟩
  have noCount : ((simdLoads s.mem y n (broadcastBy s.reg.mode1 (UReg.ofDreg y n) m.mode) l k).any
      fun x => x.u == .curlcntr) = false := by
    refine List.any_eq_false.2 fun x hx => ?_
    obtain ⟨y, d, hd⟩ := words x hx
    rw [hd]
    cases y <;> simp [UReg.ofDreg]
  obtain ⟨z, hz, same⟩ := h.move_ends ha hmove hv noCount seq.1 seq.2 ds
  refine ⟨t, z, he.trans hz, ht, ?_, fun e j => ?_, fun e j => ?_⟩
  · rw [same.mem, hrest]
    exact acc.mem.trans pmem
  · rw [same.dreg, hrest]
    unfold State.dreg State.pe
    rw [tmode, ← acc.mode1]
  · rw [same.dagReg, hrest]
    exact acc.dagReg e j

/-- An unconditional store in SIMD mode, with the words that it stores. -/
theorem State.Calm.simdStore (h : s.Calm) (hs : s.simd = true) (hi : i.access? = some (.always, true, m))
    (hc : i.noClash = true) (hm : s.ModeOk m.mode) (ha : s.address m.mode = .ok a) (hself : m.selfTransfer = false)
    {d : Datum} (hop : m.op = .store d) (hl : s.locate a d.isPx m.lw = .ok l)
    (hx : ∀ t, ∃ w, s.store t d a m.lw everyPe false = .ok w) :
    ∃ u, exec i s = .next u ∧ u.mem = s.storedMem s.mem d l everyPe false ∧
      u.x = (s.runPes s.begun i.movePe true true).x ∧ u.y = (s.runPes s.begun i.movePe true true).y ∧
      ∀ z j, u.dagReg z j = s.dagAfter m.mode z j := by
  obtain ⟨ds, he⟩ := h.1.exec_access hs hi hc
  obtain ⟨pmem, pshadow, pmode, pseq, pdag⟩ := h.1.computed i.movePe true true
  generalize s.runPes s.begun i.movePe true true = p at *
  obtain ⟨w, hw, hmove⟩ := h.1.1.memMove_store (site := 4) (t := p) hop ha hself hm hl hx
  rw [pmem] at hw
  have acc := hw.accessed pdag m.mode
  obtain ⟨z, hz, same⟩ := h.1.move_ends ha hmove rfl rfl
    (by rw [← h.1.begun_daddr, ← pseq]; exact acc.daddr) (by rw [← h.1.begun_faddr, ← pseq]; exact acc.faddr) ds
  exact ⟨z, he.trans hz, same.mem.trans acc.mem, same.x.trans acc.x, same.y.trans acc.y,
    fun e j => (same.dagReg e j).trans (acc.dagReg e j)⟩

/-- The memory that a store to words of memory leaves in SIMD mode. -/
theorem State.storedMem_everyPe (hs : s.simd = true) {d : Datum} (hr : l.place.isReg = false)
    (hk : l.width = 16 ∨ l.width = 32 → d.comp.isSome = true → s.implicitLoc l = .ok k) (n : Mem) :
    s.storedMem n d l everyPe false =
      (let q := n.store l.bytes.1 l.bytes.2 (s.datumWord d l.width).toNat
       match (if l.width = 16 ∨ l.width = 32 then d.comp else none) with
       | some e => q.store k.bytes.1 k.bytes.2 (s.datumWord e l.width).toNat
       | none => q) := by
  have gate : everyPe.x = true := rfl
  simp only [State.storedMem, hr, Bool.false_eq_true, if_false, s.implicitDatum_everyPe hs, State.explicitMem, gate, if_true]
  cases hc : (if l.width = 16 ∨ l.width = 32 then d.comp else none) with
  | none => rfl
  | some e =>
    obtain ⟨narrow, comp⟩ := Option.ite_none_right_eq_some.1 hc
    rw [hk narrow (by simp [comp])]

/-- Words of which there is one or none. -/
theorem putAll_one {sse : W32} {x : Loaded} (h : t.putAll sse [x] = .ok u) : t.putLoaded sse x = .ok u := by
  obtain ⟨v, hv, hu⟩ := Run.bind_eq_ok.1 h
  rw [hv]
  exact hu

/-- The second word of a load: of a broadcast load, of a narrow word, or none. -/
theorem ifs_of_putAll {sse : W32} {same narrow : Prop} [Decidable same] [Decidable narrow] {x x' : Loaded}
    (h : t.putAll sse (if same then [x] else if narrow then [x'] else []) = .ok u) :
    if same then t.putLoaded sse x = .ok u else if narrow then t.putLoaded sse x' = .ok u else u = t := by
  split at h
  · next hs => rw [if_pos hs]; exact putAll_one h
  · next hs =>
    rw [if_neg hs]
    split at h
    · next hn => rw [if_pos hn]; exact putAll_one h
    · next hn => rw [if_neg hn]; exact (Except.ok.inj h).symm

/-- Settles O43: the load delivers its words to the two elements in order, the store stores its own in order, and both go
through one index update. -/
theorem simdAccess : Obligations.SimdAccess := by
  intro i m a l k s hi hc h hs hm ha hself p word narrow
  refine ⟨?_, ?_⟩
  · intro y n r c same hop hl hr hk
    have comp : c = UReg.ofDreg (!y) n := by cases y <;> rfl
    obtain ⟨t, u, hu, ht, hmem, hdreg, hdag⟩ := h.1.simdLoad hs hi hc hm ha hself hop hl hr hk
    obtain ⟨t0, ht0, ht⟩ := Run.bind_eq_ok.1 ht
    refine ⟨t0, t, u, hu, ht0, ?_, fun j => by rw [hmem], hdreg, hdag⟩
    rw [comp]
    exact ifs_of_putAll ht
  · intro d hop hl hr hp hd hk
    obtain ⟨u, hu, hmem, hx, hy, hdag⟩ := h.simdStore hs hi hc hm ha hself hop hl (h.store hs hl hr hp hd hk)
    exact ⟨u, hu, hmem.trans (s.storedMem_everyPe hs hr.isReg (fun narrow comp => (hk narrow comp).1) _), hx, hy, hdag⟩

end Sys2Proof.Machine
end

section
/-!
PROOF. EncodeDecode, the first half: each field of a word reads back what the encoder put there, each code names what it is the
code of, and so the decoder answers the instruction whose word it is given (30_encoding.md R200 to R253).
-/
namespace Sys2Proof

/-! ### Fields of a word -/

/-- Reading a field or a bit of a word that is written as its fields side by side. -/
theorem fields_append {v w : Nat} (a : BitVec v) (b : BitVec w) :
    (∀ start len, w ≤ start → (a ++ b).extractLsb' start len = a.extractLsb' (start - w) len) ∧
    (∀ start len, start + len ≤ w → (a ++ b).extractLsb' start len = b.extractLsb' start len) ∧
    (∀ j, w ≤ j → (a ++ b).getLsbD j = a.getLsbD (j - w)) ∧
    (∀ j, j < w → (a ++ b).getLsbD j = b.getLsbD j) :=
  ⟨fun _ _ h => extract_hi a b h, fun _ _ h => BitVec.extractLsb'_append_eq_of_add_le h,
    fun j h => by simp [BitVec.getLsbD_append, Nat.not_lt.2 h], fun j h => by simp [BitVec.getLsbD_append, h]⟩

/-- Reading all of a field, or the one bit of a Bool field. -/
theorem whole_field :
    (∀ (n : Nat) (x : BitVec n), x.extractLsb' 0 n = x) ∧ (∀ b : Bool, (fb b).getLsbD 0 = b) :=
  ⟨fun _ _ => BitVec.extractLsb'_eq_self, fun b => by cases b <;> rfl⟩

/-! ### Codes -/

theorem Test.ofCode?_code (t : Test) : Test.ofCode? t.code = some t := by
  cases t with
  | flag n => revert n; decide
  | _ => rfl

theorem Cond.ofCode_code (c : Cond) : Cond.ofCode c.code = c := by
  cases c with
  | is t | isNot t =>
    simp (disch := decide) only [Cond.code, Cond.ofCode, fields_append, whole_field, Nat.reduceSub, Test.ofCode?_code]
    rfl
  | lce => rfl
  | always => rfl

theorem SReg.ofCode_code (k : SReg) : SReg.ofCode k.code = k := by cases k <;> rfl

theorem UReg.ofCode?_code (u : UReg) : UReg.ofCode? u.code = some u := by
  cases u with
  | r n | i n | m n | l n | b n | s n =>
    simp (disch := decide) only [UReg.code, UReg.ofCode?, fields_append, whole_field, Nat.reduceSub]
  | sys k => simp (disch := decide) only [UReg.code, UReg.ofCode?, fields_append, whole_field, Nat.reduceSub, SReg.ofCode_code]
  | _ => rfl

/-- An OPCODE that is no dual add and subtract and not zero (30_encoding.md R250, R251). -/
def SingleAlu (c : BitVec 8) : Prop := c ≠ 0 ∧ c.extractLsb' 4 4 ≠ 7 ∧ c.extractLsb' 4 4 ≠ 15

theorem AluBin.ofCode?_code (op : AluBin) : SingleAlu op.code ∧ AluBin.ofCode? op.code = some op := by
  cases op <;> exact ⟨by unfold SingleAlu; decide, rfl⟩

theorem AluUn.ofCode?_code (op : AluUn) :
    SingleAlu op.code ∧ AluBin.ofCode? op.code = none ∧ AluUn.ofCode? op.code = some op := by
  cases op <;> exact ⟨by unfold SingleAlu; decide, rfl, rfl⟩

theorem AluCmp.ofCode?_code (op : AluCmp) :
    SingleAlu op.code ∧ AluBin.ofCode? op.code = none ∧ AluUn.ofCode? op.code = none ∧
      AluCmp.ofCode? op.code = some op := by
  cases op <;> exact ⟨by unfold SingleAlu; decide, rfl, rfl, rfl⟩

theorem ShBin.ofCode?_code (op : ShBin) : op.code ≠ btstCode ∧ ShBin.ofCode? op.code = some op := by
  cases op <;> exact ⟨by decide, rfl⟩

theorem ShUn.ofCode?_code (op : ShUn) :
    op.code ≠ btstCode ∧ ShBin.ofCode? op.code = none ∧ ShUn.ofCode? op.code = some op := by
  cases op <;> exact ⟨by decide, rfl, rfl⟩

theorem ShImm.ofCode?_code (op : ShImm) : ShImm.ofCode? op.code = some op := by
  cases op with
  | bin op => simp [ShImm.code, ShImm.ofCode?, ShBin.ofCode?_code]
  | btst => rfl

theorem Mr.ofCode_code (d : Mr) : Mr.ofCode d.code = d := by cases d <;> rfl

theorem MrPart.ofCode?_code (p : MrPart) : MrPart.ofCode? p.code = some p := by cases p <;> rfl

theorem MfMul.ofCode?_code (m : MfMul) : MfMul.ofCode? m.code = some m := by cases m <;> rfl

theorem MfAlu.ofCode?_code (a : MfAlu) : MfAlu.ofCode? a.code = some a := by cases a <;> rfl

theorem MfFlt.ofCode_code (a : MfFlt) : MfFlt.ofCode a.code = a := by cases a <;> rfl

/-! ### The compute field -/

/-- What the decoder reads of a single-function field (30_encoding.md R250). -/
theorem single_fields (cu : BitVec 2) (op : BitVec 8) (rn rx ry : Reg) :
    let f := single cu op rn rx ry
    f.getLsbD 22 = false ∧ f.extractLsb' 20 2 = cu ∧ fieldOp f = op ∧ f.extractLsb' 16 4 = op.extractLsb' 4 4 ∧
      f.extractLsb' 12 4 = op.extractLsb' 0 4 ∧ f.extractLsb' 14 6 = op.extractLsb' 2 6 ∧
      f.extractLsb' 12 2 = op.extractLsb' 0 2 ∧ fieldRN f = rn ∧ fieldRX f = rx ∧ fieldRY f = ry := by
  simp (disch := decide) only [single, fieldOp, fieldRN, fieldRX, fieldRY, fields_append, whole_field, Nat.reduceSub]
  trivial

/-- The unit that a single-function field is for. -/
theorem decodeCompute_single (op : BitVec 8) (rn rx ry : Reg) :
    decodeCompute (single 0 op rn rx ry) = decodeAlu (single 0 op rn rx ry) ∧
    decodeCompute (single 1 op rn rx ry) = decodeMul (single 1 op rn rx ry) ∧
    decodeCompute (single 2 op rn rx ry) = decodeShift (single 2 op rn rx ry) := by
  simp only [decodeCompute, single_fields]
  exact ⟨rfl, rfl, rfl⟩

/-- A single-function field of the ALU, where it is no dual add and subtract. -/
theorem decodeAlu_single {c : BitVec 8} (h : SingleAlu c) (rn rx ry : Reg) :
    decodeAlu (single 0 c rn rx ry) = ((AluBin.ofCode? c).map (.aluBin · rn rx ry)).or
      (((AluUn.ofCode? c).map (.aluUn · rn rx)).or ((AluCmp.ofCode? c).map (.aluCmp · rx ry))) := by
  obtain ⟨h0, h7, h15⟩ := h
  simp only [decodeAlu, single_fields, if_neg h0, if_neg h7, if_neg h15]
  cases AluBin.ofCode? c <;> cases AluUn.ofCode? c <;> cases AluCmp.ofCode? c <;> rfl

theorem dual_ne_zero : ∀ rs : Reg, 7#4 ++ rs ≠ (0 : BitVec 8) ∧ 15#4 ++ rs ≠ (0 : BitVec 8) := by decide

theorem decodeAlu_dual (rs ra rx ry : Reg) :
    decodeAlu (single 0 (7#4 ++ rs) ra rx ry) = some (.dualFix rs ra rx ry) ∧
    decodeAlu (single 0 (15#4 ++ rs) ra rx ry) = some (.dualFlt rs ra rx ry) := by
  simp (disch := decide) only [decodeAlu, single_fields, fields_append, whole_field, Nat.reduceSub,
    if_neg (dual_ne_zero rs).1, if_neg (dual_ne_zero rs).2]
  exact ⟨rfl, rfl⟩

/-- What the decoder reads of the OPCODE of a multiply (46_multiplier.md R491). -/
theorem MulMod.opcode_fields (m : MulMod) (op sel : BitVec 2) :
    (m.opcode op sel).extractLsb' 6 2 = op ∧ MulMod.ofOpcode (m.opcode op sel) = m ∧
    (m.opcode op sel).getLsbD 2 = sel.getLsbD 1 ∧ (m.opcode op sel).getLsbD 1 = sel.getLsbD 0 ∧
    (m.opcode op sel).extractLsb' 1 1 = sel.extractLsb' 0 1 := by
  simp (disch := decide) only [MulMod.opcode, MulMod.ofOpcode, fields_append, whole_field, Nat.reduceSub]
  trivial

/-- A field of the multiplier with the OPCODE of a multiply (46_multiplier.md R491, R496). -/
theorem decodeMul_multiply {op : BitVec 2} (hop : op ≠ 0) (m : MulMod) (sel : BitVec 2) (rn rx ry : Reg) :
    decodeMul (single 1 (m.opcode op sel) rn rx ry) = decodeMultiply (single 1 (m.opcode op sel) rn rx ry) := by
  simp only [decodeMul, single_fields, MulMod.opcode_fields]
  exact if_pos hop

theorem decodeCompute_mulRn (a : Accum) {m : MulMod} (h : m.wf = true) (rn rx ry : Reg) :
    decodeCompute (encodeCompute (.mulRn a m rn rx ry)) = some (.mulRn a m rn rx ry) := by
  cases a <;>
  · simp (disch := decide) only [encodeCompute, decodeCompute_single, decodeMul_multiply, decodeMultiply, single_fields,
      MulMod.opcode_fields, h, fields_append, whole_field, Mr.ofCode_code]
    rfl

theorem decodeCompute_mulMr (d : Mr) (a : AccOp) {m : MulMod} (h : m.wf = true) (rx ry : Reg) :
    decodeCompute (encodeCompute (.mulMr d a m rx ry)) = some (.mulMr d a m rx ry) := by
  cases a <;>
  · simp (disch := decide) only [encodeCompute, decodeCompute_single, decodeMul_multiply, decodeMultiply, single_fields,
      MulMod.opcode_fields, h, fields_append, whole_field, Mr.ofCode_code]
    rfl

theorem decodeMul_sat (d : Mr) (m : SatMod) (rn : Reg) :
    decodeMul (encodeCompute (.satRn d m rn)) = some (.satRn d m rn) ∧
    decodeMul (encodeCompute (.satMr d m)) = some (.satMr d m) := by
  obtain ⟨f, g⟩ := m
  simp (disch := decide) only [encodeCompute, decodeMul, single_fields, fields_append, whole_field, Mr.ofCode_code,
    Nat.reduceSub]
  cases d <;> cases f <;> cases g <;> exact ⟨rfl, rfl⟩

theorem decodeMul_rnd (d : Mr) (g : Bool) (rn : Reg) :
    decodeMul (encodeCompute (.rndRn d g rn)) = some (.rndRn d g rn) ∧
    decodeMul (encodeCompute (.rndMr d g)) = some (.rndMr d g) := by
  simp (disch := decide) only [encodeCompute, decodeMul, single_fields, fields_append, whole_field, Mr.ofCode_code,
    Nat.reduceSub]
  cases d <;> cases g <;> exact ⟨rfl, rfl⟩

theorem decodeShift_single (c : BitVec 6) (rn rx ry : Reg) :
    decodeShift (single 2 (c ++ 0#2) rn rx ry) = if c = btstCode then some (.btst rx ry)
      else ((ShBin.ofCode? c).map (.shBin · rn rx ry)).or ((ShUn.ofCode? c).map (.shUn · rn rx)) := by
  simp (disch := decide) only [decodeShift, single_fields, fields_append, whole_field, Nat.reduceSub]
  cases ShBin.ofCode? c <;> cases ShUn.ofCode? c <;> rfl

theorem decodeCompute_mrTransfer (p : MrPart) (rk : Reg) :
    decodeCompute (encodeCompute (.mrToReg p rk)) = some (.mrToReg p rk) ∧
    decodeCompute (encodeCompute (.regToMr p rk)) = some (.regToMr p rk) := by
  simp (disch := decide) only [encodeCompute, decodeCompute, decodeMulti, fieldRN, fields_append, whole_field,
    Nat.reduceSub, MrPart.ofCode?_code]
  exact ⟨rfl, rfl⟩

theorem MfRegs.ofField_append (op : BitVec 7) (q : MfRegs) : MfRegs.ofField (op ++ q.field) = q := by
  simp (disch := decide) only [MfRegs.ofField, MfRegs.field, fields_append, whole_field, Nat.reduceSub]

/-- A multifunction form, by the seven bits of its opcode (48_multifunction.md R565). -/
theorem decodeCompute_multi {op : BitVec 7} (q : MfRegs) (h : op.getLsbD 6 = true) (hm : op.extractLsb' 1 6 ≠ 0x20) :
    decodeCompute (op ++ q.field) =
      if op.extractLsb' 4 3 = 6 then some (.mfDualFix (op.extractLsb' 0 4) q)
      else if op.extractLsb' 4 3 = 7 then some (.mfDualFlt (op.extractLsb' 0 4) q)
      else if op.extractLsb' 3 4 = 0xB then some (.mfFlt (MfFlt.ofCode (op.extractLsb' 0 3)) q)
      else (MfMul.ofCode? (op.extractLsb' 2 4)).bind fun m =>
        (MfAlu.ofCode? (op.extractLsb' 0 2)).map fun a => .mfFix m a q := by
  have h1 : op.extractLsb' 6 1 = 1 := by
    revert op
    decide
  simp (disch := decide) only [decodeCompute, decodeMulti, fields_append, Nat.reduceSub,
    MfRegs.ofField_append, h, h1, if_neg hm, if_true]
  cases MfMul.ofCode? (op.extractLsb' 2 4) <;> cases MfAlu.ofCode? (op.extractLsb' 0 2) <;> rfl

theorem decodeCompute_mfFix (m : MfMul) (a : MfAlu) (q : MfRegs) :
    decodeCompute (encodeCompute (.mfFix m a q)) = some (.mfFix m a q) := by
  refine (decodeCompute_multi (op := 1#1 ++ m.code ++ a.code) q ?_ ?_).trans ?_
  · cases m <;> cases a <;> rfl
  · cases m <;> cases a <;> decide
  · cases m <;> cases a <;> rfl

theorem decodeCompute_mfFlt (a : MfFlt) (q : MfRegs) :
    decodeCompute (encodeCompute (.mfFlt a q)) = some (.mfFlt a q) := by
  refine (decodeCompute_multi (op := 0xB#4 ++ a.code) q ?_ ?_).trans ?_
  · cases a <;> rfl
  · cases a <;> decide
  · cases a <;> rfl

theorem decodeCompute_mfDual (rs : Reg) (q : MfRegs) :
    decodeCompute (encodeCompute (.mfDualFix rs q)) = some (.mfDualFix rs q) ∧
    decodeCompute (encodeCompute (.mfDualFlt rs q)) = some (.mfDualFlt rs q) := by
  have opcode : ∀ rs : Reg, (6#3 ++ rs).getLsbD 6 = true ∧ (6#3 ++ rs).extractLsb' 1 6 ≠ 0x20 ∧
      (7#3 ++ rs).getLsbD 6 = true ∧ (7#3 ++ rs).extractLsb' 1 6 ≠ 0x20 := by decide
  obtain ⟨fix, fix_mr, flt, flt_mr⟩ := opcode rs
  refine ⟨(decodeCompute_multi q fix fix_mr).trans ?_, (decodeCompute_multi q flt flt_mr).trans ?_⟩
  all_goals
    simp (disch := decide) only [fields_append, whole_field]
    rfl

/-- The decoder answers the operation a compute field was made from (30_encoding.md R250 to R253). -/
theorem decodeCompute_encodeCompute {k : Compute} (h : k.wf = true) : decodeCompute (encodeCompute k) = some k := by
  cases k with
  | none => rfl
  | aluBin op rn rx ry =>
    obtain ⟨hs, hop⟩ := op.ofCode?_code
    simp only [encodeCompute, decodeCompute_single, decodeAlu_single hs, hop, Option.map_some, Option.some_or]
  | aluUn op rn rx =>
    obtain ⟨hs, hbin, hop⟩ := op.ofCode?_code
    simp only [encodeCompute, decodeCompute_single, decodeAlu_single hs, hbin, hop, Option.map_some, Option.map_none,
      Option.none_or, Option.some_or]
  | aluCmp op rx ry =>
    obtain ⟨hs, hbin, hun, hop⟩ := op.ofCode?_code
    simp only [encodeCompute, decodeCompute_single, decodeAlu_single hs, hbin, hun, hop, Option.map_some,
      Option.map_none, Option.none_or]
  | mulRn a m rn rx ry => exact decodeCompute_mulRn a h rn rx ry
  | mulMr d a m rx ry => exact decodeCompute_mulMr d a h rx ry
  | satRn d m rn => exact (decodeCompute_single _ _ _ _).2.1.trans (decodeMul_sat d m rn).1
  | satMr d m => exact (decodeCompute_single _ _ _ _).2.1.trans (decodeMul_sat d m 0).2
  | rndRn d g rn => exact (decodeCompute_single _ _ _ _).2.1.trans (decodeMul_rnd d g rn).1
  | rndMr d g => exact (decodeCompute_single _ _ _ _).2.1.trans (decodeMul_rnd d g 0).2
  | clrMr d => cases d <;> rfl
  | mulF rn rx ry =>
    simp only [encodeCompute, decodeCompute_single, decodeMul, single_fields]
    rfl
  | mrToReg p rk => exact (decodeCompute_mrTransfer p rk).1
  | regToMr p rk => exact (decodeCompute_mrTransfer p rk).2
  | shBin op rn rx ry =>
    obtain ⟨hb, hop⟩ := op.ofCode?_code
    simp only [encodeCompute, decodeCompute_single, decodeShift_single, if_neg hb, hop, Option.map_some, Option.some_or]
  | shUn op rn rx =>
    obtain ⟨hb, hbin, hop⟩ := op.ofCode?_code
    simp only [encodeCompute, decodeCompute_single, decodeShift_single, if_neg hb, hbin, hop, Option.map_some,
      Option.map_none, Option.none_or]
  | btst rx ry => simp only [encodeCompute, decodeCompute_single, decodeShift_single, if_true]
  | dualFix rs ra rx ry => simp only [encodeCompute, decodeCompute_single, decodeAlu_dual]
  | dualFlt rs ra rx ry => simp only [encodeCompute, decodeCompute_single, decodeAlu_dual]
  | mfFix m a q => exact decodeCompute_mfFix m a q
  | mfFlt a q => exact decodeCompute_mfFlt a q
  | mfDualFix rs q => exact (decodeCompute_mfDual rs q).1
  | mfDualFlt rs q => exact (decodeCompute_mfDual rs q).2

/-! ### The instruction word -/

/-- A compute row is the instruction of its operation. -/
theorem Instr.ofCompute_compute? {i : Instr} {k : Compute} (h : i.compute? = some k) :
    Instr.ofCompute k = i ∧ encode i = type2 .always k := by
  cases i <;> cases h <;> exact ⟨rfl, rfl⟩

theorem Instr.compute?_wf {i : Instr} {k : Compute} (h : i.compute? = some k) : i.WellFormed = k.wf := by
  cases i <;> cases h <;> rfl

theorem decode_type2 (c : Cond) {k : Compute} (h : k.wf = true) :
    decode (type2 c k) = .ok (if c = .always then Instr.ofCompute k else .condCompute c k) := by
  simp (disch := decide) only [type2, decode, decodeGroup0, decodeType2, withCompute, fieldCond, fields_append, whole_field,
    Nat.reduceSub, Cond.ofCode_code, decodeCompute_encodeCompute h]
  rfl

theorem UReg.code_halves (u : UReg) : u.code.extractLsb' 2 5 ++ u.code.extractLsb' 0 2 = u.code := by
  rw [BitVec.extractLsb'_append_extractLsb'_eq_extractLsb' (by decide : 2 = 0 + 2)]
  exact BitVec.extractLsb'_eq_self

/-- The rows of 48 bits, by what their words hold: a compute field, a shift or an address or data, a BOP, stack requests. -/
theorem decode_encode_of_compute?_none {i : Instr} (hi : i.compute? = none) (h : i.WellFormed = true) :
    decode (encode i) = .ok i := by
  cases i with
  | condCompute c k =>
    simp only [Instr.WellFormed, Bool.and_eq_true, decide_eq_true_eq] at h
    obtain ⟨hk, hc⟩ := h
    exact (decode_type2 c hk).trans (congrArg _ (if_neg hc))
  | dualMove | uregMem | dregMemImm | uregMove | swap | modify | jumpInd | jumpRel6 | callInd | callRel6 | jumpIndElse
  | jumpRelElse | rts | rti =>
    have hk := decodeCompute_encodeCompute h
    unfold encode
    simp (disch := decide) only [decode, decodeGroup0, decodeType4, decodeType5, fieldCond, fieldDag, fieldReg, withCompute,
      withUReg, fields_append, whole_field, Nat.reduceSub, BitVec.reduceExtractLsb', BitVec.reduceGetLsb, if_true, if_false,
      Bool.false_eq_true, Cond.ofCode_code, UReg.ofCode?_code, UReg.code_halves, hk]
  | shiftImmMem | shiftImm | jumpAbs | jumpRel | callAbs | callRel | doImm | doUreg | doUntil | uregPre | storeImm | loadImm
  | modifyImm | bitrev | cjumpAbs | cjumpRel =>
    unfold encode
    simp (disch := decide) only [decode, decodeGroup0, decodeType6, decodeCjump, fieldCond, fieldDag, fieldReg, withUReg,
      withShift, fields_append, whole_field, Nat.reduceSub, BitVec.reduceExtractLsb', BitVec.reduceGetLsb, if_true, if_false,
      Bool.false_eq_true, Cond.ofCode_code, UReg.ofCode?_code, ShImm.ofCode?_code] <;> rfl
  | uregAbs g d =>
    unfold encode
    simp (disch := decide) only [decode, decodeGroup0, withUReg, fields_append, whole_field, Nat.reduceSub,
      BitVec.reduceExtractLsb', UReg.ofCode?_code]
    -- the G and D bits are the low two of the five by which `decodeGroup0` goes
    cases g <;> cases d <;> rfl
  | bitSet | bitClr | bitTgl | bitTst | bitXor =>
    unfold encode
    simp (disch := decide) only [type18, decode, decodeGroup0, decodeType18, fields_append, whole_field, Nat.reduceSub,
      BitVec.reduceExtractLsb', SReg.ofCode_code]
    rfl
  | pushLoop | popLoop | pushSts | popSts | pushPc | popPc | flushCache =>
    unfold encode
    simp (disch := decide) only [type20, decode, decodeGroup0, decodeType20, fields_append, whole_field, Nat.reduceSub,
      BitVec.reduceExtractLsb']
    simp
  | nop | idle | rframe => rfl
  | _ => cases hi

theorem decode_encode {i : Instr} (h : i.WellFormed = true) : decode (encode i) = .ok i := by
  cases hi : i.compute? with
  | none => exact decode_encode_of_compute?_none hi h
  | some k =>
    obtain ⟨row, word⟩ := Instr.ofCompute_compute? hi
    rw [word, decode_type2 .always (Instr.compute?_wf hi ▸ h), if_pos rfl, row]

end Sys2Proof
end

section
/-!
PROOF. EncodeDecode, the second half: whatever the decoder answers is well-formed; and both halves together.
-/
namespace Sys2Proof

/-! ### Compute operations -/

/-- Only the multiplies carry a constraint, and the decoder checks it (46_multiplier.md R491). -/
theorem decodeMultiply_wf {f : BitVec 23} {k : Compute} (h : decodeMultiply f = some k) : k.wf = true := by
  simp only [decodeMultiply, Option.ite_none_right_eq_some] at h
  obtain ⟨hm, h⟩ := h
  split at h
  · obtain ⟨_, h⟩ := Option.ite_none_left_eq_some.1 h
    cases h
    exact hm
  all_goals cases h <;> exact hm

/-- No operation of the ALU carries a constraint; the same below for the other units. -/
theorem decodeAlu_wf {f : BitVec 23} {k : Compute} (h : decodeAlu f = some k) : k.wf = true := by
  unfold decodeAlu at h
  repeat' split at h
  all_goals cases h <;> rfl

theorem decodeMul_wf {f : BitVec 23} {k : Compute} (h : decodeMul f = some k) : k.wf = true := by
  simp only [decodeMul] at h
  split at h
  · exact decodeMultiply_wf h
  repeat' split at h
  all_goals cases h <;> rfl

theorem decodeShift_wf {f : BitVec 23} {k : Compute} (h : decodeShift f = some k) : k.wf = true := by
  simp only [decodeShift] at h
  repeat' split at h
  all_goals cases h <;> rfl

theorem decodeMulti_wf {f : BitVec 23} {k : Compute} (h : decodeMulti f = some k) : k.wf = true := by
  unfold decodeMulti at h
  repeat' split at h
  all_goals cases h <;> rfl

theorem decodeCompute_wf {f : BitVec 23} {k : Compute} (h : decodeCompute f = some k) : k.wf = true := by
  unfold decodeCompute at h
  split at h
  · exact decodeMulti_wf h
  · split at h
    · exact decodeAlu_wf h
    · exact decodeMul_wf h
    · exact decodeShift_wf h
    · cases h

theorem Instr.ofCompute_wf (k : Compute) : (Instr.ofCompute k).WellFormed = k.wf := by
  unfold Instr.ofCompute
  split <;> rfl

/-! ### Instructions -/

/-- Whatever the computation answers is well-formed. -/
def AnswersWf (r : Except Reject Instr) : Prop := ∀ i, r = .ok i → i.WellFormed = true

theorem answersWf_ok {i : Instr} (h : i.WellFormed = true) : AnswersWf (.ok i) := by rintro j ⟨⟩; exact h

theorem answersWf_error (e : Reject) : AnswersWf (.error e) := by rintro j ⟨⟩

theorem answersWf_ite {c : Prop} [Decidable c] {r q : Except Reject Instr} (hr : AnswersWf r) (hq : AnswersWf q) :
    AnswersWf (if c then r else q) := by
  split
  · exact hr
  · exact hq

theorem answersWf_ok_ite {c : Prop} [Decidable c] {i j : Instr} (hi : i.WellFormed = true) (hj : j.WellFormed = true) :
    AnswersWf (.ok (if c then i else j)) := by
  split
  · exact answersWf_ok hi
  · exact answersWf_ok hj

theorem answersWf_withCompute (w : W48) {f : Compute → Instr} (h : ∀ k, k.wf = true → (f k).WellFormed = true) :
    AnswersWf (withCompute w f) := by
  unfold withCompute
  split
  · next hk => exact answersWf_ok (h _ (decodeCompute_wf hk))
  · exact answersWf_error _

theorem answersWf_withUReg (c : BitVec 7) {f : UReg → Except Reject Instr} (h : ∀ u, AnswersWf (f u)) :
    AnswersWf (withUReg c f) := by
  unfold withUReg
  split
  · exact h _
  · exact answersWf_error _

theorem answersWf_withShift (w : W48) {f : ShImm → Instr} (h : ∀ op, (f op).WellFormed = true) :
    AnswersWf (withShift w f) := by
  unfold withShift
  refine answersWf_ite (answersWf_error _) ?_
  split
  · exact answersWf_ok (h _)
  · exact answersWf_error _

/-- With COND = TRUE the answer is a compute row, with another condition a conditional compute (30_encoding.md R203). -/
theorem decodeType2_answersWf (w : W48) : AnswersWf (decodeType2 w) := by
  refine answersWf_withCompute w fun k hk => ?_
  split
  · rw [Instr.ofCompute_wf, hk]
  · next hc => simp [Instr.WellFormed, hk, hc]

theorem decodeType18_answersWf (w : W48) : AnswersWf (decodeType18 w) := by
  unfold decodeType18
  dsimp only
  split
  case h_6 => exact answersWf_error _
  all_goals exact answersWf_ok rfl

theorem decodeType20_answersWf (w : W48) : AnswersWf (decodeType20 w) := by
  unfold decodeType20
  refine answersWf_ite (answersWf_error _) ?_
  repeat' refine answersWf_ite (answersWf_ok rfl) ?_
  exact answersWf_ok rfl

theorem decodeCjump_answersWf (w : W48) : AnswersWf (decodeCjump w) :=
  answersWf_ite (answersWf_ok rfl) (answersWf_ite (answersWf_ok rfl) (answersWf_error _))

theorem decodeType5_answersWf (w : W48) : AnswersWf (decodeType5 w) :=
  answersWf_ite (answersWf_withCompute w fun _ hk => hk)
    (answersWf_withUReg _ fun _ => answersWf_withUReg _ fun _ => answersWf_withCompute w fun _ hk => hk)

theorem decodeGroup0_answersWf (w : W48) : AnswersWf (decodeGroup0 w) := by
  unfold decodeGroup0
  dsimp only
  split
  · exact answersWf_ok_ite rfl rfl
  · exact decodeType2_answersWf w
  · exact answersWf_withShift w fun _ => rfl
  · exact answersWf_withCompute w fun _ hk => hk
  · exact answersWf_ok_ite rfl rfl
  · exact answersWf_ok_ite rfl rfl
  · exact answersWf_withCompute w fun _ hk => by split <;> exact hk
  · exact answersWf_withCompute w fun _ hk => by split <;> exact hk
  · exact answersWf_withCompute w fun _ hk => hk
  · exact answersWf_withCompute w fun _ hk => hk
  · exact answersWf_ok rfl
  · exact answersWf_ite (answersWf_error _) (answersWf_withUReg _ fun _ => answersWf_ok rfl)
  · exact answersWf_ok rfl
  · exact answersWf_ite (answersWf_error _) (answersWf_withUReg _ fun _ => answersWf_ok rfl)
  iterate 4 · exact answersWf_withUReg _ fun _ => answersWf_ok rfl
  · exact decodeType18_answersWf w
  · exact answersWf_ok_ite rfl rfl
  · exact decodeType20_answersWf w
  · exact decodeCjump_answersWf w
  · exact answersWf_ite (answersWf_ok rfl) (answersWf_error _)
  · exact answersWf_error _

theorem decode_answersWf (w : W48) : AnswersWf (decode w) := by
  unfold decode
  split
  · exact decodeGroup0_answersWf w
  · exact answersWf_withCompute w fun _ hk => hk
  · exact answersWf_withUReg _ fun _ => answersWf_withCompute w fun _ hk => hk
  · exact answersWf_ite (decodeType5_answersWf w) (answersWf_withCompute w fun _ hk => hk)
  · exact answersWf_ite (answersWf_ok rfl) (answersWf_withShift w fun _ => rfl)
  · exact answersWf_withUReg _ fun _ => answersWf_ok rfl
  · exact answersWf_withCompute w fun _ hk => hk
  · exact answersWf_withCompute w fun _ hk => hk

end Sys2Proof

namespace Sys2Proof.Machine

/-- Settles O1: the encoder's fields are the decoder's, and the decoder checks the one constraint there is. -/
theorem encodeDecode : Obligations.EncodeDecode := ⟨fun _ h => decode_encode h, decode_answersWf⟩

end Sys2Proof.Machine
end

section
/-!
PROOF. BusMaster: the access that waits for the bus, the events of the bus with what they ask for and do, the order of
priority, and the writes of an external master on their way.
-/
namespace Sys2Proof.Machine

variable {s t : State}

/-! ### The access that waits -/

theorem State.locate_ext {a : W32} (ha : a.extractLsb' 23 9 ≠ 0) : s.locate a false false = .ok ⟨a, 32, .ext, false⟩ := by
  have ext : target s.pins.id a = .ext := if_pos (bne_iff_ne.2 ha)
  simp [State.locate, ext]

theorem State.Settled.busReady_waits (h : s.Settled) (hm : s.busMine = false) (l : Loc) (read : Bool) :
    s.busReady l read = .error .busStall := by
  simp [State.busReady, State.busSettled, h.syscon, h.wait, hm]

theorem State.Settled.storeExt_waits (h : s.Settled) (hm : s.busMine = false) {a : W32} (ha : a.extractLsb' 23 9 ≠ 0)
    (n : Reg) (t : State) : s.store t (.reg (.r n)) a false everyPe false = .error .busStall := by
  have ready : s.mayRead (.r n) = .ok () := h.mayRead _ (.inr rfl) (.inl (by simp))
  simp [State.store, Datum.isPx, State.locate_ext ha, Place.isReg, everyPe, State.datumReady, regsOf, ready,
    State.writeWord, h.busReady_waits hm]

theorem State.Settled.loadExt_waits (h : s.Settled) (hm : s.busMine = false) {a : W32} (ha : a.extractLsb' 23 9 ≠ 0)
    (n : Reg) (t : State) : s.load t (.r n) a false false everyPe false 4 = .error .busStall := by
  have ready : s.mayWrite (.r n) = .ok () := h.mayWrite _ rfl
  have px : (UReg.r n == UReg.px) = false := rfl
  simp [State.load, px, State.locate_ext ha, Place.isReg, State.loadEach, everyPe, regsOf, ready, State.readWord,
    h.busReady_waits hm]

/-- A move between a data register and external memory. -/
abbrev extMove (pm w : Bool) (n : Reg) (a : W32) : MemMove :=
  ⟨if w then .store (.reg (.r n)) else .load (.r n), pm, .direct a, false⟩

theorem State.Settled.moveExt_waits (h : s.Settled) (hm : s.busMine = false) {a : W32} (ha : a.extractLsb' 23 9 ≠ 0)
    (pm w : Bool) (n : Reg) (t : State) : s.move t (extMove pm w n a) everyPe [] = .error .busStall := by
  obtain ⟨c, f, hc⟩ := h.pmAccess pm t
  have any : everyPe.any = true := rfl
  have self : (extMove pm w n a).selfTransfer = false := by cases w <;> rfl
  have stalls : s.memMove t (extMove pm w n a) everyPe false 4 = .error .busStall := by
    simp only [State.memMove, any, Bool.not_true, Bool.false_and, Bool.false_eq_true, if_false, h.useMode1, Run.ok_bind,
      self, Bool.not_false, need_true, State.address, gateOk_everyPe, pmAccess_then hc]
    cases w
    · simp [broadcastBy, h.loadExt_waits hm ha]
    · simp [h.storeExt_waits hm ha]
  rw [State.move, stalls]
  rfl

theorem State.Steady.exec_awaitBus (h : s.Steady) (hm : s.busMine = false) {a : W32} (ha : a.extractLsb' 23 9 ≠ 0)
    (pm w : Bool) (n : Reg) : exec (.uregAbs pm w false (.r n) a) s = .next s.awaitBus := by
  show Machine.runAccess (extMove pm w n a) s = _
  rw [h.exec_iopMove, h.1.moveExt_waits hm ha]
  rfl

theorem State.awaitBus_asks (hm : s.master = false) : s.awaitBus.brOut = true ∧ s.awaitBus.paOut = true := by
  have : s.awaitBus.master = false := hm
  simp [State.brOut, State.paOut, State.highNeed, this]

/-! ### Events: what they ask for, and what they do -/

/-- An event that happens was offered. -/
theorem offered_bind {ok : Bool} {f : Unit → Run State} : (offered ok >>= f) = .ok t ↔ ok = true ∧ f () = .ok t := by
  cases ok <;> simp [offered]

/-- What a bus transition asks for, and what it does (62_link_serial_multiproc.md R760 to R765). -/
theorem State.busTo_eq_ok {m : BitVec 3} : s.busTo m = .ok t ↔
    (s.pins.id ≠ 0 ∧ s.iop.bsyn = true ∧ s.iop.hstm = false ∧ s.mayLose = true ∧ s.busWinner = some m) ∧
    s.giveBus m = t := by
  simp [State.busTo, offered_bind, and_assoc]

theorem State.bcntTick_eq_ok : s.bcntTick = .ok t ↔
    (s.pins.id ≠ 0 ∧ s.iop.bsyn = true ∧ s.master = true ∧ s.iop.bmax ≠ 0 ∧ s.iop.bcnt ≠ 0 ∧
      s.iop.yielding = false ∧ s.othersAsk = true) ∧
    s.mapIop (fun i => { i with
      bcnt := if s.iop.bcnt == 1 && !s.busLock then i.bmax else i.bcnt - 1, yielding := s.iop.bcnt == 1 }) = t := by
  simp [State.bcntTick, offered_bind, and_assoc]

theorem State.dropRequest_eq_ok : s.dropRequest = .ok t ↔
    (s.pins.id ≠ 0 ∧ s.iop.bsyn = true ∧ s.master = true ∧ s.brOut = false) ∧
    s.mapIop (fun i => { i with bcnt := i.bmax }) = t := by
  simp [State.dropRequest, offered_bind, and_assoc]

theorem State.hostAcquire_eq_ok : s.hostAcquire = .ok t ↔
    (s.iop.hstm = false ∧ s.iop.bsyn = true ∧ (s.master = true → s.busLock = false)) ∧
    s.mapIop (fun i => { i with hstm := true }) = t := by
  have lock : (!(s.master && s.busLock)) = true ↔ (s.master = true → s.busLock = false) := by
    cases s.master <;> simp
  simp only [State.hostAcquire, offered_bind, Bool.and_eq_true, lock, Bool.not_eq_eq_eq_not, Bool.not_true, and_assoc,
    Except.ok.injEq]

theorem State.hostRelease_eq_ok : s.hostRelease = .ok t ↔
    s.iop.hstm = true ∧ s.mapIop (fun i => { i with hstm := false }) = t := by
  simp [State.hostRelease, offered_bind]

theorem State.slaveRoom_eq_true {sync : Bool} : s.slaveRoom sync = true ↔
    s.iop.slaveFifo.length + s.iop.slaveDirect.length < if sync then 2 else 4 := by
  simp [State.slaveRoom]

theorem State.extWriteIop_eq_ok {sync : Bool} {a : BitVec 8} {v : W32} : s.extWriteIop sync a v = .ok t ↔
    (s.mayWriteIn sync = true ∧ s.slaveRoom sync = true ∧ openReg a = true) ∧
    s.mapIop (fun i => { i with slaveFifo := i.slaveFifo ++ [⟨a, v.setWidth 64⟩] }) = t := by
  simp [State.extWriteIop, State.pushSlave, offered_bind, and_assoc]

theorem State.extWriteMem_eq_ok {sync : Bool} {a : W32} {width : Nat} {v : W64} :
    s.extWriteMem sync a width v = .ok t ↔
    (s.mayWriteIn sync = true ∧ s.directWidth a width = true ∧ s.slaveRoom sync = true) ∧
    s.mapIop (fun i => { i with slaveDirect := i.slaveDirect ++ [⟨a, width, v⟩] }) = t := by
  simp [State.extWriteMem, State.pushDirect, offered_bind, and_assoc]

theorem State.latchDirect_eq_ok : s.latchDirect = .ok t ↔
    s.iop.directFifo.length < 8 ∧ ∃ w rest, s.iop.slaveDirect = w :: rest ∧
      s.mapIop (fun i => { i with slaveDirect := rest, directFifo := i.directFifo ++ [w] }) = t := by
  unfold State.latchDirect
  cases s.iop.slaveDirect <;> simp [offered_bind]

/-! ### The order of priority -/

/-- The circle of the IDs from the one after the master (62_link_serial_multiproc.md R761). -/
def busCircle (c : BitVec 3) : List (BitVec 3) := (List.range 6).map fun i => BitVec.ofNat 3 (1 + (c.toNat + i) % 6)

theorem State.busOrder_eq : s.busOrder = if s.pins.rpba then busCircle s.iop.crbm else [1, 2, 3, 4, 5, 6] := by
  unfold State.busOrder
  split <;> rfl

/-- How many places the ID `k` comes after the master `c` in the circle; the master's own place is 0. -/
def busPlace (c k : BitVec 3) : Nat := (k.toNat + 6 - c.toNat) % 6

theorem busCircle_pairwise : ∀ c : BitVec 3, 1 ≤ c → c ≤ 6 →
    (busCircle c).Pairwise fun x y => x ≠ c → y ≠ c → busPlace c x ≤ busPlace c y := by decide

theorem mem_busCircle : ∀ c k : BitVec 3, 1 ≤ k → k ≤ 6 → k ∈ busCircle c := by decide

theorem mem_ids : ∀ k : BitVec 3, 1 ≤ k → k ≤ 6 → k ∈ [1, 2, 3, 4, 5, (6 : BitVec 3)] := by decide

theorem ids_pairwise : [1, 2, 3, 4, 5, (6 : BitVec 3)].Pairwise (· ≤ ·) := by decide

theorem State.busWinner_competes {m : BitVec 3} (h : s.busWinner = some m) : m ≠ s.iop.crbm ∧ s.competes m = true := by
  simpa using List.find?_some h

/-- A competitor in the order is the winner or comes after it. -/
theorem State.busWinner_first {m k : BitVec 3} {R : BitVec 3 → BitVec 3 → Prop} (h : s.busWinner = some m)
    (ho : s.busOrder.Pairwise R) (hm : k ∈ s.busOrder) (hk : k ≠ s.iop.crbm) (hc : s.competes k = true) :
    k = m ∨ R m k := by
  obtain ⟨-, before, after, order, passed⟩ := List.find?_eq_some_iff_append.1 h
  rw [order] at ho hm
  rcases List.mem_append.1 hm with hb | ha
  · simpa [hk, hc] using passed k hb
  · rcases List.mem_cons.1 ha with rfl | ha
    · exact .inl rfl
    · exact .inr (List.rel_of_pairwise_cons (List.pairwise_append.1 ho).2.1 ha)

/-- With RPBA = 0 the winner has the lowest ID of those that compete (62_link_serial_multiproc.md R761). -/
theorem State.busWinner_lowest {m k : BitVec 3} (h : s.busWinner = some m) (hr : s.pins.rpba = false) (h1 : 1 ≤ k)
    (h6 : k ≤ 6) (hk : k ≠ s.iop.crbm) (hc : s.competes k = true) : m ≤ k := by
  have order : s.busOrder = [1, 2, 3, 4, 5, 6] := by simp [State.busOrder_eq, hr]
  rcases s.busWinner_first (R := (· ≤ ·)) h (order ▸ ids_pairwise) (order ▸ mem_ids k h1 h6) hk hc with rfl | le
  · exact BitVec.le_refl _
  · exact le

/-- With RPBA = 1 the winner is the next one after the master in the circle (62_link_serial_multiproc.md R761). -/
theorem State.busWinner_next {m k : BitVec 3} (h : s.busWinner = some m) (hr : s.pins.rpba = true) (hc1 : 1 ≤ s.iop.crbm)
    (hc6 : s.iop.crbm ≤ 6) (h1 : 1 ≤ k) (h6 : k ≤ 6) (hk : k ≠ s.iop.crbm) (hc : s.competes k = true) :
    busPlace s.iop.crbm m ≤ busPlace s.iop.crbm k := by
  have order : s.busOrder = busCircle s.iop.crbm := by simp [State.busOrder_eq, hr]
  rcases s.busWinner_first h (order ▸ busCircle_pairwise _ hc1 hc6) (order ▸ mem_busCircle _ k h1 h6) hk hc with rfl | le
  · exact le_refl _
  · exact le (s.busWinner_competes h).1 hk

/-! ### Mastership -/

/-- This processor is master of several, while the host is not. -/
theorem State.master_eq (hid : s.pins.id ≠ 0) (hh : s.iop.hstm = false) : s.master = (s.iop.crbm == s.pins.id) := by
  rw [State.master, if_neg hid, hh]
  rfl

/-- Of its own competing the processor asserts its BRx. -/
theorem State.brOut_of_competes (h : s.competes s.pins.id = true) : s.brOut = true := by
  simp only [State.competes, State.brOf, Bool.and_eq_true, beq_self_eq_true, if_true] at h
  exact h.1

/-- As master this processor loses the bus only without a lock, and where it does not assert BRx or another one's need comes
first (62_link_serial_multiproc.md R763, R765). -/
theorem State.mayLose_of_master (hm : s.master = true) (h : s.mayLose = true) :
    s.busLock = false ∧ (s.brOut = false ∨ s.pins.paIn = true ∧ s.highNeed = false) := by
  simpa [State.mayLose, hm] using h

/-- A master without a lock whose time-out has run out no longer asserts its BRx, nor uses the bus
(62_link_serial_multiproc.md R762). -/
theorem State.yields (hy : s.iop.yielding = true) (hm : s.master = true) (hl : s.busLock = false) :
    s.busMine = false ∧ s.brOut = false := by
  have mine : s.busMine = (s.master && s.iop.bsyn && (!s.iop.yielding || s.busLock)) := rfl
  simp [mine, State.brOut, hy, hm, hl]

/-! ### Writes of an external master -/

/-- A step of the I/O processor with a write of an external master to make and nothing before it
(61_io_devices.md R680, R689). -/
theorem State.iopStep_access (hu : s.urgent = none) (h : s.slaveReady = true ∨ s.iop.directFifo ≠ []) (b : Bool) :
    s.iopStep b = s.makeAccess b := by
  have job : s.job = some .access := by
    simp only [State.job, hu]
    exact if_pos (by simpa using h)
  simp only [State.iopStep, job]

/-- A direct write is made where no register write comes before it (61_io_devices.md R710). -/
theorem State.makeAccess_direct {b : Bool} {w : DirectWrite} {rest : List DirectWrite} (hd : s.iop.directFifo = w :: rest)
    (h : s.slaveReady = false ∨ b = false) : s.makeAccess b = State.makeAccess.direct s (w :: rest) := by
  have later : (s.slaveReady && (b || s.iop.directFifo.isEmpty)) = false := by
    rcases h with h | h <;> simp [h, hd]
  rw [← hd]
  unfold State.makeAccess
  cases s.iop.slaveFifo with
  | nil => rfl
  | cons v vs => simp only [later, Bool.false_eq_true, if_false]

/-- A register write is made where no direct write waits (61_io_devices.md R708). -/
theorem State.makeAccess_slave {b : Bool} {w : SlaveWrite} {rest : List SlaveWrite} (hs : s.iop.slaveFifo = w :: rest)
    (hd : s.iop.directFifo = []) (h : s.slaveReady = true) :
    s.makeAccess b = (s.mapIop fun i => { i with slaveFifo := rest }).makeSlave w := by
  unfold State.makeAccess
  rw [hs, hd]
  simp [h]

theorem State.makeSlave_register {w : SlaveWrite} {r : IopReg} (hr : iopReg w.addr = some r) (hl : ∀ k, r ≠ .lbuf k) :
    s.makeSlave w = s.iopWrite false r (w.value.setWidth 32) := by
  unfold State.makeSlave
  rw [hr]
  cases r with
  | lbuf k => exact absurd rfl (hl k)
  | _ => rfl

theorem getLsbD_bitAt (n : Nat) (b : Bool) {j : Nat} (hj : j < 32) : (bitAt n b).getLsbD j = (b && decide (j = n)) := by
  cases b with
  | false => simp [bitAt]
  | true =>
    rw [bitAt, if_pos rfl, BitVec.getLsbD_shiftLeft, BitVec.getLsbD_one, Bool.eq_iff_iff]
    simp
    omega

/-- DWPD is bit 12 of SYSTAT (61_io_devices.md R710). -/
theorem State.systat_dwpd : s.systat.getLsbD 12 =
    !(s.iop.directFifo.isEmpty && s.iop.slaveFifo.isEmpty && s.iop.slaveDirect.isEmpty) := by
  simp [State.systat, getLsbD_bitAt, -BitVec.getLsbD_eq_getElem]

theorem putBits_bit (a : W32) {n : Nat} (hn : n < 32) : (putBits a (bitAt n true) (bitAt n true)).getLsbD n = true := by
  simp only [putBits, BitVec.getLsbD_or, BitVec.getLsbD_and, getLsbD_bitAt _ _ hn]
  simp

/-- A write of VIRPT by an external master requests its interrupt (60_exceptions.md R616). -/
theorem State.writeVirpt_extern (h : s.inService .virpti = false) (v : W32) :
    (s.writeVirpt false v).latched .virpti = true ∧ (s.writeVirpt false v).iop = { s.iop with virpt := v, vipd := true } := by
  have requests : s.writeVirpt false v =
      ((s.mapIop fun i => { i with virpt := v }).setLatch .virpti true).mapIop fun i => { i with vipd := true } :=
    if_neg (Bool.eq_false_iff.1 h)
  rw [requests]
  exact ⟨putBits_bit _ (by decide), rfl⟩

/-! ### The statement -/

theorem State.busTo_spec {m : BitVec 3} (h : s.busTo m = .ok t) :
    t = { s with iop := { s.iop with crbm := m, bsyn := true, yielding := false, bcnt := t.iop.bcnt } } ∧
    (m = s.pins.id ∨ s.iop.crbm = s.pins.id → t.iop.bcnt = s.iop.bmax) ∧ (t.master = true ↔ m = s.pins.id) ∧
    (s.iop.crbm = s.pins.id → s.busLock = false ∧ (s.brOut = false ∨ s.pins.paIn = true ∧ s.highNeed = false)) ∧
    m ≠ s.iop.crbm ∧ s.competes m = true ∧ (m = s.pins.id → s.brOut = true) := by
  obtain ⟨⟨hid, -, hh, lose, win⟩, rfl⟩ := State.busTo_eq_ok.1 h
  obtain ⟨other, competes⟩ := s.busWinner_competes win
  have own : s.master = true ↔ s.iop.crbm = s.pins.id := by simp [s.master_eq hid hh]
  refine ⟨rfl, fun hm => ?_, ?_, fun hc => s.mayLose_of_master (own.2 hc) lose, other, competes, ?_⟩
  · refine if_pos ?_
    rw [Bool.or_eq_true, beq_iff_eq, own]
    exact hm
  · rw [State.master_eq (s := s.giveBus m) hid hh]
    exact beq_iff_eq
  · rintro rfl
    exact s.brOut_of_competes competes

/-- Settles O59: an external access waits where the bus is not there, and each event of the bus is taken apart into what it
asks for and what it does. -/
theorem busMaster : Obligations.BusMaster := by
  refine ⟨?_, ?_, ?_, ?_, ?_, ?_, ?_, ?_, ?_, ?_, ?_, ?_, ?_, ?_⟩
  · intro s y hid
    simp [State.cond, evalIf, evalTest, State.condIn, testBm, hid]
  · intro s pm w n a h ha hm
    exact ⟨h.exec_awaitBus hm ha pm w n, s.awaitBus_asks⟩
  · intro s t m h
    obtain ⟨⟨-, -, -, -, win⟩, -⟩ := State.busTo_eq_ok.1 h
    obtain ⟨state, bcnt, master, lost, other, competes, asks⟩ := State.busTo_spec h
    exact ⟨state, bcnt, master, lost, other, competes, asks, fun k h1 h6 hk hc =>
      ⟨fun hr => s.busWinner_lowest win hr h1 h6 hk hc, fun hr hc1 hc6 => s.busWinner_next win hr hc1 hc6 h1 h6 hk hc⟩⟩
  · intro s t h
    obtain ⟨⟨-, -, hm, -, -, -, asked⟩, rfl⟩ := State.bcntTick_eq_ok.1 h
    refine ⟨asked, hm, rfl, fun h1 => ?_, fun h1 hl => ?_⟩
    · exact if_neg fun h => h1 (beq_iff_eq.1 (Bool.and_eq_true_iff.1 h).1)
    · have lock : s.busLock = false := hl
      exact ⟨by simp [h1, lock], State.yields (by simp [h1]) hm hl⟩
  · intro s t h
    obtain ⟨⟨-, -, hm, hb⟩, rfl⟩ := State.dropRequest_eq_ok.1 h
    exact ⟨hm, hb, rfl⟩
  · intro s t h
    obtain ⟨⟨hh, -, lock⟩, rfl⟩ := State.hostAcquire_eq_ok.1 h
    exact ⟨hh, rfl, rfl, lock⟩
  · intro s t h
    obtain ⟨hh, rfl⟩ := State.hostRelease_eq_ok.1 h
    exact ⟨hh, rfl⟩
  · intro s t sync a v h
    obtain ⟨⟨-, room, -⟩, rfl⟩ := State.extWriteIop_eq_ok.1 h
    exact ⟨State.slaveRoom_eq_true.1 room, rfl⟩
  · intro s t sync a width v h
    obtain ⟨⟨-, -, room⟩, rfl⟩ := State.extWriteMem_eq_ok.1 h
    exact ⟨State.slaveRoom_eq_true.1 room, rfl⟩
  · intro s t h
    obtain ⟨room, w, rest, hw, rfl⟩ := State.latchDirect_eq_ok.1 h
    exact ⟨w, rest, hw, room, rfl⟩
  · intro s b w rest k n hd hu first hkey
    rw [State.iopStep_access hu (.inr (by simp [hd])), State.makeAccess_direct hd first, State.makeAccess.direct, hkey]
    rfl
  · intro s
    show s.systat.getLsbD 12 = true ↔ _
    rw [s.systat_dwpd]
    simp only [Bool.not_eq_true', Bool.and_eq_false_iff, List.isEmpty_eq_false_iff, or_assoc]
  · intro s b w rest r hs hd hu ready hr hl
    rw [State.iopStep_access hu (.inl ready), State.makeAccess_slave hs hd ready, State.makeSlave_register hr hl]
    rfl
  · intro s t core v h
    cases Except.ok.inj h
    cases core with
    | true => exact ⟨fun _ => ⟨rfl, rfl⟩, nofun⟩
    | false => exact ⟨nofun, fun _ serving => s.writeVirpt_extern serving v⟩

end Sys2Proof.Machine
end

section
/-!
PROOF. Computes alone: the compute rows, the conditional compute and the immediate shift complete (ComputeRowsComplete,
ConditionalComputeCompletes).
-/
namespace Sys2Proof.Machine

variable {s t : State}

theorem State.peGate_false (s : State) (c : Cond) : s.peGate c false = (s.cond false c, s.simd && s.cond true c) := by
  simp [State.peGate]

/-- A compute that stops nothing but the instruction it stands in: the dual add and subtract to one register. -/
theorem State.Settled.computePart_clash (h : s.Settled) {k : Compute} (hk : k.dualClash = true) {g : Bool × Bool}
    (hg : g.1 = true) : s.computePart t k g = .error (.fault .dualAluSameDestination) := by
  have some : (k == .none) = false := by
    refine beq_false_of_ne ?_
    rintro rfl
    cases hk
  simp [State.computePart, some, hg, h.useMode1, h.changed, Changed.none, hk]

/-- Settles O17: a compute row is one compute between the begin and the end of a step. -/
theorem computeRowsComplete : Obligations.ComputeRowsComplete := by
  intro i k s hi
  rw [exec_of_compute hi]
  refine ⟨fun hk h => ?_, fun hk h ⟨t, ht⟩ => ?_⟩
  · obtain ⟨u, hu, hadv⟩ := h.ends (State.runPes_seq s s.begun (computePe k) true s.simd)
    refine ⟨u, ?_, hadv⟩
    rw [runCompute, h.begin.1, Run.ok_bind, h.computePart k _ hk, Run.ok_bind, hu]
  · rw [runCompute, ht, Run.ok_bind, h.computePart_clash hk rfl]
    rfl

/-- Settles O18: both are a compute on the elements whose condition holds, between the begin and the end of a step. -/
theorem conditionalComputeCompletes : Obligations.ConditionalComputeCompletes := by
  intro c s h hc
  have ready := h.1.condReady c hc
  refine ⟨fun k hk => ?_, fun ex op data rn rx => ?_⟩
  · obtain ⟨u, hu, hadv⟩ :=
      h.ends (State.runPes_seq s s.begun (computePe k) (s.cond false c) (s.simd && s.cond true c))
    refine ⟨u, ?_, hadv⟩
    show execCondCompute c k s = _
    rw [execCondCompute, ready, Run.ok_bind, h.begin.1, Run.ok_bind, s.peGate_false, h.computePart k _ hk, Run.ok_bind, hu]
  · obtain ⟨u, hu, hadv⟩ :=
      h.ends (State.runPes_seq s s.begun (shImmPe op ex data rn rx) (s.cond false c) (s.simd && s.cond true c))
    refine ⟨u, ?_, hadv⟩
    show execShiftImm c ex op data rn rx s = _
    rw [execShiftImm, ready, Run.ok_bind, h.begin.1, Run.ok_bind, s.peGate_false, h.1.shiftPart, Run.ok_bind, hu]

end Sys2Proof.Machine
end

section
/-!
PROOF. ComputeFrame: what the results of a compute are about, and what committing them leaves alone.
-/
namespace Sys2Proof.Machine

variable {s t : State}

/-! ### The results of a compute -/

/-- A compute writes no register but its destinations. -/
theorem computePe_writes (k : Compute) (c : PeIn) : ∀ w ∈ (computePe k c).writes, w.1 ∈ k.dests := by
  cases k with
  | mfFix m a q =>
    cases m <;> simp [computePe, PeOut.andThen, mfMulPe, mulTo, mulToMr, aluTo, Compute.dests]
  | _ =>
    simp [computePe, PeOut.none, PeOut.andThen, aluTo, cmpTo, mulTo, mulToMr, fmulTo, shfTo, dualTo, mfMulPe, Compute.dests]

/-- A compute writes the multiplier result register it names, or none. -/
theorem computePe_mr (k : Compute) (c : PeIn) : (computePe k c).mr.map Prod.fst = k.mrDest := by
  cases k with
  | mfFix m a q => cases m <;> rfl
  | _ => rfl

/-- The low bits of ASTAT stay where a comparison is shifted into CACC. -/
theorem shiftCacc_outside (a : W32) (gt : Bool) {m : W32} (hm : 0xFF000000#32 &&& ~~~m = 0) :
    shiftCacc a gt &&& ~~~m = a &&& ~~~m := by
  have high (i : Nat) (hi : i < 32) (h : 24 ≤ i) : m[i] = true := by
    have bit := congrArg (fun x : W32 => x.getLsbD i) hm
    have one : (0xFF000000#32).getLsbD i = true := by interval_cases i <;> rfl
    simpa [hi, one] using bit
  refine BitVec.eq_of_getLsbD_eq fun i hi => ?_
  by_cases h : i < 24
  · have low : (shiftCacc a gt).getLsbD i = a.getLsbD i := BitVec.getLsbD_append.trans (by simp [h])
    simp [low]
  · simp [high i hi (by omega), hi]

/-- A compute leaves the ASTAT bits of the units it does not run on. -/
theorem computePe_astat (k : Compute) (c : PeIn) : (computePe k c).astat &&& ~~~k.astatMask = c.astat &&& ~~~k.astatMask := by
  have cacc : 0xFF000000#32 &&& ~~~(aluMask ||| 0xFF000000) = 0 := by decide
  have compared : aluMask &&& ~~~(aluMask ||| 0xFF000000) = 0 := by decide
  have alu : aluMask &&& ~~~(aluMask ||| mulMask) = 0 := by decide
  have mul : mulMask &&& ~~~(aluMask ||| mulMask) = 0 := by decide
  cases k with
  | none | clrMr d => rfl
  | aluCmp op rx ry => exact (shiftCacc_outside _ _ cacc).trans (putBits_outside _ _ _ _ compared)
  | mfFix m a q => cases m <;> exact (putBits_outside _ _ _ _ alu).trans (putBits_outside _ _ _ _ mul)
  | mfFlt | mfDualFix | mfDualFlt => exact (putBits_outside _ _ _ _ alu).trans (putBits_outside _ _ _ _ mul)
  | _ => exact putBits_outside _ _ _ _ (BitVec.and_not_self _)

/-! ### The results committed -/

/-- Registers written in order leave every register that is not among them, in both sets. -/
theorem ProcElem.sameReg_foldl (m : W32) (n : Reg) (ws : List (Reg × W40)) (hn : ∀ w ∈ ws, n ≠ w.1) (p : ProcElem) :
    p.SameReg (ws.foldl (fun q w => q.setReg m w.1 w.2) p) n := by
  induction ws generalizing p with
  | nil => exact ⟨rfl, rfl⟩
  | cons w ws ih =>
    obtain ⟨hw, hws⟩ := List.forall_mem_cons.1 hn
    exact (p.sameReg_setReg m w.2 hw).trans (ih hws _)

/-- The copy of register `n` in the set that MODE1 does not select. -/
def ProcElem.unselected (p : ProcElem) (m : W32) (n : Reg) : W40 :=
  if regSelect m n then p.r[n.toNat]'n.isLt else p.rAlt[n.toNat]'n.isLt

theorem ProcElem.unselected_setReg (p : ProcElem) (m : W32) (n k : Reg) (v : W40) :
    (p.setReg m k v).unselected m n = p.unselected m n := by
  unfold ProcElem.unselected ProcElem.setReg
  by_cases hk : k = n
  · subst hk
    cases regSelect m k <;> rfl
  · have hne : k.toNat ≠ n.toNat := fun e => hk (BitVec.eq_of_toNat_eq e)
    cases regSelect m k <;> simp [Vector.getElem_set_ne _ _ hne]

theorem ProcElem.unselected_foldl (m : W32) (n : Reg) (ws : List (Reg × W40)) (p : ProcElem) :
    (ws.foldl (fun q w => q.setReg m w.1 w.2) p).unselected m n = p.unselected m n := by
  induction ws generalizing p with
  | nil => rfl
  | cons w ws ih => exact (ih _).trans (p.unselected_setReg m n w.1 w.2)

theorem ProcElem.foldl_mr (m : W32) (ws : List (Reg × W40)) (p : ProcElem) (j : Mr) :
    (ws.foldl (fun q w => q.setReg m w.1 w.2) p).mr m j = p.mr m j := by
  induction ws generalizing p with
  | nil => rfl
  | cons w ws ih =>
    refine (ih _).trans ?_
    obtain ⟨ha, hb⟩ := p.setReg_mr m w.1 w.2
    rw [ProcElem.mr, ProcElem.mr, ha, hb]

theorem ProcElem.setMr_regs (p : ProcElem) (m : W32) (j : Mr) (v : W80) :
    (p.setMr m j v).r = p.r ∧ (p.setMr m j v).rAlt = p.rAlt := by
  unfold ProcElem.setMr
  split <;> exact ⟨rfl, rfl⟩

theorem ProcElem.mr_setMr_ne (p : ProcElem) (m : W32) {i j : Mr} (v : W80) (h : i ≠ j) :
    (p.setMr m i v).mr m j = p.mr m j := by
  unfold ProcElem.setMr ProcElem.mr
  cases i <;> cases j <;> cases srcu m <;> first | rfl | exact absurd rfl h

/-- The registers written in order, then the multiplier result register: the register files see the first alone. -/
theorem ProcElem.take_regs (p : ProcElem) (m : W32) (o : PeOut) :
    (p.take m o).r = (o.writes.foldl (fun q w => q.setReg m w.1 w.2) p).r ∧
      (p.take m o).rAlt = (o.writes.foldl (fun q w => q.setReg m w.1 w.2) p).rAlt := by
  unfold ProcElem.take
  cases o.mr with
  | none => exact ⟨rfl, rfl⟩
  | some j => exact ProcElem.setMr_regs _ m j.1 j.2

theorem ProcElem.sameReg_take (p : ProcElem) (m : W32) {o : PeOut} {n : Reg} (hn : ∀ w ∈ o.writes, n ≠ w.1) :
    p.SameReg (p.take m o) n := by
  obtain ⟨hr, hAlt⟩ := p.take_regs m o
  unfold ProcElem.SameReg
  rw [hr, hAlt]
  exact ProcElem.sameReg_foldl m n o.writes hn p

theorem ProcElem.unselected_take (p : ProcElem) (m : W32) (o : PeOut) (n : Reg) :
    (p.take m o).unselected m n = p.unselected m n := by
  obtain ⟨hr, hAlt⟩ := p.take_regs m o
  rw [← ProcElem.unselected_foldl m n o.writes p, ProcElem.unselected, ProcElem.unselected, hr, hAlt]

theorem ProcElem.mr_take (p : ProcElem) (m : W32) {o : PeOut} {j : Mr} (hj : o.mr.map Prod.fst ≠ some j) :
    (p.take m o).mr m j = p.mr m j := by
  unfold ProcElem.take
  cases ho : o.mr with
  | none => exact ProcElem.foldl_mr m o.writes p j
  | some i =>
    refine (ProcElem.mr_setMr_ne _ m i.2 fun h => hj ?_).trans (ProcElem.foldl_mr m o.writes p j)
    rw [ho, ← h]
    rfl

/-! ### The state after a compute -/

/-- Bits that are set stay set when others are set too. -/
theorem or_and_self_left (a b : W32) : (a ||| b) &&& a = a := by
  ext i hi
  cases ha : a[i] <;> simp [ha]

theorem State.astat_runPes (s t : State) (f : PeIn → PeOut) (ex ey y : Bool) :
    (s.runPes t f ex ey).astat y = if (if y then ey else ex) then (f (s.peIn y)).astat else t.astat y := by
  cases y <;> cases ex <;> cases ey <;> rfl

theorem State.stky_runPes (s t : State) (f : PeIn → PeOut) (ex ey y : Bool) :
    (s.runPes t f ex ey).stky y = if (if y then ey else ex) then t.stky y ||| (f (s.peIn y)).stky else t.stky y := by
  cases y <;> cases ex <;> cases ey <;> rfl

/-- A property that the results of the compute keep, and no results too, holds of what the compute leaves of an element. -/
theorem State.pe_runPes_of {f : PeIn → PeOut} {y : Bool} (P : ProcElem → Prop) (h0 : P (t.pe y))
    (h1 : P ((t.pe y).take s.reg.mode1 (f (s.peIn y)))) (ex ey : Bool) : P ((s.runPes t f ex ey).pe y) := by
  rw [State.pe_runPes]
  generalize (if y then ey else ex) = ran
  cases ran
  · exact h0
  · exact h1

/-- Settles O19: each part of the state is one that the results of the compute do not reach. -/
theorem computeFrame : Obligations.ComputeFrame := by
  intro k s t ex ey hx hy hreg u
  have rest : u = _ := State.runPes_rest s t (computePe k) ex ey
  have pe (y : Bool) : t.pe y = s.pe y := by cases y <;> simp [State.pe, hx, hy]
  have astat (y : Bool) : t.astat y = s.astat y := by cases y <;> simp only [State.astat] <;> rw [hreg]
  have mode : u.reg.mode1 = s.reg.mode1 := by
    have : u.reg.mode1 = t.reg.mode1 := by rw [rest]
    rw [this, hreg]
  refine ⟨rest, fun y hg => ⟨?_, ?_, ?_⟩, fun y n hn => ?_, fun y n => ?_, fun y m hm => ?_, fun y => ?_, fun y => ?_⟩
  · rw [State.pe_runPes, hg, pe]
    rfl
  · rw [State.astat_runPes, hg, astat]
    rfl
  · rw [State.stky_runPes, hg]
    rfl
  · have kept : (s.pe y).SameReg (u.pe y) n := by
      refine State.pe_runPes_of (P := fun p => (s.pe y).SameReg p n) ?_ ?_ ex ey <;> rw [pe]
      · exact ⟨rfl, rfl⟩
      · exact (s.pe y).sameReg_take _ fun w hw e => hn (e ▸ computePe_writes k _ w hw)
    rw [State.dreg, State.dreg, mode, kept.reg]
  · have kept : (u.pe y).unselected s.reg.mode1 n = (s.pe y).unselected s.reg.mode1 n := by
      refine State.pe_runPes_of (P := fun p => p.unselected _ _ = _) ?_ ?_ ex ey <;> rw [pe]
      exact (s.pe y).unselected_take _ _ n
    unfold ProcElem.unselected at kept
    split at kept
    · next sel => rwa [if_pos sel]
    · next sel => rwa [if_neg sel]
  · refine State.pe_runPes_of (P := fun p => p.mr _ m = _) ?_ ?_ ex ey <;> rw [pe]
    exact (s.pe y).mr_take _ ((computePe_mr k _).trans_ne hm)
  · rw [State.astat_runPes]
    cases (if y then ey else ex)
    · exact congrArg (· &&& _) (astat y)
    · exact computePe_astat k _
  · rw [State.stky_runPes]
    cases (if y then ey else ex)
    · exact BitVec.and_self
    · exact or_and_self_left _ _

end Sys2Proof.Machine
end

section
/-!
PROOF. RegMoveCompletes: outside the short loops a register can be written, and a write of a register leaves the addresses
that the next two steps fetch from.
-/
namespace Sys2Proof.Machine

variable {s t u : State}

/-! ### The fetch pipeline -/

/-- The decode and the fetch address are those of `s`. -/
def State.FetchesLike (s t : State) : Prop := t.seq.daddr = s.seq.daddr ∧ t.seq.faddr = s.seq.faddr

theorem State.FetchesLike.of_seq (h : s.FetchesLike t) (hu : u.seq = t.seq) : s.FetchesLike u := by
  unfold State.FetchesLike
  rw [hu]
  exact h

theorem State.FetchesLike.writeStkyx (h : s.FetchesLike t) (v : W32) : s.FetchesLike (t.writeStkyx v) := by
  unfold State.writeStkyx
  dsimp only
  split <;> exact h

theorem State.FetchesLike.writeAstat (h : s.FetchesLike t) (y : Bool) (v : W32) : s.FetchesLike (t.writeAstat y v) := by
  unfold State.writeAstat
  cases y <;> exact h

theorem State.FetchesLike.writeSys (h : s.FetchesLike t) (k : SReg) (v : W32) :
    Run.Sat (t.writeSys k v) s.FetchesLike := by
  unfold State.writeSys
  cases k with
  | mode1 | mode2 | flags | imask | imaskp | stkyy => exact Run.sat_seq fun _ => Run.sat_ok h
  | irptl | lirptl => exact Run.sat_seq fun _ => Run.sat_seq fun _ => Run.sat_ok h
  | astatx => exact Run.sat_seq fun _ => Run.sat_ok (h.writeAstat false v)
  | astaty => exact Run.sat_seq fun _ => Run.sat_ok (h.writeAstat true v)
  | stkyx => exact Run.sat_seq fun _ => Run.sat_ok (h.writeStkyx v)
  | _ => exact Run.sat_ok h

theorem State.FetchesLike.writePcstkp (h : s.FetchesLike t) (p : BitVec 5) : s.FetchesLike (t.writePcstkp p) := by
  unfold State.writePcstkp
  split
  · exact h
  · unfold State.FetchesLike
    rw [State.occurIf_seq]
    exact h

theorem State.FetchesLike.writeCurlcntr (h : s.FetchesLike t) (v : W32) : s.FetchesLike (t.writeCurlcntr v) := by
  unfold State.writeCurlcntr
  split <;> exact h

theorem State.FetchesLike.writePcstk (h : s.FetchesLike t) (v : W24) : s.FetchesLike (t.writePcstk v) := by
  unfold State.writePcstk
  split <;> exact h

/-- No register write moves the fetch pipeline. -/
theorem State.FetchesLike.write32 (h : s.FetchesLike t) (r : UReg) (v : W32) : Run.Sat (t.write32 r v) s.FetchesLike := by
  unfold State.write32
  cases r with
  | r | s => exact Run.sat_ok (h.of_seq (State.setDreg_seq ..))
  | i | m | l | b => exact Run.sat_ok (h.of_seq (State.setDagReg_seq ..))
  | pcstk => exact Run.sat_ok (h.writePcstk _)
  | pcstkp => exact Run.sat_ok (h.writePcstkp _)
  | laddr => exact Run.sat_ite (fun _ => Run.sat_ok h) fun _ => Run.sat_seq fun _ => Run.sat_ok h
  | curlcntr => exact Run.sat_ok (h.writeCurlcntr v)
  | sys k => exact h.writeSys k v
  | _ => exact Run.sat_ok h

theorem State.FetchesLike.write40 (h : s.FetchesLike t) (r : UReg) (v : W40) (wide : Bool) :
    Run.Sat (t.write40 r v wide) s.FetchesLike := by
  unfold State.write40
  split
  · exact Run.sat_ok (h.of_seq (State.setDreg_seq ..))
  · exact Run.sat_ok (h.of_seq (State.setDreg_seq ..))
  · exact Run.sat_ok h
  · exact h.write32 _ _

/-- After the compute of an instruction the pipeline is as it was. -/
theorem State.Steady.fetchesLike_runPes (h : s.Steady) (f : PeIn → PeOut) (ex ey : Bool) :
    s.FetchesLike (s.runPes s.begun f ex ey) := by
  unfold State.FetchesLike
  rw [State.runPes_seq]
  exact ⟨h.begun_daddr, h.begun_faddr⟩

/-- What leaves the fetch pipeline where it was reaches the end of the instruction. -/
theorem State.Steady.ends_of_fetchesLike (h : s.Steady) (ht : s.FetchesLike t) :
    ∃ u, outcome s (s.advance t) = .next u ∧ s.Advanced t u := by
  obtain ⟨u, hu, ha⟩ := h.advance ht.1 ht.2
  exact ⟨u, by rw [hu, outcome_ok], ha⟩

/-! ### The move -/

/-- A register whose write the flow allows can be written. -/
theorem State.Calm.mayWrite (h : s.Calm) {r : UReg} (hr : s.FlowWritable r) : s.mayWrite r = .ok () := by
  obtain ⟨⟨settled, -⟩, short⟩ := h
  cases flow : r.ofFlow with
  | false => exact settled.mayWrite r flow
  | true =>
    obtain ⟨slots, idle⟩ := hr flow
    have depth : s.seq.loopDepth = 0 := by simpa [State.looping] using idle
    simp [State.mayWrite, settled.useMode1, settled.pcstkp, slots, short, depth, State.testDue, idle]

/-- A compute with a register move does the compute and then the move. -/
theorem State.Steady.exec_uregMove (h : s.Steady) {c : Cond} (hc : c = .lce → s.inShortLoop = false) {k : Compute}
    (hk : k.dualClash = false) {dst : UReg} (hap : s.apart (s.moveGate c) [dst] k.dests = .ok ()) (src : UReg) :
    exec (.uregMove src c dst k) s = outcome s
      (s.uregMove (s.runPes s.begun (computePe k) (s.cond false c) (s.simd && s.cond true c)) dst src (s.moveGate c) >>=
        s.advance) := by
  show execUregMove src c dst k s = _
  simp only [execUregMove, h.1.condReady c hc, hap, h.begin.1, s.peGate_false, h.computePart k _ hk, Run.ok_bind]

/-- In SISD mode a move and the compute beside it can share a destination. -/
theorem State.apart_sisd (hs : s.simd = false) (g : Gate) (us : List UReg) (ds : List Reg) : s.apart g us ds = .ok () := by
  simp [State.apart, hs]

/-- Settles O35: the source is read and the destination written, and the write leaves the fetch pipeline. -/
theorem regMoveCompletes : Obligations.RegMoveCompletes := by
  intro src dst c k s t h hs hc hk hn hw ht
  have read : s.mayRead src = .ok () := h.1.1.mayRead src (.inl h.2) (by
    by_cases hl : src = .lcntr
    · exact .inr (hn hl)
    · exact .inl hl)
  have move : s.uregMove (s.runPes s.begun (computePe k) true false) dst src (s.moveGate c) = .ok t := by
    simp only [State.uregMove, State.moveGate, hc, hs, h.1.1.useMode1, State.copyReg, read, h.mayWrite hw, ht, Run.ok_bind,
      if_true, Bool.false_and, Bool.false_eq_true, if_false]
  obtain ⟨u, hu, hadv⟩ :=
    h.1.ends_of_fetchesLike ((h.1.fetchesLike_runPes (computePe k) true false).write40 dst _ _ t ht)
  refine ⟨u, ?_, hadv⟩
  rw [h.1.exec_uregMove (fun _ => h.2) hk (s.apart_sisd hs _ _ _), hc, hs, Bool.false_and, move, Run.ok_bind, hu]

end Sys2Proof.Machine
end

section
/-!
PROOF. SimdMoves: a register move and a swap as conditional writes of data registers.
-/
namespace Sys2Proof.Machine

variable {s t : State}

/-! ### One half of a move -/

theorem State.Settled.copy_dreg (h : s.Settled) (t : State) (p q : Bool) (a b : Reg) :
    s.copyReg t (UReg.ofDreg p a) (UReg.ofDreg q b) = .ok (t.setDreg p a (s.dreg q b)) := by
  have read : s.mayRead (UReg.ofDreg q b) = .ok () :=
    h.mayRead _ (.inr (by cases q <;> rfl)) (.inl (by cases q <;> simp [UReg.ofDreg]))
  have write : s.mayWrite (UReg.ofDreg p a) = .ok () := h.mayWrite _ (by cases p <;> rfl)
  rw [State.copyReg, read, Run.ok_bind, write, Run.ok_bind]
  cases p <;> cases q <;> rfl

/-- An address register gives its 32 bits to a data register. -/
theorem State.Settled.copy_dag (h : s.Settled) (t : State) (p : Bool) (a : Reg) (k : DagKind) (n : Reg) :
    s.copyReg t (UReg.ofDreg p a) (UReg.ofDag k n) = .ok (t.setDreg p a (s.read32 (UReg.ofDag k n) ++ 0#8)) := by
  have write : s.mayWrite (UReg.ofDreg p a) = .ok () := h.mayWrite _ (by cases p <;> rfl)
  have narrow : (t.write40 (UReg.ofDreg p a) (s.read32 (UReg.ofDag k n) ++ 0#8) false) =
      .ok (t.setDreg p a (s.read32 (UReg.ofDag k n) ++ 0#8)) := by
    cases p <;> simp [State.write40, UReg.ofDreg, dreg_word]
  rw [State.copyReg, h.mayRead_dag, Run.ok_bind, write, Run.ok_bind, ← narrow]
  cases k <;> rfl

theorem State.Settled.copy_ustat (h : s.Settled) (t : State) (k : DagKind) (n : Reg) :
    s.copyReg t (.sys .ustat1) (UReg.ofDag k n) =
        .ok (t.mapReg fun r => { r with ustat1 := s.read32 (UReg.ofDag k n) }) ∧
      s.copyReg t (.sys .ustat2) (UReg.ofDag k n) =
        .ok (t.mapReg fun r => { r with ustat2 := s.read32 (UReg.ofDag k n) }) := by
  have read := h.mayRead_dag k n
  have value : s.read40 (UReg.ofDag k n) = s.read32 (UReg.ofDag k n) ++ 0#8 := by cases k <;> rfl
  constructor <;>
    rw [State.copyReg, read, Run.ok_bind, h.mayWrite _ rfl, Run.ok_bind, value] <;>
    simp [State.write40, State.write32, State.writeSys, dreg_word]

/-- An address register has no complement. -/
theorem UReg.isDag_view {src : UReg} (h : src.isDag = true) : ∃ k n, src = UReg.ofDag k n ∧ implicitSource src = src := by
  cases src with
  | i n => exact ⟨.i, n, rfl, rfl⟩
  | m n => exact ⟨.m, n, rfl, rfl⟩
  | l n => exact ⟨.l, n, rfl, rfl⟩
  | b n => exact ⟨.b, n, rfl, rfl⟩
  | _ => cases h

/-! ### Both halves -/

/-- A data register of element `p` set to `v` if `x`, then the one of the same number of the other element to `w` if `y`. -/
def State.setBoth (t : State) (p : Bool) (a : Reg) (x y : Bool) (v w : W40) : State :=
  let t1 := if x then t.setDreg p a v else t
  if y then t1.setDreg (!p) a w else t1

theorem State.setBoth_seq (t : State) (p : Bool) (a : Reg) (x y : Bool) (v w : W40) :
    (t.setBoth p a x y v w).seq = t.seq := by
  unfold State.setBoth
  cases x <;> cases y <;> simp

theorem State.dreg_setBoth (t : State) (p : Bool) (a : Reg) (x y : Bool) (v w : W40) :
    (t.setBoth p a x y v w).dreg p a = (if x then v else t.dreg p a) ∧
      (t.setBoth p a x y v w).dreg (!p) a = (if y then w else t.dreg (!p) a) ∧
      ∀ z n, n ≠ a → (t.setBoth p a x y v w).dreg z n = t.dreg z n := by
  unfold State.setBoth
  refine ⟨?_, ?_, fun z n hn => ?_⟩
  · cases x <;> cases y <;> simp [State.dreg_setDreg]
  · cases x <;> cases y <;> simp [State.dreg_setDreg]
  · cases x <;> cases y <;> simp [State.dreg_setDreg, hn]

theorem State.Steady.begun_dreg (h : s.Steady) (y : Bool) (n : Reg) : s.begun.dreg y n = s.dreg y n := by
  have rest := h.begin.2.rest
  generalize s.begun = b at rest
  rw [rest]
  rfl

/-- In SIMD mode a move without a compute is two half moves, each under the condition of its element. -/
theorem State.Steady.exec_uregMove_simd (h : s.Steady) (hs : s.simd = true) {c : Cond}
    (hc : c = .lce → s.inShortLoop = false) (src : UReg) {dst d : UReg} (hd : dst.comp = some d) :
    exec (.uregMove src c dst .none) s = outcome s (do
      let t1 ← if s.cond false c then s.copyReg s.begun dst src else .ok s.begun
      let t2 ← if s.cond true c then s.copyReg t1 d (implicitSource src) else .ok t1
      s.advance t2) := by
  have same := h.runPes_none (s.cond false c, s.simd && s.cond true c)
  rw [h.exec_uregMove hc rfl (apart_nil _ _), same]
  simp only [State.uregMove, State.moveGate, h.1.useMode1, hs, hd, Run.ok_bind, Bool.true_and]
  cases s.cond true c
  · cases s.cond false c
    · rfl
    · cases s.copyReg s.begun dst src <;> simp
  · cases s.cond false c
    · rfl
    · cases s.copyReg s.begun dst src <;> simp

/-- A move to a data register in SIMD mode, from sources that give their value whatever is written to. -/
theorem State.Steady.simdMove (h : s.Steady) (hs : s.simd = true) {c : Cond} (hc : c = .lce → s.inShortLoop = false)
    {p : Bool} {a : Reg} {src : UReg} {v w : W40}
    (h1 : ∀ t, s.copyReg t (UReg.ofDreg p a) src = .ok (t.setDreg p a v))
    (h2 : ∀ t, s.copyReg t (UReg.ofDreg (!p) a) (implicitSource src) = .ok (t.setDreg (!p) a w)) :
    ∃ u, exec (.uregMove src c (UReg.ofDreg p a) .none) s = .next u ∧
      u.dreg p a = (if s.cond false c then v else s.dreg p a) ∧
      u.dreg (!p) a = (if s.cond true c then w else s.dreg (!p) a) ∧
      ∀ y n, n ≠ a → u.dreg y n = s.dreg y n := by
  obtain ⟨u, hu, hadv⟩ := h.ends (s.begun.setBoth_seq p a (s.cond false c) (s.cond true c) v w)
  have same := SameOperands.of_advanced hadv
  obtain ⟨named, other, rest⟩ := s.begun.dreg_setBoth p a (s.cond false c) (s.cond true c) v w
  refine ⟨u, ?_, ?_, ?_, fun y n hn => ?_⟩
  · rw [h.exec_uregMove_simd hs hc src (UReg.comp_ofDreg p a), ← hu]
    unfold State.setBoth
    cases s.cond false c <;> cases s.cond true c <;> simp [h1, h2]
  · rw [same.dreg, named, h.begun_dreg]
  · rw [same.dreg, other, h.begun_dreg]
  · rw [same.dreg, rest y n hn, h.begun_dreg]

/-! ### USTAT1 and USTAT2 -/

/-- A DAG register moved to USTAT1 in SIMD mode goes to USTAT2 too. -/
theorem State.Steady.simdMove_ustat (h : s.Steady) (hs : s.simd = true) {c : Cond}
    (hc : c = .lce → s.inShortLoop = false) {src : UReg} (hsrc : src.isDag = true) :
    ∃ u, exec (.uregMove src c (.sys .ustat1) .none) s = .next u ∧
      u.reg.ustat1 = (if s.cond false c then s.read32 src else s.reg.ustat1) ∧
      u.reg.ustat2 = (if s.cond true c then s.read32 src else s.reg.ustat2) ∧ s.SameData u := by
  obtain ⟨k, n, rfl, himp⟩ := UReg.isDag_view hsrc
  have run := h.exec_uregMove_simd hs hc (UReg.ofDag k n) (dst := .sys .ustat1) rfl
  rw [himp] at run
  set v := s.read32 (UReg.ofDag k n)
  have begun : s.begun.reg.ustat1 = s.reg.ustat1 ∧ s.begun.reg.ustat2 = s.reg.ustat2 ∧ s.begun.x = s.x ∧
      s.begun.y = s.y := by
    have rest := h.begin.2.rest
    generalize s.begun = b at rest
    rw [rest]
    exact ⟨rfl, rfl, rfl, rfl⟩
  obtain ⟨h1, h2, hx, hy⟩ := begun
  let w := s.begun.mapReg fun r =>
    { r with ustat1 := if s.cond false c then v else r.ustat1, ustat2 := if s.cond true c then v else r.ustat2 }
  obtain ⟨u, hu, hadv⟩ := h.ends (t := w) rfl
  have reg : u.reg = w.reg := by rw [hadv.1]
  have same := SameOperands.of_advanced hadv
  refine ⟨u, ?_, ?_, ?_, same.x.trans hx, same.y.trans hy⟩
  · rw [run, ← hu]
    cases hc1 : s.cond false c <;> cases hc2 : s.cond true c <;>
      simp [w, hc1, hc2, (h.1.copy_ustat _ k n).1, (h.1.copy_ustat _ k n).2, State.mapReg, v]
  · rw [reg, ← h1]; rfl
  · rw [reg, ← h2]; rfl

/-! ### The swap -/

/-- A conditional swap in SIMD mode meets no register that its compute writes. -/
theorem State.apart_swap {c : Cond} {x y : Reg} {ds : List Reg}
    (hd : s.simd = true → c ≠ .always → x ∉ ds ∧ y ∉ ds) : s.apart (s.moveGate c) [.r x, .s y] ds = .ok () := by
  have free : (s.simd && (s.moveGate c).conditional && clashes [.r x, .s y] ds) = false := by
    cases hs : s.simd with
    | false => rfl
    | true =>
      by_cases hc : c = .always
      · simp [State.moveGate, hc]
      · obtain ⟨hx, hy⟩ := hd hs hc
        simp [clashes, UReg.dreg?, hx, hy]
  simp [State.apart, free]

/-- The halves of a swap are two writes of data registers. -/
theorem State.Settled.swapRegs (h : s.Settled) (t : State) (y x : Reg) (g : Gate) :
    s.swapRegs t y x g = .ok
      (let v := if g.x then t.setDreg false x (s.dreg true y) else t
       if g.y then v.setDreg true y (s.dreg false x) else v) := by
  have first (t : State) : s.copyReg t (.r x) (.s y) = .ok (t.setDreg false x (s.dreg true y)) :=
    h.copy_dreg t false true x y
  have second (t : State) : s.copyReg t (.s y) (.r x) = .ok (t.setDreg true y (s.dreg false x)) :=
    h.copy_dreg t true false y x
  rw [State.swapRegs, h.useMode1, Run.ok_bind]
  cases g.x <;> cases g.y <;> simp [first, second]

theorem State.Steady.swap_ends (h : s.Steady) {y x : Reg} {c : Cond} {k : Compute} (hk : k.dualClash = false)
    (hc : c = .lce → s.inShortLoop = false) (hd : s.simd = true → c ≠ .always → x ∉ k.dests ∧ y ∉ k.dests) :
    let w := s.runPes s.begun (computePe k) (s.cond false c) (s.simd && s.cond true c)
    let v := if s.cond false c then w.setDreg false x (s.dreg true y) else w
    ∃ u, exec (.swap y c x k) s = .next u ∧
      s.Advanced (if s.cond s.simd c then v.setDreg true y (s.dreg false x) else v) u := by
  intro w v
  have halves : s.swapRegs w y x (s.moveGate c) =
      .ok (if s.cond s.simd c then v.setDreg true y (s.dreg false x) else v) := h.1.swapRegs w y x (s.moveGate c)
  have seq : (if s.cond s.simd c then v.setDreg true y (s.dreg false x) else v).seq = s.begun.seq := by
    have hw : w.seq = s.begun.seq := State.runPes_seq ..
    have hv : v.seq = s.begun.seq := by
      simp only [v]
      split <;> simp [hw]
    split <;> simp [hv]
  obtain ⟨u, hu, hadv⟩ := h.ends seq
  refine ⟨u, ?_, hadv⟩
  show execSwap y c x k s = _
  simp only [execSwap, h.1.condReady c hc, State.apart_swap hd, h.begin.1, s.peGate_false, h.computePart k _ hk,
    Run.ok_bind]
  exact (congrArg (fun r => outcome s (r >>= s.advance)) halves).trans hu

/-- Settles O36: the halves of a move and of a swap are writes of two registers, each under the condition of its element. -/
theorem simdMoves : Obligations.SimdMoves := by
  refine ⟨fun p q a b c s h hs hc => ?_, fun src p a c s hsrc h hs hc => ⟨?_, h.simdMove_ustat hs hc hsrc⟩,
    fun y x c k s h hk hc hd => h.swap_ends hk hc hd⟩
  · exact h.simdMove hs hc (fun t => h.1.copy_dreg t p q a b) fun t => by
      have complement : implicitSource (UReg.ofDreg q b) = UReg.ofDreg (!q) b := by cases q <;> rfl
      rw [show implicitSource (if q then .s b else .r b) = _ from complement]
      exact h.1.copy_dreg t (!p) (!q) a b
  · obtain ⟨k, n, rfl, himp⟩ := UReg.isDag_view hsrc
    exact h.simdMove hs hc (fun t => h.1.copy_dag t p a k n) fun t => himp.symm ▸ h.1.copy_dag t (!p) a k n

end Sys2Proof.Machine
end

section
/-!
PROOF. ConditionFalse: in SISD mode no part of an instruction runs whose condition is false in PEx.
-/
namespace Sys2Proof.Machine

variable {s t : State}

theorem State.computePart_off (s t : State) (k : Compute) : s.computePart t k (false, false) = .ok t := by
  simp [State.computePart]

theorem State.shiftPart_off (s t : State) (op : ShImm) (ex : BitVec 4) (data : BitVec 8) (rn rx : Reg) :
    s.shiftPart t op ex data rn rx (false, false) = .ok t := rfl

/-- A memory move that no half lets through does nothing in SISD mode. -/
theorem State.move_off (hs : s.simd = false) (t : State) (m : MemMove) (b : Bool) (ds : List Reg) :
    s.move t m ⟨false, false, b⟩ ds = .ok t := by
  simp [State.move, State.memMove, State.report, Gate.any, hs, s.apart_sisd hs, State.putAll]

theorem State.Settled.uregMove_off (h : s.Settled) (hs : s.simd = false) (t : State) (dst src : UReg) (b : Bool) :
    s.uregMove t dst src ⟨false, false, b⟩ = .ok t := by
  simp [State.uregMove, h.useMode1, hs]

/-- In SISD mode a false condition opens no gate. -/
theorem State.gates_off (hs : s.simd = false) {c : Cond} (hc : s.cond false c = false) :
    s.peGate c false = (false, false) ∧ s.moveGate c = ⟨false, false, c != .always⟩ ∧ s.condAny c = false := by
  simp [State.peGate, State.moveGate, State.condAny, hs, hc]

/-- The instructions of ConditionFalse come down to their begin and their end. -/
theorem State.Calm.exec_off (h : s.Calm) (hs : s.simd = false) {c : Cond} (hc : s.cond false c = false) {i : Instr}
    (hi : (∃ m, i.access? = some (c, true, m)) ∨ (∃ k, i = .condCompute c k) ∨ (∃ a b k, i = .uregMove a c b k) ∨
      (∃ y x k, i = .swap y c x k) ∨ (∃ e o d n x, i = .shiftImm c e o d n x) ∨ (∃ g j m k, i = .modify g c j m k)) :
    exec i s = outcome s (s.advance s.begun) := by
  have ready := h.1.1.condReady c fun _ => h.2
  have begin := h.1.begin.1
  obtain ⟨pes, halves, any⟩ := s.gates_off hs hc
  have runMove (k : Compute) (m : MemMove) : runMove c k m s = outcome s (s.advance s.begun) := by
    simp only [Machine.runMove, ready, begin, pes, halves, s.computePart_off, s.move_off hs, Run.ok_bind]
  have conditional : c ≠ .always := by
    rintro rfl
    cases hc
  rcases hi with ⟨m, hm⟩ | ⟨k, rfl⟩ | ⟨a, b, k, rfl⟩ | ⟨y, x, k, rfl⟩ | ⟨e, o, d, n, x, rfl⟩ | ⟨g, j, m, k, rfl⟩
  · cases i with
    | uregMem => cases hm; exact runMove _ _
    | dregMemImm => cases hm; exact runMove _ _
    | shiftImmMem i m c g w ex d op data rn rx =>
      cases hm
      show execShiftImmMem i m c g w ex d op data rn rx s = _
      simp only [execShiftImmMem, ready, begin, pes, halves, s.shiftPart_off, s.move_off hs, Run.ok_bind]
    | uregAbs | uregPre | storeImm => cases hm; exact absurd rfl conditional
    | _ => cases hm
  · show execCondCompute c k s = _
    simp only [execCondCompute, ready, begin, pes, s.computePart_off, Run.ok_bind]
  · show execUregMove a c b k s = _
    simp only [execUregMove, ready, begin, pes, halves, s.computePart_off, s.apart_sisd hs, h.1.1.uregMove_off hs,
      Run.ok_bind]
  · show execSwap y c x k s = _
    simp only [execSwap, ready, begin, pes, halves, s.computePart_off, s.apart_sisd hs, h.1.1.swapRegs, Run.ok_bind,
      Bool.false_eq_true, if_false]
  · show execShiftImm c e o d n x s = _
    simp only [execShiftImm, ready, begin, pes, s.shiftPart_off, Run.ok_bind]
  · show execModify g c j m k s = _
    simp only [execModify, ready, begin, pes, any, s.computePart_off, h.1.1.useMode1, Run.ok_bind, Bool.false_eq_true,
      if_false]

/-- Settles O44: with its gates shut an instruction is its begin and its end. -/
theorem conditionFalse : Obligations.ConditionFalse := by
  intro i c s h hs hc hi
  obtain ⟨u, hu, hadv⟩ := h.1.ends (t := s.begun) rfl
  exact ⟨u, (h.exec_off hs hc hi).trans hu, hadv⟩

end Sys2Proof.Machine
end

section
/-!
PROOF. The parts of a memory move, exactly: what a word that the core reaches gives and takes, what the move makes of the
address registers, and what it reports.
-/
namespace Sys2Proof.Machine

variable {s t u v w : State} {l : Loc} {m : MemMove} {a : W32}

/-! ### One word -/

/-- `t` after an access to the word at `l`: ELAST follows one to external bank 0 (62_link_serial_multiproc.md R767). -/
def State.noteExt (t : State) (l : Loc) : State :=
  match l.place with
  | .ext => t.touchExt l.addr
  | _ => t

/-- An access notes ELAST and nothing else. -/
theorem State.noteExt_rest (t : State) (l : Loc) :
    t.noteExt l = { t with
      iop := { t.iop with elast := (t.noteExt l).iop.elast }
      recent := { t.recent with elast := (t.noteExt l).recent.elast } } := by
  unfold State.noteExt
  split
  · unfold State.touchExt
    split <;> rfl
  · rfl

/-- What a store of the word at `l` leaves in the shadow write FIFO (20_memory.md R184). -/
def Loc.marks (l : Loc) : List WriteMark :=
  match l.place with
  | .cells f => [⟨f, l.width / 16, l.width == 48⟩]
  | _ => []

/-- `t` with the word `v` stored at `l`. -/
def State.withWord (t : State) (l : Loc) (v : W64) : State :=
  { t.noteExt l with mem := t.mem.store l.bytes.1 l.bytes.2 v.toNat, shadow1 := l.marks ++ t.shadow1 }

/-- A reachable word that no store of this instruction left in the shadow write FIFO is read. -/
theorem State.Settled.readWord_eq (h : s.Settled) (hl : s.Reachable l true)
    (ht : ∀ f, l.place = .cells f → shadowed t.shadow1 f (l.width / 16) (l.width == 48) = false) (site : Nat) :
    s.readWord t l site = .ok (l.word t.mem, t.noteExt l) := by
  obtain ⟨-, hl⟩ := hl
  unfold State.readWord Loc.word Loc.bytes State.noteExt
  cases hp : l.place with
  | cells f =>
    rw [hp] at hl
    have clear : shadowed (s.shadow1 ++ s.shadow2) f (l.width / 16) (l.width == 48) = false := hl
    have all : shadowed (t.shadow1 ++ s.shadow1 ++ s.shadow2) f (l.width / 16) (l.width == 48) = false := by
      rw [List.append_assoc, shadowed, List.any_append, ← shadowed, ← shadowed, ht f hp, clear]
      rfl
    simp only [all, Bool.not_false, need_true, Run.ok_bind]
  | ext =>
    rw [hp] at hl
    simp [h.busReady hl.1 hl.2]
  | _ => simp [hp] at hl

/-- A reachable word is written. -/
theorem State.Settled.writeWord_eq (h : s.Settled) (hl : s.Reachable l false) (t : State) (x : W64) :
    s.writeWord t l x = .ok (t.withWord l x) := by
  obtain ⟨hall, hl⟩ := hl
  unfold State.writeWord State.withWord Loc.bytes Loc.marks State.noteExt
  cases hp : l.place with
  | cells f =>
    rw [hp] at hl
    have free : s.hitsFetched f (l.width / 16) = false := hl
    simp [free, hall]
  | ext =>
    rw [hp] at hl
    simp only [h.busReady hl.1 hl.2, Run.ok_bind, List.nil_append]
    unfold State.touchExt
    split <;> rfl
  | _ => simp [hp] at hl

/-- A reachable word does not leave the chip. -/
theorem State.Reachable.send {read : Bool} (hl : s.Reachable l read) (t : State) (x : W64) (y : Option W64) :
    t.send l x y = t := by
  obtain ⟨hall, hl⟩ := hl
  have stays : l.leaves = false := by
    unfold Loc.leaves
    rw [hall]
    cases hp : l.place <;> simp_all
  simp [State.send, stays]

/-! ### The move around the access -/

/-- What a memory move makes of an access where its gate lets a half through. -/
theorem State.Settled.memMove_open (h : s.Settled) (ha : s.address m.mode = .ok a) (hself : m.selfTransfer = false)
    {g : Gate} (hg : g.any = true) (hok : s.gateOk g a = .ok ()) (t : State) (e : Bool) (site : Nat) :
    ∃ c f, (m.pm = false → t.withCache c f = t) ∧ s.memMove t m g e site = (do
      let (xs, w) ← match m.op with
        | .load r => s.load (t.withCache c f) r a m.lw (broadcastBy s.reg.mode1 r m.mode) g e site
        | .store d => do
          let w ← s.store (t.withCache c f) d a m.lw g e
          .ok (([] : List Loaded), w)
      let u ← s.postModify w m.mode
      .ok (xs, u)) := by
  obtain ⟨c, f, hc⟩ := h.pmAccess m.pm t
  have self : (!m.selfTransfer) = true := by rw [hself]; rfl
  refine ⟨c, f, fun hpm => ?_, ?_⟩
  · rw [hpm] at hc
    exact (Except.ok.inj hc).symm
  · simp only [State.memMove, hg, Bool.not_true, Bool.false_and, Bool.false_eq_true, if_false, h.useMode1, ha, Run.ok_bind,
      hok, self, need_true, pmAccess_then hc] <;> cases m.op <;> rfl

theorem State.gateOk_sisd (hs : s.simd = false) (g : Gate) (a : W32) : s.gateOk g a = .ok () := by
  simp [State.gateOk, hs]

/-- What a memory move has done but for memory and the registers: the cache, ELAST, and the index register. -/
theorem State.addressed_postModified (hp : ∀ k n, t.dagReg k n = s.dagReg k n) {c : Vector (List CacheEntry) 16}
    {f : Option W48} (hc : m.pm = false → t.withCache c f = t) (l : Loc) :
    s.Addressed t (s.postModified ((t.withCache c f).noteExt l) m.mode) m := by
  have noted := (t.withCache c f).noteExt_rest l
  have dag (k : DagKind) (n : Reg) : ((t.withCache c f).noteExt l).dagReg k n = s.dagReg k n := by
    rw [noted]
    exact hp k n
  have after := State.dagReg_postModified_eq dag m.mode
  have rest := s.postModified_rest ((t.withCache c f).noteExt l) m.mode
  generalize s.postModified ((t.withCache c f).noteExt l) m.mode = q at *
  generalize hn : (t.withCache c f).noteExt l = n at *
  refine ⟨by rw [rest, noted]; rfl, after, fun hpm => ?_⟩
  have seq : q.seq = (t.withCache c f).seq := by rw [rest, noted]
  rw [seq, hc hpm]

/-- The index update of an access and a store of a word do not meet. -/
theorem State.postModified_withWord (s t : State) (l : Loc) (x : W64) (m : AddrMode) :
    s.postModified (t.withWord l x) m =
      { s.postModified (t.noteExt l) m with
        mem := t.mem.store l.bytes.1 l.bytes.2 x.toNat, shadow1 := l.marks ++ t.shadow1 } := by
  unfold State.postModified State.withWord
  split
  · unfold State.setDagReg
    split <;> rfl
  · rfl

/-! ### The report -/

/-- The sticky bit of the wrap that an address mode reports. -/
def State.wrapOf (s : State) : AddrMode → W32
  | .post i d => wrapBit i (s.wraps i (s.modifier d) false)
  | _ => 0

/-- The sticky bits of STKYx for the address itself: IRA and U64MA (60_exceptions.md R613). -/
def State.detected (s : State) (a : W32) (lw : Bool) : W32 :=
  bitAt 19 (target s.pins.id a != .ext && form a == .iop && s.reg.mode2.getLsbD 20) |||
    bitAt 20 (lw && a.getLsbD 0 && (target s.pins.id a == .ext || form a == .normal) && s.reg.mode2.getLsbD 21)

theorem State.reportBits_eq (s : State) (m : MemMove) (a : W32) :
    s.reportBits m a = s.detected a m.lw ||| s.wrapOf m.mode := by
  have ira : (if target s.pins.id a ≠ .ext ∧ form a = .iop ∧ s.reg.mode2.getLsbD 20 = true then 0x80000 else (0 : W32)) =
      bitAt 19 (target s.pins.id a != .ext && form a == .iop && s.reg.mode2.getLsbD 20) := by
    simp [bitAt, and_assoc]
  have u64 : (if m.lw = true ∧ a.getLsbD 0 = true ∧ (target s.pins.id a = .ext ∨ form a = .normal) ∧
        s.reg.mode2.getLsbD 21 = true then 0x100000 else (0 : W32)) =
      bitAt 20 (m.lw && a.getLsbD 0 && (target s.pins.id a == .ext || form a == .normal) && s.reg.mode2.getLsbD 21) := by
    simp [bitAt, and_assoc]
  unfold State.reportBits State.detected State.wrapOf
  rw [ira, u64, BitVec.or_assoc, BitVec.or_comm] <;> cases m.mode <;> rfl

theorem State.Settled.detect (h : s.Settled) (t : State) (a : W32) (lw : Bool) :
    s.detect t a lw = .ok (t.stkyxOr (s.detected a lw)) := by
  simp [State.detect, h.changed, Changed.none, State.detected, bne]

/-- A latch that is set clears no other. -/
theorem State.occur_keeps_irptl (t : State) (k : Irq) : (t.occur k).reg.irptl &&& t.reg.irptl = t.reg.irptl := by
  have kept (a b : W32) : putBits a b b &&& a = a := by
    unfold putBits
    ext i hi
    simp only [BitVec.getElem_and, BitVec.getElem_or, BitVec.getElem_not]
    cases a[i] <;> cases b[i] <;> rfl
  unfold State.occur State.setLatch
  split
  · exact BitVec.and_self
  · split
    · exact BitVec.and_self
    · exact kept _ _

theorem State.postReport_keeps_irptl (s t : State) (m : AddrMode) :
    (s.postReport t m).reg.irptl &&& t.reg.irptl = t.reg.irptl := by
  unfold State.postReport State.reportWrap State.wrapEvent
  split
  · split
    · split
      · exact (t.stkyxOr _).occur_keeps_irptl _
      · split
        · exact (t.stkyxOr _).occur_keeps_irptl _
        · exact BitVec.and_self
    · exact BitVec.and_self
  · exact BitVec.and_self

theorem wrapNoted_postReport (s t : State) (m : AddrMode) : WrapNoted (s.wrapOf m) t (s.postReport t m) := by
  cases m with
  | post i d => exact wrapNoted_reportWrap s t i _ false
  | direct a => exact WrapNoted.zero t
  | pre i d => exact WrapNoted.zero t

/-- A wrap shows in the sticky bits of I7 and I15. -/
theorem State.wrapOf_eq_zero (s : State) (m : AddrMode) (x : W32) (h : (x ||| s.wrapOf m) &&& 0x60000 = 0) :
    s.wrapOf m = 0 := by
  have within : s.wrapOf m &&& 0x60000 = s.wrapOf m := by
    unfold State.wrapOf wrapBit
    split
    · split
      · rfl
      · split <;> rfl
    · rfl
  rw [BitVec.and_or_distrib_right, within] at h
  exact (BitVec.or_eq_zero_iff.1 h).2

/-- The reports of a memory move whose explicit half is let through. -/
theorem State.Settled.reported (h : s.Settled) (ha : s.address m.mode = .ok a) {g : Gate} (hg : g.x = true) (t : State) :
    ∃ v, s.report t m g = .ok v ∧ s.Reported t v m a := by
  have any : g.any = true := by simp [Gate.any, hg]
  refine ⟨s.postReport (t.stkyxOr (s.detected a m.lw)) m.mode, ?_, ?_⟩
  · simp [State.report, any, hg, ha, h.detect]
  · obtain ⟨rest, latch, none⟩ := wrapNoted_postReport s (t.stkyxOr (s.detected a m.lw)) m.mode
    have kept := s.postReport_keeps_irptl (t.stkyxOr (s.detected a m.lw)) m.mode
    generalize s.postReport (t.stkyxOr (s.detected a m.lw)) m.mode = v at *
    refine ⟨?_, latch, kept, fun hz => ?_⟩
    · rw [rest, s.reportBits_eq, ← BitVec.or_assoc]
      rfl
    · rw [s.reportBits_eq] at hz
      exact none (s.wrapOf_eq_zero m.mode _ hz)

end Sys2Proof.Machine
end

section
/-!
PROOF. LoadCompletes and StoreCompletes: the memory moves in SISD mode, from the instruction to its end.
-/
namespace Sys2Proof.Machine

variable {s t u v w : State} {l : Loc} {m : MemMove} {a : W32} {i : Instr} {c : Cond} {on : Bool}

/-! ### The instructions -/

/-- Away from the end of the loop a branch may stand. -/
theorem State.AwayFromEnd.branchPlace (h : s.AwayFromEnd) (call : Bool) : s.branchPlace call = .ok () := by
  unfold State.branchPlace
  refine need_eq_ok.2 ?_
  cases hl : s.looping with
  | false => rfl
  | true =>
    obtain ⟨h0, h1, h2⟩ := h hl
    have at0 := beq_false_of_ne h0
    have at1 := beq_false_of_ne h1
    have at2 := beq_false_of_ne h2
    rw [at0, at1, at2]
    split <;> rfl

/-- What a move in SISD mode stands for whose condition lets it through: its instruction has done its compute `f` in PEx. -/
def State.MovesSisd (s : State) (f : PeIn → PeOut) (m : MemMove) (o : Host.Outcome State Fault Refusal) : Prop :=
  ∃ b ds, o = outcome s (s.move (s.runPes s.begun f true false) m ⟨true, true, b⟩ ds >>= s.advance)

theorem State.gates_sisd (hs : s.simd = false) (hc : s.cond false c = true) :
    s.peGate c false = (true, false) ∧ s.moveGate c = ⟨true, true, c != .always⟩ := by
  simp [State.peGate, State.moveGate, hs, hc]

theorem State.Calm.runMove_sisd (h : s.Calm) (hs : s.simd = false) (hc : s.cond false c = true) {k : Compute}
    (hk : (!k.dualClash) = true) (m : MemMove) : s.MovesSisd (computePe k) m (runMove c k m s) := by
  obtain ⟨pes, halves⟩ := s.gates_sisd hs hc
  refine ⟨c != .always, k.dests, ?_⟩
  simp only [runMove, h.1.1.condReady c fun _ => h.2, h.1.begin.1, pes, halves, h.1.computePart k _ (by simpa using hk),
    Run.ok_bind]

theorem State.Steady.runAccess_sisd (h : s.Steady) (m : MemMove) :
    s.MovesSisd PeOut.none m (Machine.runAccess m s) := by
  have same : s.runPes s.begun PeOut.none true false = s.begun := h.runPes_none (true, false)
  refine ⟨false, [], ?_⟩
  simp only [Machine.runAccess, h.begin.1, Run.ok_bind, same]
  rfl

/-- The transfer of Type 10, where the condition of its JUMP is false (41_program_flow.md R314). -/
theorem State.Calm.jumpElse_sisd (h : s.Calm) (hs : s.simd = false) (hc : s.cond false c = false) (hn : s.AwayFromEnd)
    {k : Compute} (hk : (!k.dualClash) = true) (write : Bool) (i m : DagNum) (target : State → Run W24) (d : Reg) :
    s.MovesSisd (computePe k) ⟨moveOp write (.r d), false, .post (dagNumber false i) (.reg (dagNumber false m)), false⟩
      (jumpElse write i m c target d k s) := by
  have both : s.condBoth c = false := by simp [State.condBoth, hc]
  have pes : s.peGate c true = (true, false) := by simp [State.peGate, hs, hc]
  have halves : s.elseGate c = ⟨true, true, true⟩ := by simp [State.elseGate, hs, hc]
  refine ⟨true, k.dests, ?_⟩
  simp only [jumpElse, h.1.1.condReady c fun _ => h.2, h.1.begin.1, both, hn.branchPlace, pes, halves,
    h.1.computePart k _ (by simpa using hk), Run.ok_bind, Bool.false_eq_true, if_false]
  rfl

/-- Every instruction with a memory move does its compute and then the move, where the condition has the value it needs. -/
theorem State.Calm.exec_access_sisd (h : s.Calm) (hs : s.simd = false) (hi : i.access? = some (c, on, m))
    (hk : i.noClash = true) (hc : s.cond false c = on) (hn : on = false → s.AwayFromEnd) :
    s.MovesSisd i.movePe m (exec i s) := by
  cases i with
  | uregMem => cases hi; exact h.runMove_sisd hs hc hk _
  | dregMemImm => cases hi; exact h.runMove_sisd hs hc hk _
  | shiftImmMem i m c g w ex d op data rn rx =>
    cases hi
    obtain ⟨pes, halves⟩ := s.gates_sisd hs hc
    refine ⟨c != .always, shImmDests op rn, ?_⟩
    show execShiftImmMem i m c g w ex d op data rn rx s = _
    simp only [execShiftImmMem, h.1.1.condReady c fun _ => h.2, h.1.begin.1, pes, halves, h.1.1.shiftPart, Run.ok_bind]
    rfl
  | jumpIndElse w di dm c i m d k =>
    cases hi
    exact h.jumpElse_sisd hs hc (hn rfl) hk w di dm (fun s => s.indTarget i m) d
  | jumpRelElse w di dm c rel d k =>
    cases hi
    exact h.jumpElse_sisd hs hc (hn rfl) hk w di dm (fun s => s.relTarget (rel.signExtend 24)) d
  | uregAbs | uregPre | storeImm => cases hi; exact h.1.runAccess_sisd _
  | _ => cases hi

/-! ### Registers loaded -/

theorem State.FetchesLike.putLoaded (h : s.FetchesLike t) (sse : W32) (x : Loaded) :
    Run.Sat (t.putLoaded sse x) s.FetchesLike := by
  unfold State.putLoaded
  split
  · exact h.write32 _ _
  · split
    · exact Run.sat_ok h
    · exact Run.sat_ok (h.of_seq (State.setDreg_seq ..))
    · exact Run.sat_ok (h.of_seq (State.setDreg_seq ..))
    · exact h.write32 _ _
  · split
    · exact Run.sat_ok h
    · refine Run.sat_bind (h.write32 _ _) fun v hv => ?_
      split
      · exact hv.write32 _ _
      · exact Run.sat_ok hv
  · split
    · exact Run.sat_ok h
    · exact h.write32 _ _

/-- What decides whether a register takes a word: IMASKP, the in-service bits of LIRPTL, and the loops active. -/
structure SameGuards (t u : State) : Prop where
  imaskp : u.reg.imaskp = t.reg.imaskp
  lirptl : u.reg.lirptl = t.reg.lirptl
  depth : u.seq.loopDepth = t.seq.loopDepth

/-- A run that reaches an answer. -/
def Run.Answers {α : Type} (r : Run α) : Prop := ∃ a, r = .ok a

theorem Run.answers_need_bind {α β : Type} {b : Bool} {f : Fault} {k : Unit → Run α} {k' : Unit → Run β}
    (h : Run.Answers (k ()) → Run.Answers (k' ())) : Run.Answers (need b f >>= k) → Run.Answers (need b f >>= k') := by
  cases b with
  | false => exact fun ⟨_, ha⟩ => nomatch ha
  | true => exact h

theorem State.writeSys_answers (h : SameGuards t u) (k : SReg) (x : W32) :
    Run.Answers (t.writeSys k x) → Run.Answers (u.writeSys k x) := by
  have ok {α : Type} (a b : α) : Run.Answers (.ok a : Run α) → Run.Answers (.ok b : Run α) := fun _ => ⟨b, rfl⟩
  unfold State.writeSys noReserved
  dsimp only
  rw [h.imaskp, h.lirptl]
  cases k with
  | mode1 | mode2 | flags | astatx | astaty | stkyx | stkyy | imask | imaskp => exact Run.answers_need_bind (ok _ _)
  | irptl | lirptl => exact Run.answers_need_bind (Run.answers_need_bind (ok _ _))
  | _ => exact ok _ _

theorem State.write32_answers (h : SameGuards t u) (r : UReg) (x : W32) :
    Run.Answers (t.write32 r x) → Run.Answers (u.write32 r x) := by
  have ok {α : Type} (a b : α) : Run.Answers (.ok a : Run α) → Run.Answers (.ok b : Run α) := fun _ => ⟨b, rfl⟩
  unfold State.write32
  cases r with
  | laddr =>
    dsimp only
    unfold State.writeLaddr noReserved
    rw [h.depth]
    split
    · exact ok _ _
    · exact Run.answers_need_bind (ok _ _)
  | sys k => exact State.writeSys_answers h k x
  | _ => exact ok _ _

/-- The other register of a pair always takes its half. -/
theorem State.write32_pair {r q : UReg} (hq : r.pair? = some q) (t : State) (x : W32) : Run.Answers (t.write32 q x) := by
  cases r <;> cases hq <;> exact ⟨_, rfl⟩

theorem State.putLoaded_answers (h : SameGuards t u) (sse : W32) (x : Loaded) :
    Run.Answers (t.putLoaded sse x) → Run.Answers (u.putLoaded sse x) := by
  have ok {α : Type} (a b : α) : Run.Answers (.ok a : Run α) → Run.Answers (.ok b : Run α) := fun _ => ⟨b, rfl⟩
  unfold State.putLoaded
  split
  · exact State.write32_answers h _ _
  · split
    · exact ok _ _
    · exact ok _ _
    · exact ok _ _
    · exact State.write32_answers h _ _
  · split
    · exact ok _ _
    · rintro ⟨t2, ht⟩
      obtain ⟨t1, ht1, -⟩ := Run.bind_eq_ok.1 ht
      obtain ⟨u1, hu1⟩ := State.write32_answers h _ _ ⟨t1, ht1⟩
      rw [hu1, Run.ok_bind]
      split
      · next q hq => exact State.write32_pair hq _ _
      · exact ⟨_, rfl⟩
  · split
    · exact ok _ _
    · exact State.write32_answers h _ _

/-! ### The load -/

theorem State.Calm.mayWrite_regsOf (h : s.Calm) {r : UReg} (hr : s.FlowWritable r) (n : Nat) :
    (regsOf r n).forM s.mayWrite = .ok () := by
  refine forM_ok fun x hx => ?_
  unfold regsOf at hx
  split at hx
  · rcases List.mem_cons.1 hx with rfl | hx
    · exact h.mayWrite hr
    · cases r <;> simp [UReg.pair?] at hx <;> subst hx <;> exact h.1.1.mayWrite _ rfl
  · rw [List.mem_singleton.1 hx]
    exact h.mayWrite hr

theorem State.Calm.load_sisd (h : s.Calm) (hs : s.simd = false) {r : UReg} {lw : Bool}
    (hl : s.locate a (r == .px) lw = .ok l) (hp : l.width = 64 → r = .px ∨ r.pair?.isSome = true)
    (hr : s.Reachable l true) (hw : s.FlowWritable r) (ht : t.shadow1 = []) (b e : Bool) (site : Nat) :
    s.load t r a lw false ⟨true, true, b⟩ e site = .ok ([⟨r, l.width, l.word t.mem⟩], t.noteExt l) := by
  have pairs : (l.width != 64 || r == .px || r.pair?.isSome) = true := by
    by_cases hw : l.width = 64
    · rcases hp hw with hp | hp <;> simp [hp]
    · simp [hw]
  have read := h.1.1.readWord_eq hr (t := t) (fun _ _ => by rw [ht]; rfl) site
  have single : s.implicitReg r l ⟨true, true, b⟩ e = none := by simp [State.implicitReg, hs]
  have each : s.loadEach t r l ⟨true, true, b⟩ e site = .ok ([⟨r, l.width, l.word t.mem⟩], t.noteExt l) := by
    simp only [State.loadEach, if_true, h.mayWrite_regsOf hw, read, single, Run.ok_bind]
  simp only [State.load, hl, hr.isReg, pairs, h.1.1.useMode1, each, Run.ok_bind, need_true, Bool.false_eq_true, if_false,
    ite_self]

/-- A memory move whose access and register writes complete is reported and reaches the end of the instruction. -/
theorem State.Steady.move_ends_sisd (h : s.Steady) (hs : s.simd = false) (ha : s.address m.mode = .ok a)
    {xs : List Loaded} {b : Bool} (hmove : s.memMove t m ⟨true, true, b⟩ false 4 = .ok (xs, v))
    (hput : v.putAll s.reg.mode1 xs = .ok w) (hw : s.FetchesLike w) (ds : List Reg) :
    ∃ x u, outcome s (s.move t m ⟨true, true, b⟩ ds >>= s.advance) = .next u ∧ s.Reported w x m a ∧
      s.Advanced (if xs.any (fun x => x.u == .curlcntr) then { x with recent := { x.recent with curlcntr := true } } else x)
        u := by
  obtain ⟨x, hx, hrep⟩ := h.1.reported ha (g := ⟨true, true, b⟩) rfl w
  have seq : x.seq = w.seq := by rw [hrep.1]
  have last : s.FetchesLike
      (if xs.any (fun x => x.u == .curlcntr) then { x with recent := { x.recent with curlcntr := true } } else x) := by
    split <;> exact hw.of_seq seq
  obtain ⟨u, hu, hadv⟩ := h.ends_of_fetchesLike last
  refine ⟨x, u, ?_, hrep, hadv⟩
  simp only [State.move, hmove, s.apart_sisd hs, hput, hx, Run.ok_bind, hu]

/-- Settles O40: the word is read, the index register updated, the word written to its register, and the access reported. -/
theorem loadCompletes : Obligations.LoadCompletes := by
  intro i c on r m a l s t1 hi hop hk h hs hc hn hm ha hself hb hl hwide hr hw ht1
  obtain ⟨b, ds, run⟩ := h.exec_access_sisd hs hi hk hc hn
  obtain ⟨pmem, pshadow, pmode, pseq, pdag⟩ := h.1.computed i.movePe true false
  have guards : SameGuards s.begun (s.runPes s.begun i.movePe true false) := by
    rw [State.runPes_rest]
    exact ⟨rfl, rfl, rfl⟩
  generalize s.runPes s.begun i.movePe true false = p at *
  obtain ⟨k, f, cached, move⟩ := h.1.1.memMove_open ha hself (g := ⟨true, true, b⟩) rfl (s.gateOk_sisd hs _ a) p false 4
  have addressed := s.addressed_postModified pdag cached l
  have word : l.word (p.withCache k f).mem = l.word s.mem := congrArg l.word pmem
  rw [hop] at move
  simp only [hb, h.load_sisd hs hl hwide hr hw (t := p.withCache k f) pshadow, word, h.1.1.postModify hm, Run.ok_bind] at move
  generalize s.postModified ((p.withCache k f).noteExt l) m.mode = t0 at *
  have guards0 : SameGuards s.begun t0 := by
    rw [addressed.1]
    exact ⟨guards.1, guards.2, guards.3⟩
  obtain ⟨t, ht⟩ := State.putLoaded_answers guards0 s.reg.mode1 _ ⟨t1, ht1⟩
  have fetch : s.FetchesLike t0 := by
    rw [addressed.1]
    exact ⟨by rw [← h.1.begun_daddr, ← pseq], by rw [← h.1.begun_faddr, ← pseq]⟩
  have put : t0.putAll s.reg.mode1 [⟨r, l.width, l.word s.mem⟩] = .ok t := by
    have loaded : t0.putLoaded s.reg.mode1 ⟨r, l.width, l.word s.mem⟩ = .ok t := ht
    show (t0.putLoaded _ _ >>= fun u => .ok u) = _
    rw [loaded]
    rfl
  obtain ⟨v, u, hu, hrep, hadv⟩ := h.1.move_ends_sisd hs ha move put (fetch.putLoaded _ _ t ht) ds
  refine ⟨t0, t, v, u, run.trans hu, addressed, ht, hrep, ?_⟩
  simpa using hadv

/-! ### The store -/

theorem State.Calm.store_sisd (h : s.Calm) (hs : s.simd = false) {d : Datum} {lw : Bool}
    (hl : s.locate a d.isPx lw = .ok l) (hp : l.width = 64 → d.pairs = true) (hr : s.Reachable l false)
    (hd : d = .reg .lcntr → s.seq.loopDepth < 6) (t : State) (b e : Bool) :
    s.store t d a lw ⟨true, true, b⟩ e = .ok (t.withWord l (s.datumWord d l.width)) := by
  have pairs : (l.width != 64 || d.pairs) = true := by
    by_cases hw : l.width = 64 <;> simp [hw, hp]
  have single : s.implicitDatum d l ⟨true, true, b⟩ e = none := by simp [State.implicitDatum, hs]
  simp only [State.store, hl, hr.isReg, pairs, h.datumReady hd, h.1.1.writeWord_eq hr, single, hr.send, Run.ok_bind, need_true,
    Bool.false_eq_true, if_false, if_true]

/-- The bytes of a stored word. -/
theorem Mem.byte_store_word {n : Mem} (hn : n.wf = true) (k j b : Nat) (x : W64) (hj : j < b) :
    (n.store k b x.toNat).byte (k + j) = x.extractLsb' (8 * j) 8 := by
  rw [Mem.byte_store_in hn hj]
  refine BitVec.eq_of_toNat_eq ?_
  rw [BitVec.toNat_ofNat, BitVec.extractLsb'_toNat, Nat.shiftRight_eq_div_pow, pow_mul]
  rfl

/-- Settles O42: the word is written, the index register updated, and the access reported. -/
theorem storeCompletes : Obligations.StoreCompletes := by
  intro i c on d m a l s hi hop hk wf h hs hc hn hm ha hself hl hwide hr hd
  obtain ⟨b, ds, run⟩ := h.exec_access_sisd hs hi hk hc hn
  obtain ⟨pmem, pshadow, pmode, pseq, pdag⟩ := h.1.computed i.movePe true false
  generalize s.runPes s.begun i.movePe true false = p at *
  obtain ⟨k, f, cached, move⟩ := h.1.1.memMove_open ha hself (g := ⟨true, true, b⟩) rfl (s.gateOk_sisd hs _ a) p false 4
  have addressed := s.addressed_postModified pdag cached l
  have mem : (p.withCache k f).mem = s.mem := pmem
  rw [hop] at move
  simp only [h.store_sisd hs hl hwide hr hd, h.1.1.postModify hm, Run.ok_bind, State.postModified_withWord, mem] at move
  generalize s.postModified ((p.withCache k f).noteExt l) m.mode = t0 at *
  have fetch : s.FetchesLike t0 := by
    rw [addressed.1]
    exact ⟨by rw [← h.1.begun_daddr, ← pseq], by rw [← h.1.begun_faddr, ← pseq]⟩
  obtain ⟨v, u, hu, hrep, hadv⟩ := h.1.move_ends_sisd hs ha move rfl (fetch.of_seq rfl) ds
  have shadow : v.shadow1 = l.marks ++ (p.withCache k f).shadow1 := by rw [hrep.1]
  have stored : u.mem = s.mem.store l.bytes.1 l.bytes.2 (s.datumWord d l.width).toNat := by
    rw [hadv.1]
    show v.mem = _
    rw [hrep.1]
  refine ⟨t0, v, u, run.trans hu, addressed, shadow ▸ hrep, hadv, fun j hj => ?_, fun j hj => ?_⟩
  · rw [stored]
    exact Mem.byte_store_word wf _ _ _ _ hj
  · rw [stored]
    exact Mem.byte_store_of_outside _ _ hj

end Sys2Proof.Machine
end

section
/-!
PROOF. One access of a Type 1 instruction: its words, and what it does with them.
-/
namespace Sys2Proof.Machine

variable {s t u v w : State} {l k : Loc}

/-! ### The words of an access -/

/-- The words of an access of data register `d` of element `y`, each with its register: the word at `l`; in a broadcast load
(`same`) that word for the complement too; with an implicit transfer the word at `k` for the complement. -/
def sideWords (y same implicit : Bool) (d : Reg) (l k : Loc) : List (UReg × Loc) :=
  (UReg.ofDreg y d, l) ::
    (if same then [(UReg.ofDreg (!y) d, l)] else if implicit then [(UReg.ofDreg (!y) d, k)] else [])

theorem State.dualWords_eq (s : State) (pm same : Bool) (d : Reg) (l k : Loc) :
    s.dualWords pm same d l k = sideWords (pm && (s.simd && !l.narrow)) same (s.simd && l.narrow) d l k := by
  unfold State.dualWords sideWords
  cases s.simd <;> cases pm <;> cases l.narrow <;> rfl

/-- An implicit word is as wide as the explicit one. -/
theorem State.implicitLoc_width (h : s.implicitLoc l = .ok k) : k.width = l.width := by
  have kept : Run.Sat (s.implicitLoc l) fun k => k.width = l.width := by
    unfold State.implicitLoc
    dsimp only
    split
    · exact Run.sat_ite (fun _ => Run.sat_ite (fun _ => Run.sat_ok rfl) fun _ => Run.sat_error)
        fun _ => Run.sat_ite (fun _ => Run.sat_ok rfl) fun _ => Run.sat_error
    · exact Run.sat_ite (fun _ => Run.sat_ok rfl) fun _ => Run.sat_error
    · exact Run.sat_ite (fun _ => Run.sat_ok rfl) fun _ => Run.sat_error
  exact kept k h

/-! ### A word stored, a word noted -/

theorem State.noteExt_touched (t : State) (l : Loc) : Touched False t (t.noteExt l) := by
  rw [t.noteExt_rest l]
  exact ⟨rfl, fun _ => rfl⟩

theorem State.withWord_touched (t : State) (l : Loc) (x : W64) :
    MemTouched False (t.mem.store l.bytes.1 l.bytes.2 x.toNat) t (t.withWord l x) := by
  unfold State.withWord
  rw [t.noteExt_rest l]
  exact ⟨rfl, fun _ => rfl⟩

/-- `u` is `t` with the registers of `ws` stored, which left marks in the shadow write FIFO. -/
structure State.Stores (s : State) (ws : List (UReg × Loc)) (t u : State) : Prop where
  touched : MemTouched False (s.storedWords t.mem ws) t u
  marks : ∀ x ∈ u.shadow1, x ∈ t.shadow1 ∨ ∃ w ∈ ws, x ∈ w.2.marks

theorem State.Stores.one (s t : State) (r : UReg) (l : Loc) :
    s.Stores [(r, l)] t (t.withWord l (s.regWord r l.width)) where
  touched := t.withWord_touched l _
  marks _ hx := (List.mem_append.1 hx).symm.imp_right fun hx => ⟨_, List.mem_singleton_self _, hx⟩

theorem State.Stores.two (s t : State) (r q : UReg) (l k : Loc) :
    s.Stores [(r, l), (q, k)] t
      (((t.withWord l (s.regWord r l.width))).sameAccess
        ((t.withWord l (s.regWord r l.width)).withWord k (s.regWord q k.width))) where
  touched := ((t.withWord_touched l _).trans (State.withWord_touched _ k _)).touched ((Touched.refl _).sameAccess _)
  marks x hx := by
    rcases List.mem_append.1 hx with hx | hx
    · exact .inr ⟨(q, k), by simp, hx⟩
    · rcases List.mem_append.1 hx with hx | hx
      · exact .inr ⟨(r, l), by simp, hx⟩
      · exact .inl hx

/-! ### The access -/

/-- One access of a Type 1 instruction: of data register `d` of element `y`, at address `addr` with the word `loc`, and `next`
that of an implicit transfer. -/
structure Side where
  write : Bool
  pm : Bool
  i : DagNum
  m : DagNum
  d : Reg
  y : Bool
  addr : W32
  loc : Loc
  next : Loc

namespace Side

variable {c : Side}

def reg (c : Side) : UReg := UReg.ofDreg c.y c.d

def move (c : Side) : MemMove := sideMove c.write c.pm c.i c.m c.reg

/-- The words of the access. -/
def words (c : Side) (s : State) : List (UReg × Loc) :=
  sideWords c.y (c.move.broadcast s.reg.mode1) (s.simd && c.loc.narrow) c.d c.loc c.next

/-- Memory after the access. -/
def after (c : Side) (s : State) (m : Mem) : Mem := if c.write then s.storedWords m (c.words s) else m

/-- What the access gives to the registers. -/
def loads (c : Side) (s : State) (m : Mem) : List Loaded := if c.write then [] else loadedWords m (c.words s)

/-- The access reaches its words. -/
structure Ready (c : Side) (s : State) : Prop where
  address : s.address c.move.mode = .ok c.addr
  locate : s.locate c.addr false false = .ok c.loc
  implicit : (s.simd && c.loc.narrow) = true → c.move.broadcast s.reg.mode1 = false → s.implicitLoc c.loc = .ok c.next
  reach : ∀ w ∈ c.words s, s.Reachable w.2 (!c.write)

theorem Ready.reach_loc (hc : c.Ready s) : s.Reachable c.loc (!c.write) := hc.reach _ (List.mem_cons_self ..)

theorem broadcast_of_write (hw : c.write = true) (s : State) : c.move.broadcast s.reg.mode1 = false := by
  simp [move, sideMove, hw, MemMove.broadcast]

theorem broadcast_of_read (hw : c.write = false) (s : State) :
    c.move.broadcast s.reg.mode1 = broadcastBy s.reg.mode1 c.reg c.move.mode := by
  simp [move, sideMove, hw, MemMove.broadcast]

theorem words_alone (hb : c.move.broadcast s.reg.mode1 = false) (hn : (s.simd && c.loc.narrow) = false) :
    c.words s = [(c.reg, c.loc)] := by
  simp [words, sideWords, hb, hn, reg]

theorem words_implicit (hb : c.move.broadcast s.reg.mode1 = false) (hn : (s.simd && c.loc.narrow) = true) :
    c.words s = [(c.reg, c.loc), (UReg.ofDreg (!c.y) c.d, c.next)] := by
  simp [words, sideWords, hb, hn, reg]

theorem words_broadcast (hb : c.move.broadcast s.reg.mode1 = true) :
    c.words s = [(c.reg, c.loc), (UReg.ofDreg (!c.y) c.d, c.loc)] := by
  simp [words, sideWords, hb, reg]

theorem not_selfTransfer (c : Side) : c.move.selfTransfer = false := by
  obtain ⟨w, p, i, m, d, y, a, l, k⟩ := c
  cases w <;> cases y <;> rfl

/-- An access that is explicit where its word is wide moves a narrow word implicitly in SIMD mode, and no other. -/
theorem implicit_iff (s : State) (l : Loc) :
    (s.simd && everyPe.y && !(s.simd && !l.narrow) && (l.width == 16 || l.width == 32)) = (s.simd && l.narrow) := by
  show (s.simd && true && !(s.simd && !l.narrow) && l.narrow) = _
  cases s.simd <;> cases l.narrow <;> rfl

theorem implicitDatum_eq (s : State) (d : Datum) (l : Loc) :
    s.implicitDatum d l everyPe (s.simd && !l.narrow) = if s.simd && l.narrow then d.comp else none := by
  rw [State.implicitDatum, implicit_iff]

theorem implicitReg_eq (s : State) (r : UReg) (l : Loc) :
    s.implicitReg r l everyPe (s.simd && !l.narrow) = if s.simd && l.narrow then r.comp else none := by
  rw [State.implicitReg, implicit_iff]

theorem Ready.store (hc : c.Ready s) (h : s.Calm) (hw : c.write = true) (t : State) :
    ∃ u, s.store t (.reg c.reg) c.addr false everyPe (s.simd && !c.loc.narrow) = .ok u ∧ s.Stores (c.words s) t u := by
  have alone := c.broadcast_of_write hw s
  have px : (Datum.reg c.reg).isPx = false := by unfold reg; cases c.y <;> rfl
  have pairs : (Datum.reg c.reg).pairs = true := by unfold reg; cases c.y <;> rfl
  have ready (y : Bool) (wd : Nat) : s.datumReady (.reg (UReg.ofDreg y c.d)) wd = .ok () :=
    h.datumReady (by cases y <;> exact nofun) wd
  have comp : (Datum.reg c.reg).comp = some (.reg (UReg.ofDreg (!c.y) c.d)) := by
    simp [Datum.comp, reg, UReg.comp_ofDreg]
  have reach : ∀ w ∈ c.words s, s.Reachable w.2 false := by simpa [hw] using hc.reach
  have first : s.Reachable c.loc false := reach _ (List.mem_cons_self ..)
  have explicit : s.datumReady (.reg c.reg) c.loc.width = .ok () := ready c.y _
  have gate : everyPe.x = true := rfl
  simp only [State.store, px, hc.locate, Run.ok_bind, first.isReg, Bool.false_eq_true, if_false, pairs, Bool.or_true,
    need_true, gate, if_true, explicit, h.1.1.writeWord_eq first, implicitDatum_eq]
  cases hn : s.simd && c.loc.narrow with
  | false =>
    rw [words_alone alone hn]
    refine ⟨_, ?_, .one s t c.reg c.loc⟩
    simp only [Bool.false_eq_true, if_false, first.send] <;> rfl
  | true =>
    rw [words_implicit alone hn] at reach ⊢
    have implicit := hc.implicit hn alone
    have second : s.Reachable c.next false := reach _ (List.mem_pair.2 (.inr rfl))
    refine ⟨_, ?_, .two s t c.reg _ c.loc c.next⟩
    simp only [if_true, comp, ready, implicit, h.1.1.writeWord_eq second, Run.ok_bind, first.send,
      State.implicitLoc_width implicit] <;> rfl

theorem Ready.load (hc : c.Ready s) (h : s.Settled) (hw : c.write = false) {t : State}
    (ht : ∀ w ∈ c.words s, ∀ f, w.2.place = .cells f → shadowed t.shadow1 f (w.2.width / 16) (w.2.width == 48) = false)
    (site : Nat) :
    ∃ u, s.load t c.reg c.addr false (c.move.broadcast s.reg.mode1) everyPe (s.simd && !c.loc.narrow) site =
      .ok (loadedWords t.mem (c.words s), u) ∧ Touched False t u := by
  have px : (c.reg == UReg.px) = false := by unfold reg; cases c.y <;> rfl
  have pairs : c.reg.pair?.isSome = true := by unfold reg; cases c.y <;> rfl
  have gates : s.broadcastGate c.reg everyPe = (true, true) := by unfold reg; cases c.y <;> simp [State.broadcastGate, everyPe]
  have comp : c.reg.comp = some (UReg.ofDreg (!c.y) c.d) := UReg.comp_ofDreg _ _
  have writable (wd : Nat) : (regsOf c.reg wd).forM s.mayWrite = .ok () := h.mayWrite_regsOf c.y c.d wd
  have reach : ∀ w ∈ c.words s, s.Reachable w.2 true := by simpa [hw] using hc.reach
  have first : s.Reachable c.loc true := reach _ (List.mem_cons_self ..)
  have read := h.readWord_eq first (ht _ (List.mem_cons_self ..)) site
  have gate : everyPe.x = true := rfl
  have noted := t.noteExt_touched c.loc
  simp only [State.load, px, hc.locate, Run.ok_bind, first.isReg, Bool.false_eq_true, if_false, pairs, Bool.or_true,
    need_true, h.useMode1, ite_self]
  cases hb : c.move.broadcast s.reg.mode1 with
  | true =>
    rw [words_broadcast hb]
    refine ⟨_, ?_, noted⟩
    have both : loadedBy c.reg c.loc.width (c.loc.word t.mem) (true, true) =
        loadedWords t.mem [(c.reg, c.loc), (UReg.ofDreg (!c.y) c.d, c.loc)] := by
      simp [loadedBy, comp, loadedWords, Loc.word]
    have ready : (loadedWords t.mem [(c.reg, c.loc), (UReg.ofDreg (!c.y) c.d, c.loc)]).forM
        (fun x => (regsOf x.u c.loc.width).forM s.mayWrite) = .ok () := by
      refine forM_ok fun x hx => ?_
      obtain ⟨w, hw, rfl⟩ := List.mem_map.1 hx
      rcases List.mem_pair.1 hw with rfl | rfl
      · exact writable _
      · exact h.mayWrite_regsOf _ _ _
    simp only [if_true, gates, State.loadBoth, read, both, ready, Run.ok_bind]
  | false =>
    simp only [Bool.false_eq_true, if_false, State.loadEach, gate, if_true, writable, read, Run.ok_bind, implicitReg_eq]
    cases hn : s.simd && c.loc.narrow with
    | false =>
      rw [words_alone hb hn]
      exact ⟨_, rfl, noted⟩
    | true =>
      rw [words_implicit hb hn] at reach ht ⊢
      have implicit := hc.implicit hn hb
      have width := State.implicitLoc_width implicit
      have ready : s.mayWrite (UReg.ofDreg (!c.y) c.d) = .ok () := h.mayWrite _ (by cases c.y <;> rfl)
      have second : s.Reachable c.next true := reach _ (List.mem_pair.2 (.inr rfl))
      have read2 := h.readWord_eq (t := t.noteExt c.loc) second
        (by rw [noted.shadow1]; exact ht _ (List.mem_pair.2 (.inr rfl))) (site + 1)
      have loads : loadedWords t.mem [(c.reg, c.loc), (UReg.ofDreg (!c.y) c.d, c.next)] =
          [⟨c.reg, c.loc.width, c.loc.word t.mem⟩] ++
            [⟨UReg.ofDreg (!c.y) c.d, c.loc.width, c.next.word t.mem⟩] := by
        simp [loadedWords, Loc.word, width]
      refine ⟨_, ?_, (noted.trans (State.noteExt_touched _ c.next)).sameAccess (t.noteExt c.loc)⟩
      simp only [if_true, comp, ready, implicit, read2, Run.ok_bind, noted.mem, loads]

/-- The access whole, with its index update. -/
theorem Ready.memMove (hc : c.Ready s) (h : s.Calm) (hm : s.ModeOk c.move.mode) {t : State}
    (ht : c.write = false →
      ∀ w ∈ c.words s, ∀ f, w.2.place = .cells f → shadowed t.shadow1 f (w.2.width / 16) (w.2.width == 48) = false)
    (site : Nat) :
    ∃ u, s.memMove t c.move everyPe (s.simd && !c.loc.narrow) site =
        .ok (c.loads s t.mem, s.postModified u c.move.mode) ∧ MemTouched False (c.after s t.mem) t u ∧
      ∀ x ∈ u.shadow1, x ∈ t.shadow1 ∨ c.write = true ∧ ∃ w ∈ c.words s, x ∈ w.2.marks := by
  obtain ⟨k, f, -, move⟩ := h.1.1.memMove_open hc.address c.not_selfTransfer (g := everyPe) rfl (gateOk_everyPe _) t
    (s.simd && !c.loc.narrow) site
  have cached : Touched False t (t.withCache k f) := (Touched.refl t).withCache k f
  rw [move]
  cases hw : c.write with
  | true =>
    obtain ⟨u, hu, touched, marks⟩ := hc.store h hw (t.withCache k f)
    have op : c.move.op = .store (.reg c.reg) := by simp [Side.move, sideMove, hw]
    refine ⟨u, ?_, ?_, fun x hx => (marks x hx).imp_right fun hx => ⟨rfl, hx⟩⟩
    · have lw : c.move.lw = false := rfl
      simp only [op, lw, hu, Run.ok_bind, h.1.1.postModify hm, loads, hw, if_true]
    · simp only [after, hw, if_true]
      exact (MemTouched.of_touched cached).trans touched
  | false =>
    obtain ⟨u, hu, touched⟩ := hc.load h.1.1 hw (t := t.withCache k f) (ht hw) site
    have op : c.move.op = .load c.reg := by simp [Side.move, sideMove, hw]
    refine ⟨u, ?_, ?_, fun x hx => .inl (by rwa [touched.shadow1] at hx)⟩
    · have lw : c.move.lw = false := rfl
      rw [broadcast_of_read hw] at hu
      simp only [op, lw, hu, Run.ok_bind, h.1.1.postModify hm, loads, hw, Bool.false_eq_true, if_false] <;> rfl
    · simp only [after, hw, Bool.false_eq_true, if_false]
      exact MemTouched.of_touched (cached.trans touched)

/-! ### Words that meet -/

/-- Some word of one access shares a location with one of the other. -/
def Meet (c d : Side) (s : State) : Prop := ∃ v ∈ c.words s, ∃ w ∈ d.words s, v.2.overlaps w.2 = true

/-- Words of access `d` that share a location with one that `c` has stored are of its width class (20_memory.md R184). -/
def WidthsAgree (c d : Side) (s : State) : Prop :=
  c.write = true → ∀ v ∈ c.words s, ∀ w ∈ d.words s, v.2.overlaps w.2 = true → (v.2.width = 48 ↔ w.2.width = 48)

/-- The words that a store covers. -/
theorem Ready.covered (hc : c.Ready s) (hw : c.write = true) : s.covered c.loc = .ok ((c.words s).map Prod.snd) := by
  have alone := c.broadcast_of_write hw s
  unfold State.covered
  rw [hc.reach_loc.isReg, Bool.not_false, Bool.and_true]
  cases hn : s.simd && c.loc.narrow with
  | false =>
    rw [words_alone alone hn]
    rfl
  | true =>
    rw [words_implicit alone hn]
    simp only [if_true, hc.implicit hn alone, Run.ok_bind]
    rfl

theorem any_overlaps_iff (c d : Side) (s : State) :
    (((c.words s).map Prod.snd).any fun x => ((d.words s).map Prod.snd).any x.overlaps) = true ↔ Meet c d s := by
  simp [Meet]

/-- The second access of an instruction may read after the first: what this one has stored is no word of the other width that
the second reads. -/
theorem clear_of_widths {d : Side} (hx : ∀ x ∈ t.shadow1, c.write = true ∧ ∃ w ∈ c.words s, x ∈ w.2.marks)
    (hw : WidthsAgree c d s) :
    ∀ w ∈ d.words s, ∀ f, w.2.place = .cells f → shadowed t.shadow1 f (w.2.width / 16) (w.2.width == 48) = false := by
  intro w hwd f hf
  refine List.any_eq_false.2 fun x hxt => ?_
  obtain ⟨write, v, hv, mark⟩ := hx x hxt
  unfold Loc.marks at mark
  split at mark
  · next g hg =>
    obtain rfl := List.mem_singleton.1 mark
    intro both
    obtain ⟨differ, meet⟩ := Bool.and_eq_true_iff.1 both
    have same := hw write v hv w hwd ((Loc.overlaps_cells hg hf).trans meet)
    simp [same] at differ
  · cases mark

end Side

end Sys2Proof.Machine
end

section
/-!
PROOF. DualMoveCompletes: the two accesses of a Type 1 instruction together, to the end of the instruction.
-/
namespace Sys2Proof.Machine

variable {s t u v w : State} {l k : Loc} {c d : Side}

/-! ### What the accesses and their reports leave alone -/

/-- From `t` to `u` the elements, their flags, MODE1 and the window are the same. -/
structure SameElements (t u : State) : Prop where
  x : u.x = t.x
  y : u.y = t.y
  mode1 : u.reg.mode1 = t.reg.mode1
  astatx : u.reg.astatx = t.reg.astatx
  astaty : u.reg.astaty = t.reg.astaty
  daddr : u.seq.daddr = t.seq.daddr
  faddr : u.seq.faddr = t.seq.faddr

namespace SameElements

theorem trans (h : SameElements t u) (g : SameElements u v) : SameElements t v :=
  ⟨g.1.trans h.1, g.2.trans h.2, g.3.trans h.3, g.4.trans h.4, g.5.trans h.5, g.6.trans h.6, g.7.trans h.7⟩

theorem of_touched {p : Prop} (h : Touched p t u) : SameElements t u := by
  constructor <;> rw [h.rest]

theorem of_memTouched {p : Prop} {m : Mem} (h : MemTouched p m t u) : SameElements t u := by
  constructor <;> rw [Touched.rest h]

theorem postModified (h : SameElements t u) (s : State) (m : AddrMode) : SameElements t (s.postModified u m) := by
  refine h.trans ?_
  have rest := s.postModified_rest u m
  generalize s.postModified u m = w at *
  constructor <;> rw [rest]

end SameElements

/-! ### The index registers -/

theorem dagNumber_bank (b : Bool) (i : DagNum) : (dagNumber b i).getLsbD 3 = b := by
  show (BitVec.ofBool b ++ i).getLsbD 3 = b
  rw [BitVec.getLsbD_append]
  cases b <;> rfl

/-- The index update of the DM access is one of I0 to I7, that of the PM access one of I8 to I15. -/
theorem State.dagReg_postModified_sides (hc : c.pm = false) (hd : d.pm = true)
    (ht : ∀ j n, t.dagReg j n = s.dagAfter c.move.mode j n) (j : DagKind) (n : Reg) :
    (s.postModified t d.move.mode).dagReg j n =
      if n.getLsbD 3 then s.dagAfter d.move.mode j n else s.dagAfter c.move.mode j n := by
  have after : (s.postModified t d.move.mode).dagReg j n = if j = .i ∧ n = dagNumber d.pm d.i
      then s.indexAfter (dagNumber d.pm d.i) (s.modifier (.reg (dagNumber d.pm d.m))) false
      else s.dagAfter c.move.mode j n := by
    rw [← ht]
    simp [Side.move, sideMove, State.postModified, State.dagReg_setDagReg, and_comm]
  rw [after]
  cases hb : n.getLsbD 3 with
  | false =>
    have other : n ≠ dagNumber d.pm d.i := by
      rintro rfl
      rw [dagNumber_bank, hd] at hb
      cases hb
    simp [other]
  | true =>
    have other : n ≠ dagNumber c.pm c.i := by
      rintro rfl
      rw [dagNumber_bank, hc] at hb
      cases hb
    simp [Side.move, sideMove, State.dagAfter, other]

/-! ### Both accesses -/

namespace Side

theorem words_dregs (c : Side) (s : State) : ∀ w ∈ c.words s, ∃ y n, w.1 = UReg.ofDreg y n := by
  intro w hw
  rcases List.mem_cons.1 hw with rfl | hw
  · exact ⟨_, _, rfl⟩
  · split at hw
    · rw [List.mem_singleton.1 hw]
      exact ⟨_, _, rfl⟩
    · split at hw
      · rw [List.mem_singleton.1 hw]
        exact ⟨_, _, rfl⟩
      · cases hw

theorem loads_dregs (c : Side) (s : State) (m : Mem) : ∀ x ∈ c.loads s m, ∃ y n, x.u = UReg.ofDreg y n := by
  intro x hx
  unfold loads at hx
  split at hx
  · cases hx
  · obtain ⟨w, hw, rfl⟩ := List.mem_map.1 hx
    exact c.words_dregs s w hw

/-- The two accesses, the DM one first. -/
theorem Ready.memMoves (hc : c.Ready s) (hd : d.Ready s) (h : s.Calm) (hcp : c.pm = false) (hdp : d.pm = true)
    (hcm : s.ModeOk c.move.mode) (hdm : s.ModeOk d.move.mode)
    (hw : WidthsAgree c d s)
    (hdag : ∀ j n, t.dagReg j n = s.dagReg j n) (ht : t.shadow1 = []) :
    ∃ t1 t2, s.memMove t c.move everyPe (s.simd && !c.loc.narrow) 4 = .ok (c.loads s t.mem, t1) ∧
      s.memMove t1 d.move everyPe (s.simd && !d.loc.narrow) 6 = .ok (d.loads s (c.after s t.mem), t2) ∧
      SameElements t t2 ∧ t2.mem = d.after s (c.after s t.mem) ∧
      ∀ j n, t2.dagReg j n = if n.getLsbD 3 then s.dagAfter d.move.mode j n else s.dagAfter c.move.mode j n := by
  obtain ⟨u1, move1, touched1, marks1⟩ := hc.memMove h hcm (t := t) (fun _ _ _ _ _ => by rw [ht]; rfl) 4
  have acc1 := touched1.accessed hdag c.move.mode
  have elems1 := (SameElements.of_memTouched touched1).postModified s c.move.mode
  have shadow : (s.postModified u1 c.move.mode).shadow1 = u1.shadow1 := by rw [s.postModified_rest]
  generalize s.postModified u1 c.move.mode = t1 at *
  have clear := clear_of_widths (t := t1) (d := d)
    (fun x hx => (marks1 x (shadow ▸ hx)).resolve_left (by rw [ht]; exact List.not_mem_nil)) hw
  obtain ⟨u2, move2, touched2, -⟩ := hd.memMove h hdm (fun _ => clear) 6
  have dag2 (j : DagKind) (n : Reg) : u2.dagReg j n = s.dagAfter c.move.mode j n := by
    rw [Touched.rest touched2]
    exact acc1.dagReg j n
  rw [acc1.mem] at move2 touched2
  refine ⟨t1, _, move1, move2, elems1.trans ((SameElements.of_memTouched touched2).postModified s _), ?_,
    State.dagReg_postModified_sides hcp hdp dag2⟩
  rw [s.postModified_mem, touched2.mem]

end Side

/-! ### The instruction -/

/-- The two moves of a Type 1 instruction once nothing stands in their way. -/
def State.twoMoves (s t : State) (m1 m2 : MemMove) (e : Bool) : Run State := do
  let (xs, t1) ← s.memMove t m1 everyPe e 4
  let (ys, t2) ← s.memMove t1 m2 everyPe e 6
  let t3 ← t2.putAll s.reg.mode1 (ys ++ xs)
  let t4 ← s.report t3 m1 everyPe
  s.report t4 m2 everyPe

/-- Both accesses with what they load and report. -/
theorem Side.Ready.twoMoves (hc : c.Ready s) (hd : d.Ready s) (h : s.Calm) (hcp : c.pm = false) (hdp : d.pm = true)
    (hcm : s.ModeOk c.move.mode) (hdm : s.ModeOk d.move.mode)
    (hw : Side.WidthsAgree c d s)
    {e : Bool} (hce : e = (s.simd && !c.loc.narrow)) (hde : e = (s.simd && !d.loc.narrow))
    (hdag : ∀ j n, t.dagReg j n = s.dagReg j n) (ht : t.shadow1 = []) :
    ∃ q u, t.putAll s.reg.mode1 (d.loads s (c.after s t.mem) ++ c.loads s t.mem) = .ok q ∧
      s.twoMoves t c.move d.move e = .ok u ∧ SameElements { t with x := q.x, y := q.y } u ∧
      u.mem = d.after s (c.after s t.mem) ∧
      ∀ j n, u.dagReg j n = if n.getLsbD 3 then s.dagAfter d.move.mode j n else s.dagAfter c.move.mode j n := by
  obtain ⟨t1, t2, move1, move2, elems, mem, dag⟩ := hc.memMoves hd h hcp hdp hcm hdm hw hdag ht
  have dregs : ∀ x ∈ d.loads s (c.after s t.mem) ++ c.loads s t.mem, ∃ y n, x.u = UReg.ofDreg y n := fun x hx =>
    (List.mem_append.1 hx).elim (d.loads_dregs s _ x) (c.loads_dregs s _ x)
  obtain ⟨q, t3, hq, put, rest, -⟩ := putAll_dregs s.reg.mode1 dregs elems.x elems.y elems.mode1
  obtain ⟨t4, report1⟩ := h.1.1.report hc.address t3
  obtain ⟨t5, report2⟩ := h.1.1.report hd.address t4
  have reported : Touched False t3 t5 := (s.report_touched t3 _ _ _ report1).trans (s.report_touched t4 _ _ _ report2)
  have same := SameOperands.of_touched reported
  have loaded : SameElements { t with x := q.x, y := q.y } t3 := by
    rw [rest]
    exact ⟨rfl, rfl, elems.mode1, elems.astatx, elems.astaty, elems.daddr, elems.faddr⟩
  refine ⟨q, t5, hq, ?_, loaded.trans (.of_touched reported), ?_, fun j n => ?_⟩
  · subst hce
    rw [← hde] at move2
    simp only [State.twoMoves, move1, move2, put, report1, report2, Run.ok_bind]
  · rw [same.mem, rest]
    exact mem
  · rw [same.dagReg, rest]
    exact dag j n

/-- The DM access of a Type 1 instruction. -/
def dmSide (w : Bool) (i m : DagNum) (d : Reg) (a : W32) (l k : Loc) : Side := ⟨w, false, i, m, d, false, a, l, k⟩

/-- The PM access of a Type 1 instruction, of an S register when `y`. -/
def pmSide (y w : Bool) (i m : DagNum) (d : Reg) (a : W32) (l k : Loc) : Side := ⟨w, true, i, m, d, y, a, l, k⟩

theorem sideMove_broadcast (w p : Bool) (i m : DagNum) (y : Bool) (d : Reg) (mode1 : W32) :
    (sideMove w p i m (UReg.ofDreg y d)).broadcast mode1 = (sideMove w p i m (.r d)).broadcast mode1 := by
  cases w <;> cases y <;> rfl

theorem words_dmSide (s : State) (w : Bool) (i m : DagNum) (d : Reg) (a : W32) (l k : Loc) :
    (dmSide w i m d a l k).words s = s.dualWords false ((sideMove w false i m (.r d)).broadcast s.reg.mode1) d l k := by
  rw [s.dualWords_eq]
  rfl

theorem words_pmSide (s : State) (w : Bool) (i m : DagNum) (d : Reg) (a : W32) (l k : Loc) :
    (pmSide (s.simd && !l.narrow) w i m d a l k).words s =
      s.dualWords true ((sideMove w true i m (.r d)).broadcast s.reg.mode1) d l k := by
  rw [s.dualWords_eq, ← sideMove_broadcast w true i m (s.simd && !l.narrow) d, Bool.true_and]
  rfl

/-- The words that two stores cover do not meet. -/
def State.storesApart (s : State) (l1 l2 : Loc) : Run Unit := do
  let w1 ← s.covered l1
  let w2 ← s.covered l2
  need (!(w1.any fun x => w2.any x.overlaps)) .dualAccessConflict

theorem State.Calm.exec_dualMove (h : s.Calm) {w1 w2 : Bool} {i1 m1 i2 m2 : DagNum} {d1 d2 : Reg} {k : Compute}
    (hk : k.dualClash = false) {a1 a2 : W32} {l1 l2 : Loc} (k1 k2 : Loc)
    (ha1 : s.address (sideMove w1 false i1 m1 (.r d1)).mode = .ok a1) (hl1 : s.locate a1 false false = .ok l1)
    (ha2 : s.address (sideMove w2 true i2 m2 (.r d2)).mode = .ok a2) (hl2 : s.locate a2 false false = .ok l2) :
    exec (.dualMove w1 i1 m1 d1 w2 i2 m2 d2 k) s = outcome s ((do
      need (!s.simd || l1.narrow == l2.narrow) .dualAccessConflict
      (if w1 && w2 then s.storesApart l1 l2 else .ok ())
      s.twoMoves (s.runPes s.begun (computePe k) true s.simd) (dmSide w1 i1 m1 d1 a1 l1 k1).move
        (pmSide (s.simd && !l1.narrow) w2 i2 m2 d2 a2 l2 k2).move (s.simd && !l1.narrow)) >>= s.advance) := by
  show execDualMove w1 i1 m1 d1 w2 i2 m2 d2 k s = _
  simp only [execDualMove, h.1.begin.1, h.1.computePart k _ hk, Run.ok_bind, State.dualAccess, h.1.1.useMode1, ha1, hl1, ha2,
    hl2]
  congr 2
  cases w1 with
  | false => rfl
  | true =>
    cases w2 with
    | false => rfl
    | true =>
      simp only [State.storesApart, Bool.and_self, if_true, bind_assoc]
      rfl

theorem Side.Ready.storesApart (hc : c.Ready s) (hd : d.Ready s) (hcw : c.write = true) (hdw : d.write = true) :
    (Side.Meet c d s → s.storesApart c.loc d.loc = .error (.fault .dualAccessConflict)) ∧
    (¬ Side.Meet c d s → s.storesApart c.loc d.loc = .ok ()) := by
  have meets := Side.any_overlaps_iff c d s
  simp only [State.storesApart, hc.covered hcw, hd.covered hdw, Run.ok_bind]
  refine ⟨fun hm => ?_, fun hm => ?_⟩
  · rw [meets.2 hm]
    rfl
  · rw [Bool.eq_false_iff.2 (mt meets.1 hm)]
    rfl

/-- Settles O46: the two words are told apart, both accesses are made, and the registers loaded and the reports follow. -/
theorem dualMoveCompletes : Obligations.DualMoveCompletes := by
  intro w1 w2 i1 m1 i2 m2 d1 d2 k s a1 a2 l1 k1 l2 k2 i c1 c2 b1 b2 ws1 ws2 h hk ha1 hl1 ha2 hl2
  have run := h.exec_dualMove hk k1 k2 ha1 hl1 ha2 hl2
  refine ⟨fun hs hn => ?_, fun hn himp hr1 hr2 => ?_⟩
  · have differ : (!s.simd || l1.narrow == l2.narrow) = false := by simp [hs, hn]
    rw [run, differ]
    rfl
  have same : (!s.simd || l1.narrow == l2.narrow) = true := by
    cases hs : s.simd with
    | false => rfl
    | true => simp [hn hs]
  have explicit : (s.simd && !l1.narrow) = (s.simd && !l2.narrow) := by
    cases hs : s.simd with
    | false => rfl
    | true => rw [hn hs]
  have words1 : (dmSide w1 i1 m1 d1 a1 l1 k1).words s = ws1 := words_dmSide s w1 i1 m1 d1 a1 l1 k1
  have words2 : (pmSide (s.simd && !l2.narrow) w2 i2 m2 d2 a2 l2 k2).words s = ws2 := words_pmSide s w2 i2 m2 d2 a2 l2 k2
  have ready1 : (dmSide w1 i1 m1 d1 a1 l1 k1).Ready s :=
    ⟨ha1, hl1, fun hsn hb => by
      obtain ⟨hs, narrow⟩ := Bool.and_eq_true_iff.1 hsn
      exact (himp hs narrow).1 hb, words1 ▸ hr1⟩
  have ready2 : (pmSide (s.simd && !l2.narrow) w2 i2 m2 d2 a2 l2 k2).Ready s :=
    ⟨ha2, hl2, fun hsn hb => by
      obtain ⟨hs, narrow⟩ := Bool.and_eq_true_iff.1 hsn
      exact (himp hs ((hn hs).trans narrow)).2 ((sideMove_broadcast ..).symm.trans hb), words2 ▸ hr2⟩
  rw [same, explicit, need_true, Run.ok_bind] at run
  refine ⟨fun hw1 hw2 meet => ?_, fun hm1 hm2 apart widths => ?_⟩
  · have stop := (ready1.storesApart ready2 hw1 hw2).1 (by rwa [Side.Meet, words1, words2])
    rw [run, if_pos (Bool.and_eq_true_iff.2 ⟨hw1, hw2⟩)]
    show outcome s ((s.storesApart l1 l2 >>= _) >>= _) = _
    rw [show s.storesApart l1 l2 = _ from stop]
    rfl
  · have go : (if (w1 && w2) = true then s.storesApart l1 l2 else .ok ()) = .ok () := by
      split
      · next both =>
        obtain ⟨hw1, hw2⟩ := Bool.and_eq_true_iff.1 both
        exact (ready1.storesApart ready2 hw1 hw2).2 (by rw [Side.Meet, words1, words2]; exact apart hw1 hw2)
      · rfl
    obtain ⟨pmem, pshadow, pmode, pseq, pdag⟩ := h.1.computed (computePe k) true s.simd
    obtain ⟨q, u, hq, moves, elems, mem, dag⟩ := ready1.twoMoves ready2 h rfl rfl hm1 hm2
      (by rw [Side.WidthsAgree, words1, words2]; exact widths) explicit.symm rfl pdag pshadow
    obtain ⟨v, hv, hadv⟩ := h.1.ends_of_fetchesLike
      ⟨elems.daddr.trans (by rw [← h.1.begun_daddr, ← pseq]), elems.faddr.trans (by rw [← h.1.begun_faddr, ← pseq])⟩
    have final := SameOperands.of_advanced hadv
    have regs : v.reg = u.reg := by rw [hadv.1]
    rw [go, Run.ok_bind, moves, Run.ok_bind, hv] at run
    simp only [Side.loads, Side.after, words1, words2, pmem] at hq mem
    refine ⟨q, v, run, hq, final.x.trans elems.x, final.y.trans elems.y, final.mem.trans mem,
      fun j n => (final.dagReg j n).trans (dag j n), ?_, ?_, ?_, hadv.2⟩
    · rw [regs, elems.astatx]
    · rw [regs, elems.astaty]
    · rw [regs, elems.mode1, pmode]

end Sys2Proof.Machine
end

section
/-!
PROOF. Branches: what their stack operations leave of the fetch pipeline, the window of a taken branch, and a branch with its
compute, taken and not taken (41_program_flow.md R300 to R306, R310 to R316).
-/
namespace Sys2Proof.Machine

variable {s t u : State}

/-! ### The fetch pipeline and the delay slots -/

/-- The fetch pipeline behind PC and the count of delay slots are the same. -/
structure SamePipe (q r : Sequencer) : Prop where
  daddr : r.daddr = q.daddr
  faddr : r.faddr = q.faddr
  dbSlots : r.dbSlots = q.dbSlots

theorem SamePipe.refl (q : Sequencer) : SamePipe q q := ⟨rfl, rfl, rfl⟩

theorem SamePipe.trans {q r x : Sequencer} (h : SamePipe q r) (g : SamePipe r x) : SamePipe q x :=
  ⟨g.1.trans h.1, g.2.trans h.2, g.3.trans h.3⟩

theorem SamePipe.of_eq {q r : Sequencer} (h : r = q) : SamePipe q r := h ▸ .refl q

theorem State.popPc_pipe : Run.Sat s.popPc fun u => SamePipe s.seq u.seq := fun u hu => by
  obtain ⟨-, -, rfl⟩ := State.popPc_eq_ok.1 hu
  exact ⟨rfl, rfl, rfl⟩

theorem State.popLoop_pipe : Run.Sat s.popLoop fun u => SamePipe s.seq u.seq := fun u hu => by
  obtain ⟨-, -, rfl⟩ := State.popLoop_eq_ok.1 hu
  exact ⟨rfl, rfl, rfl⟩

theorem State.popSts_pipe : Run.Sat s.popSts fun u => SamePipe s.seq u.seq := fun u hu => by
  obtain ⟨-, e, rest, -, rfl⟩ := State.popSts_eq_ok.1 hu
  exact ⟨rfl, rfl, rfl⟩

theorem State.abortLoop_pipe (a : W24) : Run.Sat (s.abortLoop a) fun u => SamePipe s.seq u.seq :=
  Run.sat_bind State.popLoop_pipe fun _ hv => Run.sat_bind State.popPc_pipe fun _ hw =>
    Run.sat_seq fun _ => Run.sat_ok (hv.trans hw)

theorem State.leave_pipe : Run.Sat s.leave fun u => SamePipe s.seq u.seq := by
  unfold State.leave
  split
  · exact Run.sat_ok (.refl _)
  · next k _ =>
    have left (t : State) (ht : SamePipe s.seq t.seq) : Run.Sat (.ok (if k == .virpti then
        { t.setService k false with iop := { (t.setService k false).iop with vipd := false } }
        else t.setService k false) : Run State) fun u => SamePipe s.seq u.seq := by
      refine Run.sat_ok (ht.trans (.of_eq ?_))
      split <;> exact State.setService_seq ..
    exact Run.sat_ite (fun _ => Run.sat_bind State.popSts_pipe left) fun _ => left s (.refl _)

theorem State.pushPc_pipe (v : W24) : SamePipe s.seq (s.pushPc v).seq := by
  unfold State.pushPc
  dsimp only
  rw [State.occurIf_seq, State.stackState_seq]
  split <;> exact ⟨rfl, rfl, rfl⟩

/-! ### What a branch needs -/

theorem State.MayBranch.steady (h : s.MayBranch) : s.Steady := h.1

theorem State.MayBranch.noTest (h : s.MayBranch) : s.loopAct = .none :=
  let ⟨_, act, _, _⟩ := h
  act

theorem State.MayBranch.noSlots (h : s.MayBranch) : s.seq.dbSlots = 0 :=
  let ⟨_, _, slots, _⟩ := h
  slots

theorem State.MayBranch.away (h : s.MayBranch) : s.AwayFromEnd :=
  let ⟨_, _, _, away⟩ := h
  away

theorem State.MayBranch.slotFree (h : s.MayBranch) : s.slotFree = .ok () := by
  simp [State.slotFree, h.noSlots]

theorem State.nextFetch_of_noTest (ha : s.loopAct = .none) (hr : s.returning = false) : s.nextFetch = s.seq.faddr + 1 := by
  simp [State.nextFetch, ha, hr]

theorem State.MayBranch.nextFetch (h : s.MayBranch) : s.nextFetch = s.seq.faddr + 1 :=
  State.nextFetch_of_noTest h.noTest (by simp [State.returning, h.noSlots])

/-- With no loop test due the window wraps only where PC and the decode address do. -/
theorem State.Steady.noWrap (h : s.Steady) (ha : s.loopAct = .none) :
    (s.seq.pc == 0xFFFFFF && s.seq.daddr == 0) = false := by
  obtain ⟨-, -, -, hw⟩ := h
  simpa only [State.wrapsPc, ha] using hw

/-! ### The window of a taken branch -/

/-- A taken branch, on a written state that has left the fetch pipeline alone. -/
theorem State.MayBranch.window_branch (h : s.MayBranch) (ht : SamePipe s.seq t.seq) (db ret : Bool) (nf a : W24) :
    s.window nf (branchTo db ret a) t = .ok (s.branched t db ret a) := by
  cases db with
  | false =>
    have left : t.seq.dbSlots - 1 = 0 := by rw [ht.dbSlots, h.noSlots]
    simp only [State.window, branchTo, State.branched, Sequencer.slot, Sequencer.setWindow, Sequencer.keepPasses, left,
      Bool.false_eq_true, if_false]
  | true =>
    simp only [State.window, branchTo, State.branched, h.steady.noWrap h.noTest, Bool.not_false, need_true, Run.ok_bind,
      Sequencer.slot, Sequencer.shift, Sequencer.keepPasses, ht.daddr, ht.faddr, if_true]


/-! ### The parts of a branch -/

/-- A part that is made on a condition, and what goes on from its answer. -/
theorem Run.optional_bind {α β : Type} {p : Prop} [Decidable p] {r : Run α} {a b : α} (f : α → Run β)
    (h : (if p then r else .ok a) = .ok b) : (if p then r >>= f else f a) = f b := by
  split at h
  · next hp => rw [if_pos hp, h, Run.ok_bind]
  · next hp => rw [if_neg hp, Except.ok.inj h]

/-- What a branch begins with: its compute, on the elements that its condition and ELSE choose (41_program_flow.md R303). -/
theorem State.Steady.withGate_eq (h : s.Steady) {c : Cond} (hc : c = .lce → s.inShortLoop = false) {k : Compute}
    (hk : k.dualClash = false) (els : Bool) (branch : State → Run State) :
    withGate c els k s branch = outcome s (branch
      (s.runPes s.begun (computePe k) (s.cond false c != els) (s.simd && (s.cond true c != els)))) := by
  simp only [withGate, h.1.condReady c hc, h.begin.1, State.peGate, h.computePart k _ hk, Run.ok_bind]

/-- The written state of a branch that is taken: its compute runs in both elements, unless it stands after ELSE. -/
def State.takenBase (s : State) (k : Compute) (els : Bool) : State :=
  s.runPes s.start (computePe k) (!els) (s.simd && !els)

theorem State.takenBase_seq (s : State) (k : Compute) (els : Bool) : (s.takenBase k els).seq = s.seq :=
  State.runPes_seq s s.start (computePe k) _ _

/-- A branch is taken where the condition holds in every active element (30_encoding.md R230). -/
theorem State.MayBranch.withGate_taken (h : s.MayBranch) {c : Cond} (hc : c = .lce → s.inShortLoop = false)
    (taken : s.condBoth c = true) {k : Compute} (hk : k.dualClash = false) (els : Bool) (branch : State → Run State) :
    withGate c els k s branch = outcome s (branch (s.takenBase k els)) := by
  obtain ⟨x, y⟩ := Bool.and_eq_true_iff.1 taken
  have gateX : (s.cond false c != els) = !els := by rw [x, Bool.true_bne]
  have gateY : (s.simd && (s.cond true c != els)) = (s.simd && !els) := by
    cases simd : s.simd with
    | false => rfl
    | true =>
      rw [simd] at y
      rw [show s.cond true c = true from y, Bool.true_bne]
  rw [h.steady.withGate_eq hc hk, h.steady.begun_eq h.noTest, gateX, gateY]
  rfl

/-- The target of an indirect branch can be read in a settled state. -/
theorem State.Settled.indTarget (h : s.Settled) (i m : DagNum) : s.indTarget i m =
    .ok ((s.dagReg .i (dagNumber true i) + s.dagReg .m (dagNumber true m)).setWidth 24) := by
  have i' := h.mayRead_dag .i (dagNumber true i)
  have m' := h.mayRead_dag .m (dagNumber true m)
  simp only [UReg.ofDag] at i' m'
  simp only [State.indTarget, i', m', Run.ok_bind]

/-! ### Jumps -/

/-- A taken JUMP: (LA), then (CI), then the target (41_program_flow.md R304, R305, R310). -/
theorem State.MayBranch.jumpIf_taken (h : s.MayBranch) (ht : SamePipe s.seq t.seq) {c : Cond}
    (taken : s.condBoth c = true) {la db ci : Bool} {a : W24} {t1 t2 : State}
    (h1 : (if la then t.abortLoop a else .ok t) = .ok t1) (h2 : (if ci then t1.leave else .ok t1) = .ok t2)
    (entry : t2.entryAllowed a = true) : s.jumpIf t c la db ci (.ok a) = .ok (s.branched t2 db false a) := by
  have pipe1 : SamePipe s.seq t1.seq := by
    cases la with
    | false => cases h1; exact ht
    | true => exact ht.trans (State.abortLoop_pipe a t1 h1)
  have pipe2 : SamePipe s.seq t2.seq := by
    cases ci with
    | false => cases h2; exact pipe1
    | true => exact pipe1.trans (State.leave_pipe t2 h2)
  simp only [State.jumpIf, h.away.branchPlace, taken, h.slotFree, h.steady.1.pcStackReady, if_true, Run.ok_bind, State.flow,
    ite_self]
  rw [Run.optional_bind _ h1, Run.optional_bind _ h2, entry, need_true, Run.ok_bind, Run.ok_bind, h.window_branch pipe2]

/-! ### Calls and returns -/

/-- The check of a branch's target depends on the loop stack alone. -/
theorem State.entryAllowed_congr (hd : t.seq.loopDepth = s.seq.loopDepth) (ha : t.seq.loopAddr = s.seq.loopAddr)
    (a : W24) : t.entryAllowed a = s.entryAllowed a := by
  simp only [State.entryAllowed, State.looping, State.loopEnd, State.laddr, hd, ha]

/-- A taken CALL: the return address pushed, then the target (41_program_flow.md R311). -/
theorem State.MayBranch.callIf_taken (h : s.MayBranch) (ht : SamePipe s.seq t.seq) {c : Cond}
    (taken : s.condBoth c = true) {db : Bool} {a : W24} {v : W24}
    (hv : v = if db then s.seq.faddr + 1 else s.seq.daddr) (entry : (t.pushPc v).entryAllowed a = true) :
    s.callIf t c db (.ok a) = .ok (s.branched (t.pushPc v) db false a) := by
  obtain ⟨settled, overflow, -⟩ := h.steady
  subst hv
  simp only [State.callIf, h.away.branchPlace, taken, h.slotFree, settled.pcStackReady, overflow, Bool.not_false, need_true,
    if_true, Run.ok_bind, State.flow, h.nextFetch, entry]
  exact h.window_branch (ht.trans (State.pushPc_pipe _)) db false _ a

/-- A taken return: the address on top of the PC stack, popped, then what the return adds (41_program_flow.md R306). -/
theorem State.MayBranch.returnIf_taken (h : s.MayBranch) (ht : SamePipe s.seq t.seq) {c : Cond}
    (taken : s.condBoth c = true) (db : Bool) {after : W24 → State → Run State} {u v : State} (hu : t.popPc = .ok u)
    (hv : after t.topPc u = .ok v) (left : SamePipe u.seq v.seq) :
    s.returnIf t c db after = .ok (s.branched v db true t.topPc) := by
  simp only [State.returnIf, h.away.branchPlace, taken, h.slotFree, h.steady.1.pcStackReady, if_true, Run.ok_bind,
    State.flow, hu, hv]
  exact h.window_branch ((ht.trans (State.popPc_pipe u hu)).trans left) db true _ _

/-! ### Branches that are not taken -/

theorem State.AwayFromEnd.jumpIf_skipped (h : s.AwayFromEnd) {c : Cond} (skipped : s.condBoth c = false) (t : State)
    (la db ci : Bool) (target : Run W24) : s.jumpIf t c la db ci target = s.advance t := by
  simp only [State.jumpIf, h.branchPlace, skipped, Run.ok_bind, Bool.false_eq_true, if_false]

theorem State.AwayFromEnd.callIf_skipped (h : s.AwayFromEnd) {c : Cond} (skipped : s.condBoth c = false) (t : State)
    (db : Bool) (target : Run W24) : s.callIf t c db target = s.advance t := by
  simp only [State.callIf, h.branchPlace, skipped, Run.ok_bind, Bool.false_eq_true, if_false]

theorem State.AwayFromEnd.returnIf_skipped (h : s.AwayFromEnd) {c : Cond} (skipped : s.condBoth c = false) (t : State)
    (db : Bool) (after : W24 → State → Run State) : s.returnIf t c db after = s.advance t := by
  simp only [State.returnIf, h.branchPlace, skipped, Run.ok_bind, Bool.false_eq_true, if_false]

end Sys2Proof.Machine
end

section
/-!
PROOF. The PC stack: a push and the address on its top (41_program_flow.md R306, R307).
-/
namespace Sys2Proof.Machine

variable {s t : State}

/-- With entries and without overflow the top of the PC stack is what stands in it, whatever free values there are. -/
theorem State.topPc_congr (hp : t.seq.pcstkp = s.seq.pcstkp) (hs : t.seq.pcStack = s.seq.pcStack)
    (h0 : s.seq.pcstkp ≠ 0) (h31 : s.seq.pcstkp ≠ 31) : t.topPc = s.topPc := by
  simp only [State.topPc, hp, hs, h0, h31, or_self, if_false]

/-- A push of the PC stack with room. -/
theorem State.pushPc_seq (h : s.seq.pcstkp.toNat < 30) (v : W24) : (s.pushPc v).seq =
    { s.seq with
      pcstkp := s.seq.pcstkp + 1, pcStack := s.seq.pcStack.setIfInBounds s.seq.pcstkp.toNat v } := by
  have room : ¬ s.seq.pcstkp.toNat ≥ 30 := Nat.not_le.2 h
  simp only [State.pushPc, room, if_false, State.occurIf_seq, State.stackState_seq]

/-- The latch of SOVFI is a bit of IRPTL. -/
theorem State.occurIf_sovfi (t : State) (b : Bool) : t.occurIf b .sovfi =
    { t with reg := { t.reg with irptl := (t.occurIf b .sovfi).reg.irptl } } := by
  unfold State.occurIf State.occur
  split
  · split <;> rfl
  · rfl

/-- A push of the PC stack touches its flags and the latch of SOVFI beside the stack. -/
theorem State.pushPc_rest (s : State) (v : W24) : s.pushPc v =
    { s with
      seq := (s.pushPc v).seq
      reg := { s.reg with stkyx := (s.pushPc v).reg.stkyx, irptl := (s.pushPc v).reg.irptl }
      stackBits := (s.pushPc v).stackBits } := by
  unfold State.pushPc
  dsimp only
  rw [State.occurIf_sovfi]
  rfl

theorem State.topPc_pushPc (h : s.seq.pcstkp.toNat < 30) (v : W24) : (s.pushPc v).topPc = v := by
  have some : ¬ (s.seq.pcstkp + 1 = 0 ∨ s.seq.pcstkp + 1 = 31) := by bv_omega
  have index : (s.seq.pcstkp + 1).toNat - 1 = s.seq.pcstkp.toNat := by bv_omega
  rw [State.topPc, State.pushPc_seq h]
  simp only [some, if_false, index, Vector.getElem?_setIfInBounds_self_of_lt h, Option.getD_some]

/-- The entries below stay. -/
theorem State.pcStack_pushPc (h : s.seq.pcstkp.toNat < 30) (v : W24) {j : Nat} (hj : j < s.seq.pcstkp.toNat) :
    (s.pushPc v).seq.pcStack[j]? = s.seq.pcStack[j]? := by
  rw [State.pushPc_seq h]
  exact Vector.getElem?_setIfInBounds_ne (Nat.ne_of_gt hj)

end Sys2Proof.Machine
end

section
/-!
PROOF. BranchesTaken, ReturnsTaken and BranchesNotTaken: the instructions of Types 8 to 11 as their branch with its compute.
-/
namespace Sys2Proof.Machine

variable {s : State} {i : Instr} {b : Branch}

/-- Where its condition holds, a JUMP is its compute and the jump (41_program_flow.md R310, R312, R314). -/
theorem State.MayBranch.exec_jump (h : s.MayBranch) (hi : i.jump? = some b) (hk : b.k.dualClash = false)
    (taken : s.condBoth b.cond = true) (hc : b.cond = .lce → s.inShortLoop = false) :
    exec i s = outcome s (s.jumpIf (s.takenBase b.k b.els) b.cond b.la b.db b.ci (.ok (i.target s))) := by
  have gated (target : Run W24) (ht : target = .ok (i.target s)) :
      withGate b.cond b.els b.k s (fun t => s.jumpIf t b.cond b.la b.db b.ci target) =
        outcome s (s.jumpIf (s.takenBase b.k b.els) b.cond b.la b.db b.ci (.ok (i.target s))) :=
    (h.withGate_taken hc taken hk b.els _).trans (by rw [ht])
  have bare : s.takenBase .none false = s.begun := by
    rw [State.takenBase, ← h.steady.begun_eq h.noTest]
    exact h.steady.runPes_none (true, _)
  have orElse {c : Cond} (hb : b = ⟨c, false, false, .none, false, false⟩) (write : Bool) (di dm : DagNum)
      (target : State → Run W24) (ht : target s = .ok (i.target s)) (d : Reg) (k : Compute) :
      jumpElse write di dm c target d k s =
        outcome s (s.jumpIf (s.takenBase b.k b.els) b.cond b.la b.db b.ci (.ok (i.target s))) := by
    subst hb
    have taken' : s.condBoth c = true := taken
    simp only [jumpElse, h.steady.1.condReady c hc, h.steady.begin.1, Run.ok_bind, taken', if_true, ht, bare]
  cases i with
  | jumpAbs la c db ci a => cases hi; exact gated (.ok a) rfl
  | jumpRel la c db ci rel => cases hi; exact gated (s.relTarget rel) rfl
  | jumpInd la c i m db els ci k => cases hi; exact gated (s.indTarget i m) (h.steady.1.indTarget i m)
  | jumpRel6 la c rel db els ci k => cases hi; exact gated (s.relTarget (rel.signExtend 24)) rfl
  | jumpIndElse w di dm c i m d k =>
    cases hi
    exact orElse rfl w di dm (fun s => s.indTarget i m) (h.steady.1.indTarget i m) d k
  | jumpRelElse w di dm c rel d k =>
    cases hi
    exact orElse rfl w di dm (fun s => s.relTarget (rel.signExtend 24)) rfl d k
  | _ => cases hi

/-- Where its condition holds, a CALL is its compute and the call (41_program_flow.md R311, R313). -/
theorem State.MayBranch.exec_call (h : s.MayBranch) (hi : i.call? = some b) (hk : b.k.dualClash = false)
    (taken : s.condBoth b.cond = true) (hc : b.cond = .lce → s.inShortLoop = false) :
    exec i s = outcome s (s.callIf (s.takenBase b.k b.els) b.cond b.db (.ok (i.target s))) := by
  have gated (target : Run W24) (ht : target = .ok (i.target s)) :
      withGate b.cond b.els b.k s (fun t => s.callIf t b.cond b.db target) =
        outcome s (s.callIf (s.takenBase b.k b.els) b.cond b.db (.ok (i.target s))) :=
    (h.withGate_taken hc taken hk b.els _).trans (by rw [ht])
  cases i with
  | callAbs c db a => cases hi; exact gated (.ok a) rfl
  | callRel c db rel => cases hi; exact gated (s.relTarget rel) rfl
  | callInd c i m db els k => cases hi; exact gated (s.indTarget i m) (h.steady.1.indTarget i m)
  | callRel6 c rel db els k => cases hi; exact gated (s.relTarget (rel.signExtend 24)) rfl
  | _ => cases hi

/-- Settles O47: a JUMP is its compute, the drop of the loop, the leave of the interrupt and the new window; a CALL is its
compute, a push and the new window. -/
theorem branchesTaken : Obligations.BranchesTaken := by
  intro i b s h hk taken hc w a
  have seq : w.seq = s.seq := s.takenBase_seq b.k b.els
  refine ⟨fun t1 t2 hi h1 h2 entry => ?_, fun hi entry room => ?_⟩
  · rw [h.exec_jump hi hk taken hc]
    exact congrArg (outcome s) (h.jumpIf_taken (.of_eq seq) taken h1 h2 entry)
  · have room' : w.seq.pcstkp.toNat < 30 := by rwa [seq]
    have pushed := State.pushPc_seq (s := w) room'
    let v := if b.db then s.seq.faddr + 1 else s.seq.daddr
    have allowed : (w.pushPc v).entryAllowed a = true := by
      rwa [State.entryAllowed_congr (s := s)] <;> rw [pushed, seq]
    refine ⟨w.pushPc v, ?_, ?_, State.topPc_pushPc room' v, w.pushPc_rest v, ?_, fun j hj => ?_⟩
    · rw [h.exec_call hi hk taken hc]
      exact congrArg (outcome s) (h.callIf_taken (.of_eq seq) taken rfl allowed)
    · rw [pushed, seq]
    · rw [pushed]
    · rw [State.pcStack_pushPc room' v (by rwa [seq]), seq]

/-- Settles O48: a return is its compute, a pop, for RTI the leave of the interrupt, and the new window. -/
theorem returnsTaken : Obligations.ReturnsTaken := by
  intro c db els lr k s h hk taken hc h0 h31 w
  have seq : w.seq = s.seq := s.takenBase_seq k els
  have top : w.topPc = s.topPc := State.topPc_congr (by rw [seq]) (by rw [seq]) h0 h31
  have popped := State.popPc_eq_ok (s := w).2 ⟨by rw [seq]; exact h.steady.2.1, by rwa [seq], rfl⟩
  set t := ({ w with seq := { w.seq with pcstkp := w.seq.pcstkp - 1 } }).stackState 0x00600000
    (bitAt 22 (w.seq.pcstkp - 1 == 0))
  have allowed : t.entryAllowed s.topPc = s.entryAllowed s.topPc :=
    State.entryAllowed_congr (by show w.seq.loopDepth = _; rw [seq]) (by show w.seq.loopAddr = _; rw [seq]) _
  have returned (after : W24 → State → Run State) (v : State) (hv : after w.topPc t = .ok v) (left : SamePipe t.seq v.seq) :
      withGate c els k s (fun t => s.returnIf t c db after) = .next (s.branched v db true s.topPc) := by
    rw [h.withGate_taken hc taken hk, ← top]
    exact congrArg (outcome s) (h.returnIf_taken (.of_eq seq) taken db popped hv left)
  refine ⟨t, popped, by show w.seq.pcstkp - 1 = _; rw [seq], fun ok => ?_, fun v hv => ?_⟩
  · refine returned _ t ?_ (.refl _)
    have may : (lr || t.entryAllowed w.topPc) = true := by rw [top, allowed, Bool.or_eq_true]; exact ok
    rw [may, need_true, Run.ok_bind]
  · exact returned _ v hv (State.leave_pipe v hv)

/-- Where its condition fails, a branch of Types 8, 9 and 11 is its compute and the end of the step
(41_program_flow.md R303). -/
theorem State.AwayFromEnd.exec_skipped (h : s.AwayFromEnd) (hi : i.branch? = some b) (skipped : s.condBoth b.cond = false) :
    exec i s = withGate b.cond b.els b.k s s.advance := by
  have jump (la db ci : Bool) (target : Run W24) :
      (fun t => s.jumpIf t b.cond la db ci target) = s.advance := funext fun t => h.jumpIf_skipped skipped t la db ci target
  have call (db : Bool) (target : Run W24) : (fun t => s.callIf t b.cond db target) = s.advance :=
    funext fun t => h.callIf_skipped skipped t db target
  have back (db : Bool) (after : W24 → State → Run State) : (fun t => s.returnIf t b.cond db after) = s.advance :=
    funext fun t => h.returnIf_skipped skipped t db after
  have gated {f : State → Run State} (hf : f = s.advance) :
      withGate b.cond b.els b.k s f = withGate b.cond b.els b.k s s.advance := congrArg _ hf
  cases i with
  | jumpAbs | jumpRel | jumpInd | jumpRel6 => cases hi; exact gated (jump _ _ _ _)
  | callAbs | callRel | callInd | callRel6 => cases hi; exact gated (call _ _)
  | rts | rti => cases hi; exact gated (back _ _)
  | _ => cases hi

/-- Settles O49: not taken, a branch is its compute between the begin and the end of a step. -/
theorem branchesNotTaken : Obligations.BranchesNotTaken := by
  intro i b s hi h away hk skipped hc
  obtain ⟨u, hu, hadv⟩ := h.ends (State.runPes_seq s s.begun (computePe b.k) (s.cond false b.cond != b.els)
    (s.simd && (s.cond true b.cond != b.els)))
  exact ⟨u, by rw [away.exec_skipped hi skipped, h.withGate_eq hc hk, hu], hadv⟩

end Sys2Proof.Machine
end

section
/-!
PROOF. LoopSetup: what DO UNTIL puts on the loop stacks and the PC stack, and its window (41_program_flow.md R320 to R322).
-/
namespace Sys2Proof.Machine

variable {s t u : State}

/-! ### The loop stacks -/

theorem State.laddr_congr (hd : t.seq.loopDepth = s.seq.loopDepth) (ha : t.seq.loopAddr = s.seq.loopAddr) :
    t.laddr = s.laddr := by
  rw [State.laddr, State.laddr, hd, ha]

theorem State.curlcntr_congr (hd : t.seq.loopDepth = s.seq.loopDepth) (hc : t.seq.loopCount = s.seq.loopCount) :
    t.curlcntr = s.curlcntr := by
  rw [State.curlcntr, State.curlcntr, hd, hc]

/-- A push of the loop stacks with room touches the stacks and their flag. -/
theorem State.pushLoop_room (h : s.seq.loopDepth < 6) (a c : W32) : s.pushLoop a c =
    ({ s with seq := { s.seq with
        loopDepth := s.seq.loopDepth + 1
        loopAddr := s.seq.loopAddr.setIfInBounds s.seq.loopDepth a
        loopCount := (s.seq.loopCount.setIfInBounds s.seq.loopDepth c).setIfInBounds (s.seq.loopDepth + 1)
          (s.free 8) } }).stackState 0x04000000 0 :=
  if_neg (Nat.not_le.2 h)

theorem State.laddr_pushLoop (h : s.seq.loopDepth < 6) (a c : W32) : (s.pushLoop a c).laddr = a := by
  rw [State.pushLoop_room h]
  simp [State.laddr, h]

theorem State.curlcntr_pushLoop (h : s.seq.loopDepth < 6) (a c : W32) : (s.pushLoop a c).curlcntr = c := by
  rw [State.pushLoop_room h]
  simp [State.curlcntr, h]

/-- The loops around the new one stay as they are. -/
theorem State.loops_pushLoop (h : s.seq.loopDepth < 6) (a c : W32) {j : Nat} (hj : j < s.seq.loopDepth) :
    (s.pushLoop a c).seq.loopAddr[j]? = s.seq.loopAddr[j]? ∧ (s.pushLoop a c).seq.loopCount[j]? = s.seq.loopCount[j]? := by
  rw [State.pushLoop_room h]
  constructor
  · exact Vector.getElem?_setIfInBounds_ne (Nat.ne_of_gt hj)
  · exact (Vector.getElem?_setIfInBounds_ne (by omega)).trans (Vector.getElem?_setIfInBounds_ne (Nat.ne_of_gt hj))

/-! ### What DO UNTIL writes -/

/-- LCNTR set to the count of Type 12 (41_program_flow.md R320). -/
def State.withCount (t : State) : Option W32 → State
  | some n => t.setCount t.seq.loopDepth n
  | none => t

theorem State.lcntr_withCount (h : t.seq.loopDepth < 6) (count : Option W32) :
    (t.withCount count).lcntr = count.getD t.lcntr := by
  cases count with
  | none => rfl
  | some n => simp [State.withCount, State.lcntr, h]

/-- The entry of the loop address stack for a loop from `b` to `e` (10_state.md R31). -/
def loopEntry (term : Cond) (b e : W24) : W32 := loopKind term (e - b + 1) ++ 0#1 ++ term.code ++ e

theorem loopEntry_end (term : Cond) (b e : W24) : (loopEntry term b e).extractLsb' 0 24 = e := by
  simp (disch := decide) only [loopEntry, fields_append, whole_field]

theorem loopEntry_term (term : Cond) (b e : W24) : (loopEntry term b e).extractLsb' 24 5 = term.code := by
  simp (disch := decide) only [loopEntry, fields_append, whole_field, Nat.reduceSub]

theorem loopEntry_type (term : Cond) (b e : W24) : (loopEntry term b e).extractLsb' 30 2 = loopKind term (e - b + 1) := by
  simp (disch := decide) only [loopEntry, fields_append, whole_field, Nat.reduceSub]

/-- The length of a loop from `b` to `e` is 1 or 2 where `e` is `b` or the address after it. -/
theorem loopLength_short (b e : W24) : (e - b + 1 = 1 ↔ e = b) ∧ (e - b + 1 = 2 ↔ e = b + 1) := by
  constructor <;> bv_omega

theorem loopKind_eq (term : Cond) (b e : W24) : loopKind term (e - b + 1) =
    if term ≠ .lce then 0 else if e = b then 1 else if e = b + 1 then 2 else 3 := by
  obtain ⟨one, two⟩ := loopLength_short b e
  simp only [loopKind, bne_iff_ne, beq_iff_eq, one, two]

theorem loopWindow_eq (b e : W24) : loopWindow b e (e - b + 1) =
    .doLoop (if e = b then b else b + 1) (if e = b ∨ e = b + 1 then b else b + 2) := by
  obtain ⟨one, two⟩ := loopLength_short b e
  simp only [loopWindow, beq_iff_eq, one, two]
  split
  · next h => simp [h]
  · next h => split <;> simp_all

/-- The loop stacks pushed by DO UNTIL, with the count of Type 12 in LCNTR before (41_program_flow.md R320, R321). -/
def State.loopPushed (s : State) (term : Cond) (b e : W24) (count : Option W32) : State :=
  (s.start.withCount count).pushLoop (loopEntry term b e) (count.getD s.lcntr)

/-- The written state of DO UNTIL: the PC stack takes the first instruction. -/
def State.entersLoop (s : State) (term : Cond) (b e : W24) (count : Option W32) : State :=
  (s.loopPushed term b e count).pushPc b

/-- From a state in which the stacks may be used, DO UNTIL writes the loop and asks for its window. -/
theorem State.StackReady.doUntil_eq (h : s.StackReady) (hd : s.seq.loopDepth < 6) {term : Cond} {rel : W24}
    {count : Option W32} (hb : (s.seq.pc + 1).toNat ≤ (s.seq.pc + rel).toNat)
    (he : s.endsTooClose (s.seq.pc + rel) = false) :
    s.doUntil term rel count = s.window s.nextFetch
      (loopWindow (s.seq.pc + 1) (s.seq.pc + rel) (s.seq.pc + rel - (s.seq.pc + 1) + 1))
      (s.entersLoop term (s.seq.pc + 1) (s.seq.pc + rel) count) := by
  obtain ⟨⟨⟨settled, overflow, inside, wraps⟩, short⟩, act, slots⟩ := h
  have steady : s.Steady := ⟨settled, overflow, inside, wraps⟩
  have room : (term == .lce && decide (s.seq.loopDepth ≥ 6)) = false := by
    rw [decide_eq_false (Nat.not_le.2 hd), Bool.and_false]
  have begun : s.begin = .ok s.start := steady.begun_eq act ▸ steady.begin.1
  have apart : s.start.endsTooClose (s.seq.pc + rel) = false := he
  have counted : (s.start.withCount count).lcntr = count.getD s.lcntr := State.lcntr_withCount (t := s.start) hd count
  simp only [State.doUntil, State.stackPlace, slots, short, overflow, settled.pcStackReady, settled.useMode1, room, hb,
    begun, State.flow, apart, bne_self_eq_false, Bool.and_false, Bool.not_false, decide_true, need_true, Run.ok_bind]
  unfold State.entersLoop State.loopPushed
  rw [← counted]
  cases count <;> rfl

/-! ### The window -/

/-- The window of DO UNTIL: the first instruction, and what follows it in the loop (41_program_flow.md R322). -/
theorem State.window_doLoop (h : s.seq.pc ≠ 0xFFFFFF) (nf d f : W24) (t : State) :
    ∃ u, s.window nf (.doLoop d f) t = .ok u ∧ u.seq.pc = s.seq.pc + 1 ∧ u.seq.daddr = d ∧ u.seq.faddr = f := by
  have inside : (s.seq.pc != 0xFFFFFF) = true := bne_iff_ne.2 h
  simp only [State.window, inside, need_true, Run.ok_bind]
  exact ⟨_, rfl, rfl, rfl, rfl⟩

/-! ### The parts of what DO UNTIL writes -/

theorem State.withCount_seq (t : State) (count : Option W32) :
    (t.withCount count).seq = { t.seq with loopCount := (t.withCount count).seq.loopCount } := by
  cases count <;> rfl

/-- The counts of the loops that are active stay. -/
theorem State.loopCount_withCount (t : State) (count : Option W32) {j : Nat} (hj : j < t.seq.loopDepth) :
    (t.withCount count).seq.loopCount[j]? = t.seq.loopCount[j]? := by
  cases count with
  | none => rfl
  | some n => exact Vector.getElem?_setIfInBounds_ne (Nat.ne_of_gt hj)

section Pushed

variable (hd : s.seq.loopDepth < 6) (term : Cond) (b e : W24) (count : Option W32)
include hd

theorem State.withCount_room : (s.start.withCount count).seq.loopDepth < 6 := by
  rw [State.withCount_seq]
  exact hd

theorem State.loopPushed_seq : (s.loopPushed term b e count).seq =
    { s.seq with
      loopDepth := s.seq.loopDepth + 1
      loopAddr := s.seq.loopAddr.setIfInBounds s.seq.loopDepth (loopEntry term b e)
      loopCount := (s.loopPushed term b e count).seq.loopCount } := by
  unfold State.loopPushed
  rw [State.pushLoop_room (s.withCount_room hd count)]
  cases count <;> rfl

theorem State.laddr_loopPushed : (s.loopPushed term b e count).laddr = loopEntry term b e :=
  State.laddr_pushLoop (s.withCount_room hd count) _ _

theorem State.curlcntr_loopPushed : (s.loopPushed term b e count).curlcntr = count.getD s.lcntr :=
  State.curlcntr_pushLoop (s.withCount_room hd count) _ _

theorem State.loops_loopPushed {j : Nat} (hj : j < s.seq.loopDepth) :
    (s.loopPushed term b e count).seq.loopAddr[j]? = s.seq.loopAddr[j]? ∧
      (s.loopPushed term b e count).seq.loopCount[j]? = s.seq.loopCount[j]? := by
  have below : j < (s.start.withCount count).seq.loopDepth := by
    rw [State.withCount_seq]
    exact hj
  obtain ⟨addr, counts⟩ := State.loops_pushLoop (s.withCount_room hd count) (loopEntry term b e) (count.getD s.lcntr) below
  refine ⟨addr.trans ?_, counts.trans (State.loopCount_withCount s.start count hj)⟩
  rw [State.withCount_seq]
  rfl

/-- DO UNTIL touches the sequencer, the flags of the stacks and the latch of SOVFI. -/
theorem State.entersLoop_rest :
    let u := s.entersLoop term b e count
    u = { s.start with
      seq := u.seq, reg := { s.reg with stkyx := u.reg.stkyx, irptl := u.reg.irptl }, stackBits := u.stackBits } := by
  unfold State.entersLoop
  rw [State.pushPc_rest]
  unfold State.loopPushed
  rw [State.pushLoop_room (s.withCount_room hd count)]
  cases count <;> rfl

/-- The stacks after DO UNTIL are those of its push of the loop stacks, with the first instruction on the PC stack. -/
theorem State.entersLoop_seq (hp : s.seq.pcstkp.toNat < 30) : (s.entersLoop term b e count).seq =
    { (s.loopPushed term b e count).seq with
      pcstkp := s.seq.pcstkp + 1, pcStack := s.seq.pcStack.setIfInBounds s.seq.pcstkp.toNat b } := by
  have pushed := State.loopPushed_seq hd term b e count
  have room : (s.loopPushed term b e count).seq.pcstkp.toNat < 30 := by rwa [pushed]
  rw [State.entersLoop, State.pushPc_seq room]
  rw [show (s.loopPushed term b e count).seq.pcstkp = s.seq.pcstkp by rw [pushed],
    show (s.loopPushed term b e count).seq.pcStack = s.seq.pcStack by rw [pushed]]

theorem State.topPc_entersLoop (hp : s.seq.pcstkp.toNat < 30) : (s.entersLoop term b e count).topPc = b :=
  State.topPc_pushPc (by rw [State.loopPushed_seq hd]; exact hp) b

end Pushed

/-- A move of the window leaves the top of the PC stack. -/
theorem WindowMoved.topPc (h : WindowMoved t u) : u.topPc = t.topPc := by
  have free : u.freeIdx = t.freeIdx := by rw [h.rest]
  rw [State.topPc, State.topPc, State.free, State.free, free, h.sameStacks.pcstkp, h.sameStacks.pcStack]

/-- The three forms of DO UNTIL set up the same loop; reading the count of a Type 12 stops nothing. -/
theorem State.StackReady.exec_loop (h : s.StackReady) (hd : s.seq.loopDepth < 6) {i : Instr} {term : Cond} {rel : W24}
    {count : Option W32} (hi : i.loop? s = some (term, rel, count)) : exec i s = outcome s (s.doUntil term rel count) := by
  cases i with
  | doImm n r => cases hi; rfl
  | doUreg r d =>
    cases hi
    have read : s.mayRead r = .ok () := h.1.1.1.mayRead r (.inl h.1.2) (.inr hd)
    show execDoUreg r _ s = _
    rw [execDoUreg, read, Run.ok_bind]
  | doUntil c r => cases hi; rfl
  | _ => cases hi

/-- Settles O50: the push of the loop stacks, the push of the PC stack, and the window. -/
theorem loopSetup : Obligations.LoopSetup := by
  intro i s term rel count hi h hd hp hpc b e hb he
  set t := s.entersLoop term b e count with ht
  obtain ⟨u, hu, pc, daddr, faddr⟩ := s.window_doLoop hpc s.nextFetch (if e = b then b else b + 1)
    (if e = b ∨ e = b + 1 then b else b + 2) t
  have moved : WindowMoved t u := s.window_moved t _ _ u hu
  obtain ⟨rest, same⟩ := id moved
  have seq : t.seq = _ := State.entersLoop_seq hd term b e count hp
  have pushed := State.loopPushed_seq hd term b e count
  have laddr : u.laddr = loopEntry term b e := by
    rw [State.laddr_congr same.loopDepth same.loopAddr, ← State.laddr_loopPushed hd term b e count]
    exact State.laddr_congr (by rw [seq]) (by rw [seq])
  have curlcntr : u.curlcntr = count.getD s.lcntr := by
    rw [State.curlcntr_congr same.loopDepth same.loopCount, ← State.curlcntr_loopPushed hd term b e count]
    exact State.curlcntr_congr (by rw [seq]) (by rw [seq])
  have written : t = _ := State.entersLoop_rest hd term b e count
  refine ⟨u, ?_, ?_, ?_, ?_, ?_, curlcntr, ?_, ?_, fun j hj => ?_, pc, daddr, faddr, ?_, ?_, ?_, ?_, ?_, ?_⟩
  · rw [h.exec_loop hd hi, h.doUntil_eq hd hb he, loopWindow_eq]
    exact congrArg (outcome s) hu
  · rw [same.loopDepth, seq, pushed]
  · rw [State.loopEnd, laddr, loopEntry_end]
  · rw [State.loopTerm, laddr, loopEntry_term]
  · rw [State.loopType, laddr, loopEntry_type, loopKind_eq]
  · rw [same.pcstkp, seq]
  · rw [moved.topPc, State.topPc_entersLoop hd term b e count hp]
  · rw [same.loopAddr, same.loopCount, seq]
    exact State.loops_loopPushed hd term b e count hj
  · rw [State.SameData, rest, written]
    exact ⟨rfl, rfl⟩
  · rw [State.SameAddresses, rest, written]
    exact ⟨rfl, rfl⟩
  · rw [rest, written]
    rfl
  · rw [same.statusStack, seq, pushed]
  · rw [rest, written]
  · rw [rest, written]

end Sys2Proof.Machine
end

section
/-!
PROOF. The sticky bits of a compute: those of the processing element, below the bits of the stacks (10_state.md R38).
-/
namespace Sys2Proof.Machine

/-- Only bits 0 to 9 are set: the sticky bits of the ALU and the multiplier. -/
structure UnitSticky (v : W32) : Prop where
  high : ∀ n, 10 ≤ n → v.getLsbD n = false

theorem UnitSticky.zero : UnitSticky 0 := ⟨fun _ _ => BitVec.getLsbD_zero⟩

theorem UnitSticky.or {v w : W32} (hv : UnitSticky v) (hw : UnitSticky w) : UnitSticky (v ||| w) where
  high n hn := by rw [BitVec.getLsbD_or, hv.high n hn, hw.high n hn, Bool.or_false]

theorem UnitSticky.bitAt {k : Nat} (hk : k < 10) (b : Bool) : UnitSticky (Machine.bitAt k b) where
  high n hn := by
    by_cases h : n < 32
    · rw [getLsbD_bitAt k b h, decide_eq_false (by omega), Bool.and_false]
    · exact BitVec.getLsbD_of_ge _ n (Nat.not_lt.1 h)

/-! ### The fixed-point ALU -/

/-- The sticky bits of an operation with two outcomes. -/
theorem ite_sticky {p : Prop} [Decidable p] {a b : AluOut} (ha : UnitSticky a.stky) (hb : UnitSticky b.stky) :
    UnitSticky (if p then a else b).stky := by
  split
  · exact ha
  · exact hb

theorem addOut_sticky (m a b : W32) (cin : Bool) : UnitSticky (addOut m a b cin).stky := .bitAt (by decide) _

theorem logicOut_sticky (r : W32) : UnitSticky (logicOut r).stky := .zero

theorem opAbs_sticky (m x : W32) : UnitSticky (opAbs m x).stky := .bitAt (by decide) _

/-! ### The floating-point ALU -/

theorem fltOut_sticky (w : W40) (z v n s i u : Bool) : UnitSticky (fltOut w z v n s i u).stky :=
  ((UnitSticky.bitAt (by decide) u).or (.bitAt (by decide) v)).or (.bitAt (by decide) i)

theorem finiteSum_sticky (m : W32) (sa : Bool) (ea ma : Nat) (sb : Bool) (eb mb : Nat) (half : Bool) :
    UnitSticky (finiteSum m sa ea ma sb eb mb half).stky :=
  ite_sticky (fltOut_sticky ..) (fltOut_sticky ..)

theorem sumF_sticky (m : W32) (a b : Flt) (half : Bool) : UnitSticky (sumF m a b half).stky := by
  unfold sumF
  split
  case h_1 | h_2 | h_4 | h_5 => exact fltOut_sticky ..
  case h_3 => exact ite_sticky (fltOut_sticky ..) (fltOut_sticky ..)
  case h_6 | h_7 | h_8 | h_9 => exact finiteSum_sticky ..

theorem fixOverflow_sticky (m : W32) (s : Bool) : UnitSticky (fixOverflow m s).stky :=
  ite_sticky (fltOut_sticky ..) (fltOut_sticky ..)

theorem convertToFix_sticky (m : W32) (r : FixRound) (x : W40) (k : Int) : UnitSticky (convertToFix m r x k).stky := by
  unfold convertToFix
  split
  · exact fltOut_sticky ..
  · exact fltOut_sticky ..
  · exact fixOverflow_sticky ..
  · exact ite_sticky (fixOverflow_sticky ..) (ite_sticky (fixOverflow_sticky ..) (fltOut_sticky ..))

theorem convertToFloat_sticky (m x : W32) (k : Int) : UnitSticky (convertToFloat m x k).stky :=
  ite_sticky (fltOut_sticky ..) (fltOut_sticky ..)

theorem aluBin_sticky (c : PeIn) (op : AluBin) (x y : Reg) : UnitSticky (aluBin c op x y).stky := by
  cases op with
  | add | sub | addCi | subCi => exact addOut_sticky ..
  | avg => exact .zero
  | and | or | xor | min | max | clip => exact logicOut_sticky _
  | fadd | fsub | fabsAdd | fabsSub | favg => exact sumF_sticky ..
  | scalb =>
    show UnitSticky (opScalb _ _ _).stky
    unfold opScalb
    split <;> exact fltOut_sticky ..
  | fixBy | truncBy => exact convertToFix_sticky ..
  | floatBy => exact convertToFloat_sticky ..
  | copysign | fmin | fmax | fclip => exact ite_sticky (fltOut_sticky ..) (fltOut_sticky ..)

theorem aluUn_sticky (c : PeIn) (op : AluUn) (x : Reg) : UnitSticky (aluUn c op x).stky := by
  cases op with
  | plusCi | plusCiM1 | inc | dec | neg => exact addOut_sticky ..
  | abs => exact opAbs_sticky ..
  | pass | not => exact logicOut_sticky _
  | fneg | fabs | fpass => exact ite_sticky (fltOut_sticky ..) (fltOut_sticky ..)
  | frnd =>
    show UnitSticky (opFrnd _ _).stky
    unfold opFrnd
    split <;> exact fltOut_sticky ..
  | mant =>
    show UnitSticky (opMant _ _).stky
    unfold opMant
    split <;> exact fltOut_sticky ..
  | logb =>
    show UnitSticky (opLogb _ _).stky
    unfold opLogb
    split <;> exact fltOut_sticky ..
  | fix | trunc => exact convertToFix_sticky ..
  | float => exact convertToFloat_sticky ..
  | recips =>
    show UnitSticky (opRecips _ _).stky
    unfold opRecips
    dsimp only
    split
    case h_4 => exact ite_sticky (fltOut_sticky ..) (fltOut_sticky ..)
    case h_1 | h_2 | h_3 => exact fltOut_sticky ..
  | rsqrts =>
    show UnitSticky (opRsqrts _ _).stky
    unfold opRsqrts
    dsimp only
    split
    case h_1 | h_2 => exact fltOut_sticky ..
    case h_3 | h_4 => exact ite_sticky (fltOut_sticky ..) (fltOut_sticky ..)

theorem aluCmp_sticky (c : PeIn) (op : AluCmp) (x y : Reg) : UnitSticky (aluCmp c op x y).stky := by
  cases op with
  | comp | compu => exact .zero
  | fcomp =>
    show UnitSticky (opFcomp _ _ _).stky
    unfold opFcomp
    dsimp only
    split
    · exact fltOut_sticky 0 false false false false true false
    · exact .zero

/-! ### The multiplier, and both units together -/

theorem mulResult_sticky (r : W80) (g f : Bool) : UnitSticky (mulResult r g f).stky := .bitAt (by decide) _

theorem mulAcc_sticky (c : PeIn) (a : Accum) (m : MulMod) (x y : Reg) : UnitSticky (mulAcc c a m x y).stky := by
  cases a <;> exact mulResult_sticky ..

theorem fmulOut_sticky (w : W40) (v u i : Bool) : UnitSticky (fmulOut w v u i).stky :=
  ((UnitSticky.bitAt (by decide) v).or (.bitAt (by decide) u)).or (.bitAt (by decide) i)

theorem opFmul_sticky (m : W32) (x y : W40) : UnitSticky (opFmul m x y).stky := by
  unfold opFmul
  dsimp only
  split <;> exact fmulOut_sticky ..

theorem opDualFix_sticky (m x y : W32) : UnitSticky (opDualFix m x y).2.2.2 :=
  (addOut_sticky m x y false).or (addOut_sticky m x (~~~y) true)

theorem opDualFlt_sticky (m : W32) (x y : W40) : UnitSticky (opDualFlt m x y).2.2.2 :=
  (sumF_sticky m _ _ false).or (sumF_sticky m _ _ false)

theorem mfMulPe_sticky (c : PeIn) (m : MfMul) (q : MfRegs) : UnitSticky (mfMulPe c m q).stky := by
  cases m <;> exact mulAcc_sticky ..

theorem mfFltPe_sticky (c : PeIn) (a : MfFlt) (q : MfRegs) : UnitSticky (mfFltPe c a q).stky := by
  cases a with
  | abs => exact aluUn_sticky ..
  | _ => exact aluBin_sticky ..

/-- A compute sets no sticky bit but those of the ALU and the multiplier. -/
theorem computePe_sticky (k : Compute) (c : PeIn) : UnitSticky (computePe k c).stky := by
  cases k with
  | none | clrMr | mrToReg | regToMr | shBin | shUn | btst | satRn | satMr => exact .zero
  | aluBin => exact aluBin_sticky ..
  | aluUn => exact aluUn_sticky ..
  | aluCmp => exact aluCmp_sticky ..
  | mulRn | mulMr => exact mulAcc_sticky ..
  | rndRn | rndMr => exact mulResult_sticky ..
  | mulF => exact opFmul_sticky ..
  | dualFix => exact opDualFix_sticky ..
  | dualFlt => exact opDualFlt_sticky ..
  | mfFix => exact (mfMulPe_sticky ..).or (aluBin_sticky ..)
  | mfFlt => exact (opFmul_sticky ..).or (mfFltPe_sticky ..)
  | mfDualFix => exact (mfMulPe_sticky ..).or (opDualFix_sticky ..)
  | mfDualFlt => exact (opFmul_sticky ..).or (opDualFlt_sticky ..)

end Sys2Proof.Machine
end

section
/-!
PROOF. LoopTest: what the loop mechanism decides, what it does to the stacks, and the end of a compute row after it
(41_program_flow.md R330, R332, R333).
-/
namespace Sys2Proof.Machine

variable {s t u : State}

/-! ### The decision -/

/-- The count is at its end, or the termination condition holds. -/
def State.testPassed (s : State) : Bool :=
  if condOfCode s.loopTerm = .lce then s.curlcntr == 1 else s.untilBoth (condOfCode s.loopTerm)

/-- A condition-based loop, and a counter loop of three or more instructions, is tested at the fetch of its last
instruction (41_program_flow.md R330). -/
theorem State.loopAct_test (hl : s.looping = true) (hr : s.returning = false) (hk : s.loopType = 0 ∨ s.loopType = 3)
    (hf : s.seq.faddr = s.loopEnd) :
    s.loopAct = if s.testPassed then .expired else .again (decide (condOfCode s.loopTerm = .lce)) := by
  have kind : (s.loopType == 0 || s.loopType == 3) = true := by simpa using hk
  have due : s.testDue = true := by rw [State.testDue, hl, kind, hf, hr, beq_self_eq_true]; rfl
  unfold State.loopAct State.testPassed
  rw [if_pos due]
  cases condOfCode s.loopTerm <;> rfl

/-- A counter loop of one or two instructions is tested at its last instruction (41_program_flow.md R332). -/
theorem State.loopAct_short (hl : s.looping = true) (hk : s.loopType = 1 ∨ s.loopType = 2) (hp : s.seq.pc = s.loopEnd) :
    s.loopAct = if s.curlcntr == 1 then .shortExpired else .shortAgain := by
  have kind : (s.loopType == 1 || s.loopType == 2) = true := by simpa using hk
  have other : (s.loopType == 0 || s.loopType == 3) = false := by
    rcases hk with hk | hk <;> rw [hk] <;> rfl
  have due : s.testDue = false := by rw [State.testDue, other, Bool.and_false, Bool.false_and, Bool.false_and]
  have last : (s.looping && (s.loopType == 1 || s.loopType == 2) && s.seq.pc == s.loopEnd) = true := by
    rw [hl, kind, hp, beq_self_eq_true]
    rfl
  rw [State.loopAct, due, if_neg Bool.false_ne_true, if_pos last]

/-! ### The stacks -/

theorem State.Steady.loopStep_eq (h : s.Steady) : s.loopStep s.start = .ok s.begun := by
  have begin := h.begin.1
  rwa [State.begin, h.1.loopReady, Run.ok_bind] at begin

theorem State.noteExit_rest (s t : State) :
    s.noteExit t = { t with seq := { t.seq with lastPasses := (s.noteExit t).seq.lastPasses } } := by
  unfold State.noteExit
  split <;> rfl

/-- The end of a loop: one loop and one entry of the PC stack fewer, and LSEM says whether the loop stacks are empty. -/
theorem State.endLoop_popped (h : s.endLoop t = .ok u) : u.seq.loopDepth = t.seq.loopDepth - 1 ∧
    u.seq.pcstkp = t.seq.pcstkp - 1 ∧ u.reg.stkyx.getLsbD 26 = (t.seq.loopDepth - 1 == 0) := by
  obtain ⟨v, hv, h⟩ := Run.bind_eq_ok.1 h
  obtain ⟨w, hw, h⟩ := Run.bind_eq_ok.1 h
  obtain ⟨-, -, rfl⟩ := State.popLoop_eq_ok.1 hv
  obtain ⟨-, -, rfl⟩ := State.popPc_eq_ok.1 hw
  obtain rfl := Except.ok.inj h
  rw [State.noteExit_rest]
  have flag (x : W32) (b c : Bool) :
      (putBits (putBits x 0x04000000 (bitAt 26 b)) 0x00600000 (bitAt 22 c)).getLsbD 26 = b := by
    simp only [putBits, BitVec.getLsbD_or, BitVec.getLsbD_and, BitVec.getLsbD_not, getLsbD_bitAt _ _ (by decide : 26 < 32)]
    cases b <;> simp
  split <;> exact ⟨rfl, rfl, flag ..⟩

/-- Where the loop goes round with its counter, the count goes down by one. -/
theorem State.Steady.begun_counted (h : s.Steady) (hl : s.looping = true) (hd : s.seq.loopDepth ≤ 6)
    (ha : s.loopAct = .again true ∨ s.loopAct = .shortAgain) : s.begun.seq.loopDepth = s.seq.loopDepth ∧
      s.begun.seq.pcstkp = s.seq.pcstkp ∧ s.begun.curlcntr = s.curlcntr - 1 := by
  have counted : s.begun = s.start.setCount (s.seq.loopDepth - 1) (s.curlcntr - 1) := by
    have step := h.loopStep_eq
    unfold State.loopStep at step
    rcases ha with ha | ha <;> rw [ha] at step <;> exact (Except.ok.inj step).symm
  have some : s.seq.loopDepth ≠ 0 := by simpa [State.looping] using hl
  have place : s.seq.loopDepth - 1 < 6 := by omega
  rw [counted]
  exact ⟨rfl, rfl, by simp [State.curlcntr, some, place]⟩

/-- Where a condition-based loop goes round, nothing happens to the stacks. -/
theorem State.Steady.begun_again (h : s.Steady) (ha : s.loopAct = .again false) : s.begun = s.start := by
  have step := h.loopStep_eq
  unfold State.loopStep at step
  rw [ha] at step
  exact (Except.ok.inj step).symm

theorem State.Steady.begun_popped (h : s.Steady) (ha : s.loopAct = .expired ∨ s.loopAct = .shortExpired) :
    s.begun.seq.loopDepth = s.seq.loopDepth - 1 ∧ s.begun.seq.pcstkp = s.seq.pcstkp - 1 ∧
      s.begun.reg.stkyx.getLsbD 26 = (s.seq.loopDepth - 1 == 0) := by
  have step := h.loopStep_eq
  unfold State.loopStep at step
  rcases ha with ha | ha <;> rw [ha] at step <;> exact State.endLoop_popped (t := s.start) step

/-! ### The end of the row -/

/-- Outside the delay slots of a return the fetch behind a loop that ends goes straight on (41_program_flow.md R330). -/
theorem State.WindowAfter.expired {q : Sequencer} (h : s.WindowAfter q) (ha : s.loopAct = .expired)
    (hr : s.returning = false) : q.pc = s.seq.daddr ∧ q.daddr = s.seq.faddr ∧ q.faddr = s.seq.faddr + 1 := by
  have straight : ¬ (s.seq.dbReturn = true ∧ s.seq.dbSlots ≠ 0 ∧ s.looping = true ∧ s.loopEnd = s.seq.faddr) := by
    rintro ⟨back, slots, -⟩
    simp [State.returning, back, slots] at hr
  simpa only [State.WindowAfter, ha, if_neg straight] using h

/-- What a compute row leaves of the stacks is what the loop mechanism made of them. -/
structure LoopKept (b u : State) : Prop where
  loopDepth : u.seq.loopDepth = b.seq.loopDepth
  pcstkp : u.seq.pcstkp = b.seq.pcstkp
  curlcntr : u.curlcntr = b.curlcntr
  lsem : u.reg.stkyx.getLsbD 26 = b.reg.stkyx.getLsbD 26

theorem State.Advanced.loopKept {k : Compute} {ex ey : Bool} (h : s.Advanced (s.runPes t (computePe k) ex ey) u) :
    LoopKept t u := by
  have seq : (s.runPes t (computePe k) ex ey).seq = t.seq := State.runPes_seq ..
  have sticky := s.stky_runPes t (computePe k) ex ey false
  have stkyx : u.reg.stkyx = (s.runPes t (computePe k) ex ey).reg.stkyx := by rw [h.1]
  have depth : u.seq.loopDepth = t.seq.loopDepth := by rw [h.1, ← seq]
  have count : u.seq.loopCount = t.seq.loopCount := by rw [h.1, ← seq]
  refine ⟨depth, by rw [h.1, ← seq], State.curlcntr_congr depth count, ?_⟩
  rw [stkyx]
  refine (congrArg (fun v : W32 => v.getLsbD 26) sticky).trans ?_
  cases ex
  · rfl
  · show (t.reg.stkyx ||| _).getLsbD 26 = _
    rw [BitVec.getLsbD_or, (computePe_sticky k _).high 26 (by decide), Bool.or_false]

/-- Settles O51: the window and the stacks follow the decision of the loop mechanism. -/
theorem loopTest : Obligations.LoopTest := by
  intro i k s hi hk h hl hd hr c popped kept
  obtain ⟨u, run, hadv⟩ := (computeRowsComplete i k s hi).1 hk h
  have rest : LoopKept s.begun u := hadv.loopKept
  have window := hadv.2
  have some : s.seq.loopDepth ≠ 0 := by simpa [State.looping] using hl
  have out (ha : s.loopAct = .expired ∨ s.loopAct = .shortExpired) : popped u := by
    obtain ⟨depth, pcstkp, lsem⟩ := h.begun_popped ha
    refine ⟨rest.loopDepth.trans depth, rest.pcstkp.trans pcstkp, ?_⟩
    rw [rest.lsem, lsem, beq_iff_eq]
    omega
  have round (ha : s.loopAct = .again true ∨ s.loopAct = .shortAgain) : kept u ∧ u.curlcntr = s.curlcntr - 1 := by
    obtain ⟨depth, pcstkp, count⟩ := h.begun_counted hl hd ha
    exact ⟨⟨rest.loopDepth.trans depth, rest.pcstkp.trans pcstkp⟩, rest.curlcntr.trans count⟩
  refine ⟨u, run, fun kind fetch => ?_, fun kind last => ?_⟩
  · have act : s.loopAct = if s.testPassed then .expired else .again (decide (c = .lce)) :=
      State.loopAct_test hl hr kind fetch
    show u.seq.pc = s.seq.daddr ∧ u.seq.daddr = s.seq.faddr ∧
      (s.testPassed = false → u.seq.faddr = s.topPc ∧ kept u ∧
        u.curlcntr = if c = .lce then s.curlcntr - 1 else s.curlcntr) ∧
      (s.testPassed = true → u.seq.faddr = s.loopEnd + 1 ∧ popped u)
    cases passed : s.testPassed with
    | true =>
      rw [passed, if_pos rfl] at act
      obtain ⟨pc, daddr, faddr⟩ := window.expired act hr
      exact ⟨pc, daddr, nofun, fun _ => ⟨fetch ▸ faddr, out (.inl act)⟩⟩
    | false =>
      rw [passed, if_neg Bool.false_ne_true] at act
      simp only [State.WindowAfter, act] at window
      obtain ⟨pc, daddr, faddr⟩ := window
      refine ⟨pc, daddr, fun _ => ⟨faddr, ?_⟩, nofun⟩
      by_cases counts : c = .lce
      · rw [if_pos counts]
        rw [decide_eq_true counts] at act
        exact round (.inl act)
      · rw [if_neg counts]
        rw [decide_eq_false counts] at act
        have begun := h.begun_again act
        rw [begun] at rest
        exact ⟨⟨rest.loopDepth, rest.pcstkp⟩, rest.curlcntr⟩
  · have act := State.loopAct_short hl kind last
    refine ⟨fun more => ?_, fun one => ?_⟩
    · rw [if_neg (by simpa using more)] at act
      simp only [State.WindowAfter, act] at window
      obtain ⟨pc, daddr, faddr⟩ := window
      obtain ⟨same, count⟩ := round (.inr act)
      exact ⟨pc, daddr, faddr, same, count⟩
    · rw [if_pos (by simpa using one)] at act
      simp only [State.WindowAfter, act] at window
      obtain ⟨pc, daddr, faddr⟩ := window
      exact ⟨pc, daddr, faddr, out (.inr act)⟩

end Sys2Proof.Machine
end

section
/-!
PROOF. StepRunsDecoded: the word fetched, and the step that runs the instruction it decodes to (41_program_flow.md R300,
60_exceptions.md R620).
-/
namespace Sys2Proof.Machine

variable {s : State} {w : W48}

/-- The word that the cache gave at the fetch. -/
theorem State.fetch_cached (h : s.seq.cachedPc = some w) : s.fetch = .ok w := by
  simp only [State.fetch, h]

/-- The word that memory holds; an external one needs the bus and a bank that is set up for it. -/
theorem State.fetch_memory {k : Nat} (hc : s.seq.cachedPc = none) (hk : fetchKey s.seq.pc = some k)
    (out : s.seq.pc.getLsbD 23 = true →
      s.busMine = true ∧ bankOk s.iop.syscon s.iop.wait (s.seq.pc.setWidth 32) true = true) :
    s.fetch = .ok (BitVec.ofNat 48 (s.mem.load k 6)) := by
  simp only [State.fetch, hc, hk]
  split
  · next far =>
    obtain ⟨bus, bank⟩ := out far
    simp only [bus, bank, if_true, need_true, Run.ok_bind]
  · rfl

/-- A step that enters no interrupt, with no event due and the core not idle, is the instruction's. -/
theorem step_eq_runInstr (hid : s.pins.id ≠ 7) (hp : s.iop.resetPending = false) (hi : s.inputs = [])
    (idle : s.seq.idle = false) (entry : s.entering = none) : step s = s.runInstr := by
  simp only [step, State.oneStep, if_neg hid, hp, hi, State.coreStep, entry, idle, Bool.false_eq_true, if_false]

/-- No interrupt is entered while an instruction waits, where an entry is held off, and where none is recognised
(60_exceptions.md R620). -/
theorem State.entering_none
    (h : s.seq.waiting = true ∨ s.seq.dbSlots ≠ 0 ∨ s.recent.pcstkp = true ∨ s.recognised = none) :
    s.entering = none := by
  unfold State.entering State.entryHeld
  split
  · rfl
  · next free =>
    rcases h with wait | slots | written | none
    · simp [wait] at free
    · simp [slots] at free
    · simp [written] at free
    · exact none

/-- Settles O3: the fetch gives the word, and the step does what its decoding asks for. -/
theorem stepRunsDecoded : Obligations.StepRunsDecoded := by
  intro s w hid hp hi idle entry word
  have runs := step_eq_runInstr hid hp hi idle (State.entering_none entry)
  have fetched : s.fetch = .ok w := by
    rcases word with cached | ⟨uncached, k, hk, rfl, out⟩
    · exact State.fetch_cached cached
    · exact State.fetch_memory uncached hk out
  refine ⟨fun i hd => ?_, fun e hd => ?_⟩
  · simp only [runs, State.runInstr, fetched, hd]
    cases exec i s <;> rfl
  · simp only [runs, State.runInstr, fetched, hd]

end Sys2Proof.Machine
end

section
/-!
PROOF. LoadImmCompletes: an immediate is written to its register and, in SIMD mode, to the complement (42_immediate_move.md
R354), and the write leaves the fetch pipeline.
-/
namespace Sys2Proof.Machine

variable {s t t1 : State} {r : UReg} {v : W32}

/-- An immediate load leaves the fetch pipeline: both its halves are register writes. -/
theorem State.FetchesLike.putImmediate {o : State} (h : o.FetchesLike t) (r : UReg) (v : W32) :
    Run.Sat (s.putImmediate t r v) o.FetchesLike := by
  unfold State.putImmediate
  refine Run.sat_seq fun _ => Run.sat_seq fun _ => Run.sat_bind (h.write32 r v) fun t1 h1 => ?_
  split
  · next c _ => exact h1.write32 c v
  · exact Run.sat_ok h1

/-- Where the flow allows the write, an immediate load is the write of the register and then that of its complement, if the
mode asks for one. -/
theorem State.Calm.putImmediate_eq_ok {t0 : State} (h : s.Calm) (hr : s.FlowWritable r) (explicit : t0.write32 r v = .ok t1)
    (implicit : ∀ c, (if s.simd then r.comp else none) = some c → t1.write32 c v = .ok t)
    (single : (if s.simd then r.comp else none) = none → t1 = t) : s.putImmediate t0 r v = .ok t := by
  simp only [State.putImmediate, h.1.1.useMode1, h.mayWrite hr, explicit, Run.ok_bind]
  split
  · next c hc => exact implicit c hc
  · next hc => rw [single hc]

/-- An immediate load whose writes are done reaches the end of the instruction. -/
theorem State.Steady.exec_loadImm (h : s.Steady) (put : s.putImmediate s.begun r v = .ok t) :
    ∃ u, exec (.loadImm r v) s = .next u ∧ s.Advanced t u := by
  have pipeline : s.FetchesLike t := State.FetchesLike.putImmediate ⟨h.begun_daddr, h.begun_faddr⟩ r v t put
  obtain ⟨u, hu, hadv⟩ := h.ends_of_fetchesLike pipeline
  refine ⟨u, ?_, hadv⟩
  show execLoadImm r v s = _
  simp only [execLoadImm, h.begin.1, put, Run.ok_bind, hu]

/-- A program write leaves a register that programs cannot write as it is, and it has no complement (10_state.md R24,
92_eei_decisions.md D12). -/
theorem State.write32_readOnly (hr : r ∈ ([.pc, .faddr, .daddr, .emuclk, .emuclk2] : List UReg)) (t : State) (v : W32) :
    t.write32 r v = .ok t ∧ r.comp = none := by
  simp only [List.mem_cons, List.not_mem_nil, or_false] at hr
  rcases hr with rfl | rfl | rfl | rfl | rfl <;> exact ⟨rfl, rfl⟩

/-- Settles O38: the one or two writes are made, and of a read-only register the write changes nothing. -/
theorem loadImmCompletes : Obligations.LoadImmCompletes := by
  intro r v s h hr
  refine ⟨fun t1 t explicit rest => ?_, fun readOnly => ?_⟩
  · refine h.1.exec_loadImm (h.putImmediate_eq_ok hr explicit (fun c hc => ?_) fun hc => ?_)
    · simpa only [hc] using rest
    · simpa only [hc, Except.ok.injEq] using rest
  · obtain ⟨kept, alone⟩ := s.begun.write32_readOnly readOnly v
    exact h.1.exec_loadImm (h.putImmediate_eq_ok hr kept (by simp [alone]) fun _ => rfl)

end Sys2Proof.Machine
end

section
/-!
PROOF. SpecWords: each word that the spec writes out is the encoding of the instruction it stands for.
-/
namespace Sys2Proof.Machine

/-- The encoding of a well-formed instruction decodes to it. -/
theorem decode_of_encode {i : Instr} {w : W48} (hw : i.WellFormed = true) (he : encode i = w) : decode w = .ok i :=
  he ▸ decode_encode hw

/-- Settles O2: each word is what the encoder makes of its instruction. -/
theorem specWords : Obligations.SpecWords := by
  unfold Obligations.SpecWords
  and_intros
  all_goals exact decode_of_encode rfl (by decide)

end Sys2Proof.Machine
end

section
/-!
PROOF. BitOperations: BIT SET, CLR and TGL as register writes that leave the fetch pipeline, BIT TST and BIT XOR as a write of
the bit test flag (43_misc.md R370 to R374, R379).
-/
namespace Sys2Proof.Machine

variable {s t t1 : State} {k : SReg} {i : Instr}

/-! ### BIT SET, CLR and TGL -/

/-- The instructions of Type 18 that write a register. -/
theorem exec_bitWrite {v : W32} {f : W32 → W32}
    (hi : (i, f) ∈ [(Instr.bitSet k v, fun x => x ||| v), (.bitClr k v, fun x => x &&& ~~~v), (.bitTgl k v, fun x => x ^^^ v)])
    (s : State) : exec i s = bitWrite k f s := by
  simp only [List.mem_cons, Prod.mk.injEq, List.not_mem_nil, or_false] at hi
  rcases hi with ⟨rfl, rfl⟩ | ⟨rfl, rfl⟩ | ⟨rfl, rfl⟩ <;> rfl

/-- A read-modify-write whose writes are done reaches the end of the instruction; the complement is written if the mode asks
for it. -/
theorem State.Steady.bitWrite_ends (h : s.Steady) {f : W32 → W32}
    (explicit : s.begun.writeSys k (f (s.readBack s.begun k)) = .ok t1)
    (implicit : ∀ d, (if s.simd then sregComp k else none) = some d → t1.writeSys d (f (s.readBack s.begun d)) = .ok t)
    (single : (if s.simd then sregComp k else none) = none → t1 = t) :
    ∃ u, bitWrite k f s = .next u ∧ s.Advanced t u := by
  have pipe1 : s.FetchesLike t1 := State.FetchesLike.writeSys ⟨h.begun_daddr, h.begun_faddr⟩ k _ t1 explicit
  have pipe : s.FetchesLike t := by
    cases hd : (if s.simd then sregComp k else none) with
    | some d => exact pipe1.writeSys d _ t (implicit d hd)
    | none => exact single hd ▸ pipe1
  obtain ⟨u, hu, hadv⟩ := h.ends_of_fetchesLike pipe
  refine ⟨u, ?_, hadv⟩
  simp only [bitWrite, h.1.useMode1, h.begin.1, explicit, Run.ok_bind, ite_self]
  split
  · next d hd => rw [implicit d hd, Run.ok_bind, hu]
  · next hd => rw [single hd, hu]

/-! ### BIT TST and BIT XOR -/

/-- The instructions of Type 18 that test a register. -/
theorem exec_bitTest {v : W32} {p : W32 → Bool}
    (hi : (i, p) ∈ [(Instr.bitTst k v, fun x => x &&& v == v), (.bitXor k v, fun x => x == v)]) (s : State) :
    exec i s = bitTest k p s := by
  simp only [List.mem_cons, Prod.mk.injEq, List.not_mem_nil, or_false] at hi
  rcases hi with ⟨rfl, rfl⟩ | ⟨rfl, rfl⟩ <;> rfl

/-- BTF is bit 18 of ASTAT, and a write of it leaves the other bits (10_state.md R37). -/
theorem putBtf_bits (a : W32) (b : Bool) :
    (putBtf a b).getLsbD 18 = b ∧ putBtf a b &&& ~~~0x40000#32 = a &&& ~~~0x40000#32 := by
  refine ⟨?_, putBits_outside _ _ _ _ (by decide)⟩
  simp only [putBtf, putBits, BitVec.getLsbD_or, BitVec.getLsbD_and, BitVec.getLsbD_not,
    getLsbD_bitAt _ _ (by decide : 18 < 32)]
  cases b <;> simp

/-- The written state of BIT TST and BIT XOR. -/
def State.tested (s : State) (k : SReg) (p : W32 → Bool) : State :=
  { s.begun with
    reg := { s.begun.reg with astatx := putBtf s.reg.astatx (p (s.readSys k)), astaty := s.testY k p }
    recent := { s.begun.recent with btf := true } }

theorem State.Steady.bitTest_ends (h : s.Steady) (p : W32 → Bool) :
    ∃ u, bitTest k p s = .next u ∧ s.Advanced (s.tested k p) u := by
  obtain ⟨u, hu, hadv⟩ := h.ends (t := s.tested k p) rfl
  refine ⟨u, ?_, hadv⟩
  simp only [bitTest, h.1.useMode1, h.begin.1, Run.ok_bind]
  exact hu

/-- In SISD mode a test leaves ASTATy (43_misc.md R370, D19). -/
theorem State.testY_sisd (hs : s.simd = false) (p : W32 → Bool) : s.testY k p = s.reg.astaty := by
  rw [State.testY, if_neg (Bool.eq_false_iff.1 hs)]

/-- In SIMD mode the complement is tested for PEy. -/
theorem State.testY_comp (hs : s.simd = true) {d : SReg} (hd : sregComp k = some d) (p : W32 → Bool) :
    s.testY k p = putBtf s.reg.astaty (p (s.readSys d)) := by
  simp only [State.testY, hs, if_true, hd]

/-- Settles O52: the one or two writes are made; the tests write the flag. -/
theorem bitOperations : Obligations.BitOperations := by
  intro k v s h
  refine ⟨fun i f t1 t hi explicit rest => ?_, fun i p hi => ?_⟩
  · rw [exec_bitWrite hi]
    refine h.bitWrite_ends explicit (fun d hd => ?_) fun hd => ?_
    · simpa only [hd] using rest
    · simpa only [hd, Except.ok.injEq] using rest
  · obtain ⟨u, hu, hadv⟩ := h.bitTest_ends (k := k) p
    have regs : u.reg = (s.tested k p).reg := by rw [hadv.1]
    have x : u.reg.astatx = putBtf s.reg.astatx (p (s.readSys k)) := by rw [regs]; rfl
    have y : u.reg.astaty = s.testY k p := by rw [regs]; rfl
    obtain ⟨flag, others⟩ := putBtf_bits s.reg.astatx (p (s.readSys k))
    refine ⟨u, (exec_bitTest hi s).trans hu, x ▸ flag, x ▸ others, fun d hs hd => ?_, fun hs => ?_, ?_⟩
    · rw [y, State.testY_comp hs hd]
      exact (putBtf_bits _ _).1
    · rw [y, State.testY_sisd hs]
    · rw [x, y]
      exact hadv

end Sys2Proof.Machine
end

section
/-!
PROOF. The pushes and pops of a Type 20 word, each as the one record update it is, made or left out (41_program_flow.md R307,
43_misc.md R384 to R389).
-/
namespace Sys2Proof.Machine

variable {w : State} {b : Bool}

/-! ### Flags of the stacks -/

/-- The bits of `m` replaced by those of `v`, if `b`. -/
def putBitsIf (b : Bool) (a m v : W32) : W32 := if b then putBits a m v else a

theorem getLsbD_putBitsIf_out (b : Bool) (a v : W32) {m : W32} {j : Nat} (h : m.getLsbD j = false) :
    (putBitsIf b a m v).getLsbD j = a.getLsbD j := by
  unfold putBitsIf putBits
  split
  · rw [BitVec.getLsbD_or, BitVec.getLsbD_and, BitVec.getLsbD_and, BitVec.getLsbD_not, h, Bool.and_false, Bool.or_false,
      Bool.not_false, Bool.and_true]
    by_cases hj : j < 32
    · rw [decide_eq_true hj, Bool.and_true]
    · rw [BitVec.getLsbD_of_ge a j (Nat.le_of_not_lt hj), Bool.false_and]
  · rfl

theorem getLsbD_putBitsIf_in (b : Bool) (a v : W32) {m : W32} {j : Nat} (h : m.getLsbD j = true) :
    (putBitsIf b a m v).getLsbD j = if b then v.getLsbD j else a.getLsbD j := by
  unfold putBitsIf putBits
  split
  · rw [BitVec.getLsbD_or, BitVec.getLsbD_and, BitVec.getLsbD_and, BitVec.getLsbD_not, h, Bool.not_true, Bool.and_false,
      Bool.and_false, Bool.false_or, Bool.and_true]
  · rfl

/-- A flag of `m` that `v` clears. -/
theorem getLsbD_putBitsIf_clear (b : Bool) (a : W32) {m v : W32} {j : Nat} (h : m.getLsbD j = true)
    (hv : v.getLsbD j = false) : (putBitsIf b a m v).getLsbD j = (a.getLsbD j && !b) := by
  rw [getLsbD_putBitsIf_in b a v h, hv]
  cases b <;> simp

/-- A push of the PC stack leaves it not empty. -/
theorem pcem_pcFlags {p : BitVec 5} (h : p.toNat < 30) : (pcFlags (p + 1)).getLsbD 22 = false := by
  have some : (p + 1 == 0) = false := beq_false_of_ne (by bv_omega)
  rw [pcFlags, some, BitVec.getLsbD_or, getLsbD_bitAt _ _ (by decide), getLsbD_bitAt _ _ (by decide)]
  simp

/-- FLUSH CACHE changes the cache alone (43_misc.md R376). -/
theorem State.flushIf_eq (w : State) (b : Bool) : w.flushIf b =
    { w with seq := { w.seq with cache := if b then .replicate 16 [] else w.seq.cache } } := by
  unfold State.flushIf
  split <;> rfl

/-! ### Pushes -/

/-- `w` with LCNTR and a zero loop address on the loop stacks, if `b`. -/
def State.loopPushIf (w : State) (b : Bool) : State := if b then w.pushLoop 0 w.lcntr else w

theorem State.loopPushIf_eq (h : w.seq.loopDepth < 6) (b : Bool) : w.loopPushIf b =
    { w with
      seq := { w.seq with
        loopDepth := if b then w.seq.loopDepth + 1 else w.seq.loopDepth
        loopAddr := (w.loopPushIf b).seq.loopAddr
        loopCount := (w.loopPushIf b).seq.loopCount }
      reg := { w.reg with stkyx := putBitsIf b w.reg.stkyx 0x04000000 0 }
      stackBits := (w.loopPushIf b).stackBits } := by
  cases b with
  | false => rfl
  | true =>
    rw [State.loopPushIf, if_pos rfl, State.pushLoop_room h]
    rfl

theorem State.tops_loopPushIf (h : w.seq.loopDepth < 6) (b : Bool) :
    (w.loopPushIf b).laddr = (if b then 0 else w.laddr) ∧
      (w.loopPushIf b).curlcntr = (if b then w.lcntr else w.curlcntr) := by
  cases b with
  | false => exact ⟨rfl, rfl⟩
  | true => exact ⟨State.laddr_pushLoop h _ _, State.curlcntr_pushLoop h _ _⟩

/-- `w` with the status registers on the status stack and the MODE1 bits of `m` cleared, if `b`. -/
def State.statusPushIf (w : State) (b : Bool) (m : W32) : State := if b then (w.pushSts m).noteStatus w else w

theorem State.pushSts_room (h : w.seq.statusStack.length < 15) (m : W32) : w.pushSts m =
    { w with
      seq := { w.seq with statusStack := ⟨w.reg.astatx, w.reg.astaty, w.reg.mode1⟩ :: w.seq.statusStack }
      reg := { w.reg with mode1 := w.reg.mode1 &&& ~~~m, stkyx := putBits w.reg.stkyx 0x01000000 0 }
      stackBits := w.stackBits &&& ~~~0x01000000 } := by
  have room : ¬ w.seq.statusStack.length ≥ 15 := Nat.not_le.2 h
  simp only [State.pushSts, room, if_false]
  rfl

/-- Where no compute stands beside it whose flags it could drop, a note of the status registers is a note of changes. -/
theorem State.noteStatus_rest {t : State} (hx : t.recent.astatx = 0) (hy : t.recent.astaty = 0) (s : State) :
    t.noteStatus s = { t with changed := (t.noteStatus s).changed } := by
  have kept : { t.recent with astatx := 0, astaty := 0 } = t.recent := by
    generalize t.recent = r at *
    cases r
    cases hx
    cases hy
    rfl
  exact congrArg (fun r => { t with changed := (t.noteStatus s).changed, recent := r }) kept

theorem State.statusPushIf_eq (h : w.seq.statusStack.length < 15) (hx : w.recent.astatx = 0) (hy : w.recent.astaty = 0)
    (b : Bool) (m : W32) : w.statusPushIf b m =
    { w with
      seq := { w.seq with
        statusStack := if b then ⟨w.reg.astatx, w.reg.astaty, w.reg.mode1⟩ :: w.seq.statusStack else w.seq.statusStack }
      reg := { w.reg with
        mode1 := if b then w.reg.mode1 &&& ~~~m else w.reg.mode1
        stkyx := putBitsIf b w.reg.stkyx 0x01000000 0 }
      changed := (w.statusPushIf b m).changed
      stackBits := (w.statusPushIf b m).stackBits } := by
  cases b with
  | false => rfl
  | true =>
    have noted := State.noteStatus_rest (t := w.pushSts m) (by rwa [State.pushSts_room h]) (by rwa [State.pushSts_room h]) w
    rw [State.statusPushIf, if_pos rfl, noted, State.pushSts_room h]
    rfl

/-- `w` with `v` on the PC stack, if `b`. -/
def State.pcPushIf (w : State) (b : Bool) (v : W24) : State := if b then w.pushPc v else w

theorem State.pcPushIf_eq (h : w.seq.pcstkp.toNat < 30) (b : Bool) (v : W24) : w.pcPushIf b v =
    { w with
      seq := { w.seq with
        pcstkp := if b then w.seq.pcstkp + 1 else w.seq.pcstkp
        pcStack := (w.pcPushIf b v).seq.pcStack }
      reg := { w.reg with
        stkyx := putBitsIf b w.reg.stkyx 0x00600000 (pcFlags (w.seq.pcstkp + 1))
        irptl := (w.pcPushIf b v).reg.irptl }
      stackBits := (w.pcPushIf b v).stackBits } := by
  cases b with
  | false => rfl
  | true =>
    have flags : (w.pushPc v).reg.stkyx = putBits w.reg.stkyx 0x00600000 (pcFlags (w.seq.pcstkp + 1)) := by
      have room : ¬ w.seq.pcstkp.toNat ≥ 30 := Nat.not_le.2 h
      simp only [State.pushPc, room, if_false]
      rw [State.occurIf_sovfi]
      rfl
    rw [State.pcPushIf, if_pos rfl, if_pos rfl, putBitsIf, if_pos rfl, ← flags]
    have seq := State.pushPc_seq h v
    have rest := w.pushPc_rest v
    generalize w.pushPc v = u at *
    rw [rest, seq]

/-- A push of the PC stack latches nothing but SOVFI, where the stack comes close to its end. -/
theorem State.pcPushIf_irptl {v : W24} (h : (w.pcPushIf b v).reg.irptl ≠ w.reg.irptl) :
    b = true ∧ 28 ≤ w.seq.pcstkp.toNat := by
  cases b with
  | false => exact absurd rfl h
  | true =>
    refine ⟨rfl, ?_⟩
    by_contra far
    have room : ¬ w.seq.pcstkp.toNat ≥ 30 := by omega
    have quiet : ¬ (w.seq.pcstkp + 1).toNat ≥ 29 := by bv_omega
    refine h ?_
    simp only [State.pcPushIf, if_true, State.pushPc, room, if_false, quiet, decide_false]
    rfl

/-! ### Pops -/

/-- `w` without the top of the loop stacks, if `b`. -/
def State.loopPopIf (w : State) (b : Bool) : State :=
  { w with
    seq := { w.seq with loopDepth := if b then w.seq.loopDepth - 1 else w.seq.loopDepth }
    reg := { w.reg with stkyx := putBitsIf b w.reg.stkyx 0x04000000 (bitAt 26 (w.seq.loopDepth - 1 == 0)) }
    stackBits := if b then w.stackBits &&& ~~~0x04000000 else w.stackBits }

theorem State.popLoop_if (ho : w.seq.stackOverflow = false) (h : b = true → w.seq.loopDepth ≠ 0) :
    (if b then w.popLoop else .ok w) = .ok (w.loopPopIf b) := by
  cases b with
  | false => rfl
  | true => exact State.popLoop_eq_ok.2 ⟨ho, bne_iff_ne.2 (h rfl), rfl⟩

/-- `w` with the status registers taken from the entry `e`, which leaves `rest`, if `b`. -/
def State.statusPopIf (w : State) (b : Bool) (e : StatusEntry) (rest : List StatusEntry) : State :=
  { w with
    seq := { w.seq with statusStack := if b then rest else w.seq.statusStack }
    reg := { w.reg with
      mode1 := if b then e.mode1 else w.reg.mode1
      astatx := if b then e.astatx else w.reg.astatx
      astaty := if b then e.astaty else w.reg.astaty
      stkyx := putBitsIf b w.reg.stkyx 0x01000000 (bitAt 24 rest.isEmpty) }
    changed := if b then ((w.restore e rest).noteStatus w).changed else w.changed
    stackBits := if b then w.stackBits &&& ~~~0x01000000 else w.stackBits }

theorem State.popSts_if (ho : w.seq.stackOverflow = false) (hx : w.recent.astatx = 0) (hy : w.recent.astaty = 0)
    {e : StatusEntry} {rest : List StatusEntry} (h : b = true → w.seq.statusStack = e :: rest) :
    (if b then w.popSts else .ok w) = .ok (w.statusPopIf b e rest) := by
  cases b with
  | false => rfl
  | true =>
    refine State.popSts_eq_ok.2 ⟨ho, e, rest, h rfl, ?_⟩
    have noted := State.noteStatus_rest
      (t := (w.restore e rest).stackState 0x01000000 (bitAt 24 rest.isEmpty)) hx hy w
    rw [noted]
    rfl

/-- `w` without the top of the PC stack, if `b`. -/
def State.pcPopIf (w : State) (b : Bool) : State :=
  { w with
    seq := { w.seq with pcstkp := if b then w.seq.pcstkp - 1 else w.seq.pcstkp }
    reg := { w.reg with stkyx := putBitsIf b w.reg.stkyx 0x00600000 (bitAt 22 (w.seq.pcstkp - 1 == 0)) }
    stackBits := if b then w.stackBits &&& ~~~0x00600000 else w.stackBits }

theorem State.popPc_if (ho : w.seq.stackOverflow = false) (h : b = true → w.seq.pcstkp ≠ 0) :
    (if b then w.popPc else .ok w) = .ok (w.pcPopIf b) := by
  cases b with
  | false => rfl
  | true => exact State.popPc_eq_ok.2 ⟨ho, h rfl, rfl⟩

/-! ### Pops of an empty stack -/

theorem State.popLoop_empty (ho : w.seq.stackOverflow = false) (h : w.seq.loopDepth = 0) :
    w.popLoop = .error (.fault .stackUnderflow) := by
  simp [State.popLoop, State.looping, ho, h]

theorem State.popSts_empty (ho : w.seq.stackOverflow = false) (h : w.seq.statusStack = []) :
    w.popSts = .error (.fault .stackUnderflow) := by
  simp [State.popSts, ho, h]

theorem State.popPc_empty (ho : w.seq.stackOverflow = false) (h : w.seq.pcstkp = 0) :
    w.popPc = .error (.fault .stackUnderflow) := by
  simp [State.popPc, ho, h]

end Sys2Proof.Machine
end

section
/-!
PROOF. StackOperations: the pushes and the pops of a Type 20 word one after the other, between the begin and the end of a step
(43_misc.md R375, R384 to R389).
-/
namespace Sys2Proof.Machine

variable {s w : State} {i : Instr} {q : StackAsk}

theorem State.StackReady.steady (h : s.StackReady) : s.Steady := h.1.1

theorem State.StackReady.noTest (h : s.StackReady) : s.loopAct = .none :=
  let ⟨_, act, _⟩ := h
  act

theorem State.StackReady.noOverflow (h : s.StackReady) : s.seq.stackOverflow = false :=
  let ⟨_, overflow, _, _⟩ := h.steady
  overflow

/-- A state in which the stacks may be used lets a Type 20 word use them. -/
theorem State.StackReady.stackPlace (h : s.StackReady) : s.stackPlace true = .ok () := by
  obtain ⟨⟨⟨-, overflow, -⟩, short⟩, -, slots⟩ := h
  simp [State.stackPlace, slots, short, overflow]

theorem State.StackReady.begins (h : s.StackReady) : s.begin = .ok s.start :=
  h.steady.begun_eq h.noTest ▸ h.steady.begin.1

/-! ### The pushes -/

/-- `w` after the pushes of the loop stacks and of the status stack that `q` asks for. -/
def State.loopStsPushes (w : State) (q : StackAsk) : State := (w.loopPushIf q.loop).statusPushIf q.sts w.reg.mmask

/-- `w` after the pushes that `q` asks for; the PC stack takes `v`. -/
def State.pushes (w : State) (q : StackAsk) (v : W24) : State := ((w.loopStsPushes q).pcPushIf q.pc v).flushIf q.flush

theorem State.StackReady.exec_push (h : s.StackReady) (hi : i.push? = some q) :
    exec i s = outcome s (s.advance (s.start.pushes q ((s.free 10).setWidth 24))) := by
  have ready := h.steady.1.pcStackReady
  have masks : (!(q.sts && s.changed.mmask != 0)) = true := by simp [h.steady.1.changed, Changed.none]
  have all : exec i s = pushAll q.loop q.sts q.pc q.flush s := by
    cases i with
    | pushLoop | pushSts | pushPc => cases hi; rfl
    | _ => cases hi
  rw [all]
  simp only [pushAll, h.stackPlace, ready, masks, h.begins, need_true, Run.ok_bind, ite_self]
  rfl

section Pushes

variable (hl : w.seq.loopDepth < 6) (hs : w.seq.statusStack.length < 15) (hx : w.recent.astatx = 0)
  (hy : w.recent.astaty = 0)
include hl hs hx hy

theorem State.loopStsPushes_eq (q : StackAsk) : w.loopStsPushes q =
    { w with
      seq := { w.seq with
        loopDepth := if q.loop then w.seq.loopDepth + 1 else w.seq.loopDepth
        loopAddr := (w.loopPushIf q.loop).seq.loopAddr
        loopCount := (w.loopPushIf q.loop).seq.loopCount
        statusStack := if q.sts then ⟨w.reg.astatx, w.reg.astaty, w.reg.mode1⟩ :: w.seq.statusStack else w.seq.statusStack }
      reg := { w.reg with
        mode1 := if q.sts then w.reg.mode1 &&& ~~~w.reg.mmask else w.reg.mode1
        stkyx := putBitsIf q.sts (putBitsIf q.loop w.reg.stkyx 0x04000000 0) 0x01000000 0 }
      changed := (w.loopStsPushes q).changed
      stackBits := (w.loopStsPushes q).stackBits } := by
  have loops := State.loopPushIf_eq hl q.loop
  unfold State.loopStsPushes
  generalize w.loopPushIf q.loop = a at *
  rw [State.statusPushIf_eq (by rwa [loops]) (by rwa [loops]) (by rwa [loops]), loops]

/-- What a Type 20 word pushes: its own stacks, their flags, and for the status stack MODE1. -/
theorem State.pushes_eq (hp : w.seq.pcstkp.toNat < 30) (q : StackAsk) (v : W24) :
    let t := w.pushes q v
    t = { w with
      seq := { w.seq with
        loopDepth := if q.loop then w.seq.loopDepth + 1 else w.seq.loopDepth
        loopAddr := (w.loopPushIf q.loop).seq.loopAddr
        loopCount := (w.loopPushIf q.loop).seq.loopCount
        statusStack := if q.sts then ⟨w.reg.astatx, w.reg.astaty, w.reg.mode1⟩ :: w.seq.statusStack else w.seq.statusStack
        pcstkp := if q.pc then w.seq.pcstkp + 1 else w.seq.pcstkp
        pcStack := t.seq.pcStack
        cache := if q.flush then .replicate 16 [] else w.seq.cache }
      reg := { w.reg with
        mode1 := if q.sts then w.reg.mode1 &&& ~~~w.reg.mmask else w.reg.mode1
        stkyx := putBitsIf q.pc (putBitsIf q.sts (putBitsIf q.loop w.reg.stkyx 0x04000000 0) 0x01000000 0) 0x00600000
          (pcFlags (w.seq.pcstkp + 1))
        irptl := t.reg.irptl }
      changed := t.changed
      stackBits := t.stackBits } := by
  have others := State.loopStsPushes_eq hl hs hx hy q
  unfold State.pushes
  generalize w.loopStsPushes q = a at *
  have pcs := State.pcPushIf_eq (w := a) (by rwa [others]) q.pc v
  generalize a.pcPushIf q.pc v = b at *
  rw [State.flushIf_eq, pcs, others]

/-- The latches change only where the PC stack comes close to its end. -/
theorem State.pushes_irptl {v : W24} (h : (w.pushes q v).reg.irptl ≠ w.reg.irptl) :
    q.pc = true ∧ 28 ≤ w.seq.pcstkp.toNat := by
  have others := State.loopStsPushes_eq hl hs hx hy q
  unfold State.pushes at h
  generalize w.loopStsPushes q = a at *
  have irptl : a.reg.irptl = w.reg.irptl := by rw [others]
  have pcstkp : a.seq.pcstkp = w.seq.pcstkp := by rw [others]
  rw [← irptl, State.flushIf_eq] at h
  exact pcstkp ▸ State.pcPushIf_irptl h

/-- After a push its stack is not empty, and the flags of the other stacks stay (43_misc.md R384, R386, R388). -/
theorem State.pushes_flags (hp : w.seq.pcstkp.toNat < 30) (q : StackAsk) (v : W24) :
    (w.pushes q v).reg.stkyx.getLsbD 26 = (w.reg.stkyx.getLsbD 26 && !q.loop) ∧
      (w.pushes q v).reg.stkyx.getLsbD 24 = (w.reg.stkyx.getLsbD 24 && !q.sts) ∧
      (w.pushes q v).reg.stkyx.getLsbD 22 = (w.reg.stkyx.getLsbD 22 && !q.pc) := by
  have pushed := State.pushes_eq hl hs hx hy hp q v
  have stkyx : (w.pushes q v).reg.stkyx = putBitsIf q.pc (putBitsIf q.sts (putBitsIf q.loop w.reg.stkyx 0x04000000 0)
      0x01000000 0) 0x00600000 (pcFlags (w.seq.pcstkp + 1)) := by rw [pushed]
  rw [stkyx]
  refine ⟨?_, ?_, ?_⟩
  · rw [getLsbD_putBitsIf_out _ _ _ (by decide), getLsbD_putBitsIf_out _ _ _ (by decide),
      getLsbD_putBitsIf_clear _ _ (by decide) (by decide)]
  · rw [getLsbD_putBitsIf_out _ _ _ (by decide), getLsbD_putBitsIf_clear _ _ (by decide) (by decide),
      getLsbD_putBitsIf_out _ _ _ (by decide)]
  · rw [getLsbD_putBitsIf_clear _ _ (by decide) (pcem_pcFlags hp), getLsbD_putBitsIf_out _ _ _ (by decide),
      getLsbD_putBitsIf_out _ _ _ (by decide)]

end Pushes

theorem State.StackReady.push_ends (h : s.StackReady) (hi : i.push? = some q) (hl : s.seq.loopDepth < 6)
    (hs : s.seq.statusStack.length < 15) (hp : s.seq.pcstkp.toNat < 30) :
    ∃ u, exec i s = .next u ∧ s.Advanced (s.start.pushes q ((s.free 10).setWidth 24)) u := by
  have pushed := State.pushes_eq (w := s.start) hl hs rfl rfl hp q ((s.free 10).setWidth 24)
  obtain ⟨u, hu, hadv⟩ := h.steady.ends_of_fetchesLike (t := s.start.pushes q ((s.free 10).setWidth 24))
    ⟨by rw [pushed]; rfl, by rw [pushed]; rfl⟩
  exact ⟨u, (h.exec_push hi).trans hu, hadv⟩

/-! ### The pops -/

/-- The pops that `q` asks for, one after the other. -/
def State.popRun (w : State) (q : StackAsk) : Run (State × Flow) :=
  (if q.loop then w.popLoop else .ok w) >>= fun u1 =>
    (if q.sts then u1.popSts else .ok u1) >>= fun u2 =>
      (if q.pc then u2.popPc else .ok u2) >>= fun u3 => .ok (u3.flushIf q.flush, .next)

/-- `w` after the pops that `q` asks for, with `e` on top of the status stack above `rest`. -/
def State.pops (w : State) (q : StackAsk) (e : StatusEntry) (rest : List StatusEntry) : State :=
  (((w.loopPopIf q.loop).statusPopIf q.sts e rest).pcPopIf q.pc).flushIf q.flush

theorem State.StackReady.exec_pop (h : s.StackReady) (hi : i.pop? = some q) :
    exec i s = outcome s (s.flow s.start fun _ u => u.popRun q) := by
  have ready := h.steady.1.pcStackReady
  have all : exec i s = popAll q.loop q.sts q.pc q.flush s := by
    cases i with
    | popLoop | popSts | popPc => cases hi; rfl
    | _ => cases hi
  have gather {α β : Type} (p : Prop) [Decidable p] (r : Run α) (a : α) (f : α → Run β) :
      ((if p then r else .ok a) >>= f) = if p then r >>= f else f a := by split <;> rfl
  rw [all]
  simp only [popAll, State.popRun, gather, h.stackPlace, ready, h.begins, Run.ok_bind, ite_self]

section Pops

variable {e : StatusEntry} {rest : List StatusEntry} (ho : w.seq.stackOverflow = false) (hx : w.recent.astatx = 0)
  (hy : w.recent.astaty = 0)
include ho hx hy

/-- With an entry on each of its stacks the word pops them all. -/
theorem State.popRun_eq (hl : q.loop = true → w.seq.loopDepth ≠ 0) (hs : q.sts = true → w.seq.statusStack = e :: rest)
    (hp : q.pc = true → w.seq.pcstkp ≠ 0) : w.popRun q = .ok (w.pops q e rest, .next) := by
  rw [State.popRun, State.popLoop_if ho hl, Run.ok_bind, State.popSts_if (w := w.loopPopIf q.loop) ho hx hy hs, Run.ok_bind,
    State.popPc_if (w := (w.loopPopIf q.loop).statusPopIf q.sts e rest) ho hp, Run.ok_bind]
  rfl

/-- With an empty stack among those it asks for, the word stops. -/
theorem State.popRun_empty (h : (q.loop = true ∧ w.seq.loopDepth = 0) ∨ (q.sts = true ∧ w.seq.statusStack = []) ∨
    (q.pc = true ∧ w.seq.pcstkp = 0)) : w.popRun q = .error (.fault .stackUnderflow) := by
  unfold State.popRun
  by_cases loopEmpty : q.loop = true ∧ w.seq.loopDepth = 0
  · rw [if_pos loopEmpty.1, State.popLoop_empty ho loopEmpty.2, Run.error_bind]
  rw [State.popLoop_if ho fun hq h0 => loopEmpty ⟨hq, h0⟩, Run.ok_bind]
  by_cases stsEmpty : q.sts = true ∧ w.seq.statusStack = []
  · rw [if_pos stsEmpty.1, State.popSts_empty (w := w.loopPopIf q.loop) ho stsEmpty.2, Run.error_bind]
  obtain ⟨e, rest, some⟩ : ∃ e rest, q.sts = true → w.seq.statusStack = e :: rest := by
    cases stack : w.seq.statusStack with
    | nil => exact ⟨⟨0, 0, 0⟩, [], fun hq => absurd ⟨hq, stack⟩ stsEmpty⟩
    | cons e rest => exact ⟨e, rest, fun _ => rfl⟩
  obtain ⟨hq, h0⟩ := (h.resolve_left loopEmpty).resolve_left stsEmpty
  rw [State.popSts_if (w := w.loopPopIf q.loop) ho hx hy some, Run.ok_bind, if_pos hq,
    State.popPc_empty (w := (w.loopPopIf q.loop).statusPopIf q.sts e rest) ho h0, Run.error_bind]

end Pops

/-- What the pops change: their own stacks, their flags, and for the status stack the status registers. -/
theorem State.pops_eq (w : State) (q : StackAsk) (e : StatusEntry) (rest : List StatusEntry) :
    let t := w.pops q e rest
    t = { w with
      seq := { w.seq with
        loopDepth := if q.loop then w.seq.loopDepth - 1 else w.seq.loopDepth
        statusStack := if q.sts then rest else w.seq.statusStack
        pcstkp := if q.pc then w.seq.pcstkp - 1 else w.seq.pcstkp
        cache := if q.flush then .replicate 16 [] else w.seq.cache }
      reg := { w.reg with
        mode1 := if q.sts then e.mode1 else w.reg.mode1
        astatx := if q.sts then e.astatx else w.reg.astatx
        astaty := if q.sts then e.astaty else w.reg.astaty
        stkyx := putBitsIf q.pc (putBitsIf q.sts (putBitsIf q.loop w.reg.stkyx 0x04000000
          (bitAt 26 (w.seq.loopDepth - 1 == 0))) 0x01000000 (bitAt 24 rest.isEmpty)) 0x00600000
          (bitAt 22 (w.seq.pcstkp - 1 == 0)) }
      changed := t.changed
      stackBits := t.stackBits } := by
  unfold State.pops
  rw [State.flushIf_eq]
  rfl

theorem State.StackReady.pop_ends (h : s.StackReady) (hi : i.pop? = some q) {e : StatusEntry} {rest : List StatusEntry}
    (hl : q.loop = true → s.seq.loopDepth ≠ 0) (hs : q.sts = true → s.seq.statusStack = e :: rest)
    (hp : q.pc = true → s.seq.pcstkp ≠ 0) : ∃ u, exec i s = .next u ∧ s.Advanced (s.start.pops q e rest) u := by
  have popped := s.start.pops_eq q e rest
  obtain ⟨u, hu, hadv⟩ := h.steady.ends_of_fetchesLike (t := s.start.pops q e rest)
    ⟨by rw [popped]; rfl, by rw [popped]; rfl⟩
  refine ⟨u, Eq.trans ?_ hu, hadv⟩
  rw [h.exec_pop hi, State.flow, State.popRun_eq (w := s.start) h.noOverflow rfl rfl hl hs hp, Run.ok_bind]
  rfl

/-- After a pop the flag of its stack says whether it is empty (43_misc.md R385, R387, R389). -/
theorem State.pops_flags (w : State) (q : StackAsk) (e : StatusEntry) (rest : List StatusEntry) :
    (q.loop = true → (w.pops q e rest).reg.stkyx.getLsbD 26 = (w.seq.loopDepth - 1 == 0)) ∧
      (q.sts = true → (w.pops q e rest).reg.stkyx.getLsbD 24 = rest.isEmpty) ∧
      (q.pc = true → (w.pops q e rest).reg.stkyx.getLsbD 22 = (w.seq.pcstkp - 1 == 0)) := by
  have flag (n : Nat) (hn : n < 32) (b : Bool) : (bitAt n b).getLsbD n = b := by simp [getLsbD_bitAt n b hn]
  rw [State.pops_eq]
  dsimp only
  refine ⟨fun hq => ?_, fun hq => ?_, fun hq => ?_⟩
  · rw [getLsbD_putBitsIf_out _ _ _ (by decide), getLsbD_putBitsIf_out _ _ _ (by decide),
      getLsbD_putBitsIf_in _ _ _ (by decide), if_pos hq, flag 26 (by decide)]
  · rw [getLsbD_putBitsIf_out _ _ _ (by decide), getLsbD_putBitsIf_in _ _ _ (by decide), if_pos hq, flag 24 (by decide)]
  · rw [getLsbD_putBitsIf_in _ _ _ (by decide), if_pos hq, flag 22 (by decide)]

/-! ### The statement -/

/-- Settles O53: every push has room, and every pop takes an entry or stops. -/
theorem stackOperations : Obligations.StackOperations := by
  refine ⟨fun i q s hi h hl hs hp => ?_, fun i q s hi h => ⟨fun e rest hl hs hp => ?_, fun empty => ?_⟩⟩
  · set t := s.start.pushes q ((s.free 10).setWidth 24)
    have pushed : t = _ := State.pushes_eq (w := s.start) hl hs rfl rfl hp q _
    have loops := State.loopPushIf_eq (w := s.start) hl q.loop
    obtain ⟨laddr, curlcntr⟩ := State.tops_loopPushIf (w := s.start) hl q.loop
    have latch : t.reg.irptl ≠ s.reg.irptl → q.pc = true ∧ 28 ≤ s.seq.pcstkp.toNat :=
      State.pushes_irptl (w := s.start) hl hs rfl rfl
    obtain ⟨lsem, ssem, pcem⟩ := State.pushes_flags (w := s.start) hl hs rfl rfl hp q ((s.free 10).setWidth 24)
    obtain ⟨u, hu, hadv⟩ := h.push_ends hi hl hs hp
    refine ⟨t, u, hu, hadv, ?_, ?_, ?_, ?_, ?_, lsem, ssem, pcem, latch⟩
    · rw [pushed]
      rfl
    · rw [pushed]
      rfl
    · rw [← show s.start.laddr = s.laddr from rfl, ← laddr]
      exact State.laddr_congr (by rw [pushed, loops]) (by rw [pushed])
    · rw [← show s.start.curlcntr = s.curlcntr from rfl, ← show s.start.lcntr = s.lcntr from rfl, ← curlcntr]
      exact State.curlcntr_congr (by rw [pushed, loops]) (by rw [pushed])
    · rw [pushed]
      rfl
  · set t := s.start.pops q e rest
    have popped : t = _ := State.pops_eq s.start q e rest
    obtain ⟨lsem, ssem, pcem⟩ := State.pops_flags s.start q e rest
    obtain ⟨u, hu, hadv⟩ := h.pop_ends hi hl hs hp
    refine ⟨t, u, hu, hadv, ?_, ?_, fun hq => ?_, fun hq => ?_, fun hq => ?_⟩
    · rw [popped]
      rfl
    · rw [popped]
      rfl
    · have some := hl hq
      rw [lsem hq, beq_iff_eq]
      show s.seq.loopDepth - 1 = 0 ↔ _
      omega
    · rw [ssem hq, List.isEmpty_iff]
    · rw [pcem hq, beq_iff_eq]
      exact sub_eq_zero
  · rw [h.exec_pop hi, State.flow, State.popRun_empty (w := s.start) h.noOverflow rfl rfl empty, Run.error_bind, outcome_fault]

end Sys2Proof.Machine
end

section
/-!
PROOF. ModeInstructions: NOP, IDLE and FLUSH CACHE, CJUMP as a delayed branch, and RFRAME as a load that reports nothing
(43_misc.md R376, R380 to R383).
-/
namespace Sys2Proof.Machine

variable {s t : State} {l : Loc} {a : W32}

/-! ### NOP, IDLE and FLUSH CACHE -/

/-- An instruction that only changes the sequencer beside the fetch pipeline. -/
theorem State.Steady.mapSeq_ends (h : s.Steady) {f : Sequencer → Sequencer} (hf : SamePipe s.begun.seq (f s.begun.seq)) :
    ∃ u, outcome s (s.advance (s.begun.mapSeq f)) = .next u ∧ s.Advanced (s.begun.mapSeq f) u :=
  h.ends_of_fetchesLike ⟨hf.daddr.trans h.begun_daddr, hf.faddr.trans h.begun_faddr⟩

theorem State.Steady.nop_ends (h : s.Steady) : ∃ u, exec .nop s = .next u ∧ s.Advanced s.begun u := by
  obtain ⟨u, hu, hadv⟩ := h.ends (t := s.begun) rfl
  refine ⟨u, ?_, hadv⟩
  show execNop s = _
  simp only [execNop, h.begin.1, Run.ok_bind, hu]

theorem State.Steady.idle_ends (h : s.Steady) (slots : s.seq.dbSlots = 0) :
    ∃ u, exec .idle s = .next u ∧ s.Advanced (s.begun.mapSeq fun q => { q with idle := true }) u := by
  obtain ⟨u, hu, hadv⟩ := h.mapSeq_ends (f := fun q => { q with idle := true }) ⟨rfl, rfl, rfl⟩
  have free : s.slotFree = .ok () := by simp [State.slotFree, slots]
  refine ⟨u, ?_, hadv⟩
  show execIdle s = _
  simp only [execIdle, free, h.begin.1, Run.ok_bind, hu]

theorem State.Steady.flushCache_ends (h : s.Steady) :
    ∃ u, exec .flushCache s = .next u ∧ s.Advanced (s.begun.mapSeq fun q => { q with cache := .replicate 16 [] }) u := by
  obtain ⟨u, hu, hadv⟩ := h.mapSeq_ends (f := fun q => { q with cache := .replicate 16 [] }) ⟨rfl, rfl, rfl⟩
  refine ⟨u, ?_, hadv⟩
  show execFlushCache s = _
  simp only [execFlushCache, State.flushIf, h.begin.1, Run.ok_bind, if_true, hu]

/-! ### CJUMP -/

/-- What CJUMP writes before its jump: I6 saved in R2, in SIMD mode in S2 too, and I6 set to I7. -/
def State.cjumpWritten (s : State) : State :=
  let t := s.begun.setDreg false 2 (s.dagReg .i 6 ++ 0#8)
  (if s.simd then t.setDreg true 2 (s.dagReg .i 6 ++ 0#8) else t).setDagReg .i 6 (s.dagReg .i 7)

theorem State.cjumpWritten_seq (s : State) : s.cjumpWritten.seq = s.begun.seq := by
  simp only [State.cjumpWritten, State.setDagReg_seq]
  split <;> simp only [State.setDreg_seq]

/-- CJUMP is its writes and a delayed branch. -/
theorem State.MayBranch.cjump_taken (h : s.MayBranch) (target : State → W24)
    (entry : s.entryAllowed (target s) = true) :
    cjump target s = .next (s.branched s.cjumpWritten true false (target s)) := by
  have settled := h.steady.1
  have read : s.mayRead (.i 6) = .ok () := settled.mayRead_dag .i 6
  have write : s.mayWrite (.r 2) = .ok () := settled.mayWrite _ rfl
  have seq : s.cjumpWritten.seq = s.seq := by rw [s.cjumpWritten_seq, State.begun_seq h.noTest]
  have allowed : s.cjumpWritten.entryAllowed (target s) = true := by
    rwa [State.entryAllowed_congr (s := s) (by rw [seq]) (by rw [seq])]
  have window := h.window_branch (.of_eq seq) true false s.nextFetch (target s)
  simp only [cjump, h.away.branchPlace, h.slotFree, settled.useMode1, read, write, h.steady.begin.1, Run.ok_bind]
  show outcome s (s.flow s.cjumpWritten _) = _
  simp only [State.flow, allowed, need_true, Run.ok_bind]
  exact congrArg (outcome s) window

/-! ### RFRAME -/

/-- The address of RFRAME's load is I6 itself: only I0 and I8 have a bit-reverse mode. -/
theorem State.Settled.address_frame (h : s.Settled) : s.address (.pre 6 (.imm 0)) = .ok (s.dagReg .i 6) := by
  have read : s.mayRead (.i 6) = .ok () := h.mayRead_dag .i 6
  have plain (v : W32) : putOut s.reg.mode1 6 v = v := by simp [putOut, bitReversed]
  simp only [State.address, read, State.modifierReady, h.useMode1, State.modifier, plain, add_zero,
    beq_self_eq_true, need_true, Run.ok_bind]

/-- A word that stands in memory cells is not a register of an I/O processor. -/
theorem State.locate_cells {px lw : Bool} (hl : s.locate a px lw = .ok l) {f : Nat} (hp : l.place = .cells f) :
    ¬ (target s.pins.id a ≠ .ext ∧ form a = .iop) := by
  rintro ⟨onChip, iop⟩
  unfold State.locate at hl
  rw [iop] at hl
  cases place : target s.pins.id a with
  | ext => exact onChip place
  | own multi =>
    rw [place] at hl
    cases multi <;> (obtain rfl := Except.ok.inj hl; cases hp)
  | other | all =>
    rw [place] at hl
    obtain rfl := Except.ok.inj hl
    cases hp

/-- An access without post-modify that is no long access has nothing to report outside the I/O processor's registers. -/
theorem State.Reported.nothing {x : State} {m : MemMove} (h : s.Reported t x m a) (hm : m.mode = .pre 6 (.imm 0))
    (hlw : m.lw = false) (hf : ¬ (target s.pins.id a ≠ .ext ∧ form a = .iop)) : x = t := by
  have none : s.reportBits m a = 0 := by
    have ira : ¬ (target s.pins.id a ≠ .ext ∧ form a = .iop ∧ s.reg.mode2.getLsbD 20 = true) :=
      fun ⟨onChip, iop, _⟩ => hf ⟨onChip, iop⟩
    simp only [State.reportBits, hm, hlw, if_neg ira, Bool.false_eq_true, false_and, if_false]
    rfl
  obtain ⟨rest, -, -, irptl⟩ := h
  have stkyx : t.reg.stkyx ||| s.reportBits m a = t.reg.stkyx := none ▸ BitVec.or_zero
  rw [rest, irptl (by rw [none]; rfl), stkyx]

/-- The memory move of RFRAME (43_misc.md R381). -/
def frameMove : MemMove := { op := .load (.i 6), pm := false, mode := .pre 6 (.imm 0), lw := false }

/-- RFRAME moves I6 to I7 and loads I6 from the word there. -/
theorem State.Steady.exec_rframe (h : s.Steady) (hs : s.simd = false) : exec .rframe s = outcome s
    (s.move (s.begun.setDagReg .i 7 (s.dagReg .i 6)) frameMove ⟨true, true, false⟩ [] >>= s.advance) := by
  have read : s.mayRead (.i 6) = .ok () := h.1.mayRead_dag .i 6
  show execRframe s = _
  simp only [execRframe, h.1.useMode1, hs, Bool.not_false, need_true, read, h.begin.1, Run.ok_bind]
  rfl

theorem State.Calm.rframe_ends (h : s.Calm) (hs : s.simd = false) (hl : s.locate (s.dagReg .i 6) false false = .ok l)
    (hr : s.Reachable l true) {f : Nat} (hp : l.place = .cells f)
    (ht : (s.begun.setDagReg .i 7 (s.dagReg .i 6)).putLoaded s.reg.mode1 ⟨.i 6, l.width, l.word s.mem⟩ = .ok t) :
    ∃ u, exec .rframe s = .next u ∧ s.Advanced t u := by
  obtain ⟨mem, shadow, -, -, -⟩ := h.1.computed PeOut.none false false
  set w := s.begun.setDagReg .i 7 (s.dagReg .i 6) with hw
  have addr := h.1.1.address_frame
  have quiet (v : State) : v.noteExt l = v := by simp only [State.noteExt, hp]
  have seq : w.seq = s.begun.seq := State.setDagReg_seq ..
  have loads : s.load w (.i 6) (s.dagReg .i 6) false false ⟨true, true, false⟩ false 4 =
      .ok ([⟨.i 6, l.width, l.word s.mem⟩], w) := by
    have loaded := h.load_sisd hs (t := w) (r := .i 6) (lw := false) hl (fun _ => .inr rfl) hr (fun flow => nomatch flow)
      ((State.setDagReg_shadow1 ..).trans shadow) false false 4
    rwa [quiet, show w.mem = s.mem from (State.setDagReg_mem ..).trans mem] at loaded
  obtain ⟨c, g, cached, move⟩ := h.1.1.memMove_open (m := frameMove) addr rfl (g := ⟨true, true, false⟩) rfl
    (s.gateOk_sisd hs _ _) w false 4
  have through : s.memMove w frameMove ⟨true, true, false⟩ false 4 = .ok ([⟨.i 6, l.width, l.word s.mem⟩], w) := by
    rw [move, cached rfl]
    show (s.load w (.i 6) (s.dagReg .i 6) false false ⟨true, true, false⟩ false 4 >>= _) = _
    rw [loads, Run.ok_bind]
    rfl
  have put : w.putAll s.reg.mode1 [⟨.i 6, l.width, l.word s.mem⟩] = .ok t := by
    show (w.putLoaded _ _ >>= fun u => .ok u) = _
    rw [ht]
    rfl
  have pipe : s.FetchesLike w := ⟨by rw [seq, h.1.begun_daddr], by rw [seq, h.1.begun_faddr]⟩
  obtain ⟨x, u, hu, reported, hadv⟩ := h.1.move_ends_sisd hs addr through put (pipe.putLoaded _ _ t ht) []
  have same : x = t := reported.nothing rfl rfl (State.locate_cells hl hp)
  exact ⟨u, (h.1.exec_rframe hs).trans hu, same ▸ hadv⟩

/-- Settles O54: three instructions that change the sequencer at most, a delayed branch, and a load. -/
theorem modeInstructions : Obligations.ModeInstructions := by
  intro s
  refine ⟨State.Steady.nop_ends, State.Steady.idle_ends, State.Steady.flushCache_ends, fun i a hi h entry => ?_,
    fun l t h hs hl hr ⟨f, hp⟩ ht => h.rframe_ends hs hl hr hp ht⟩
  rcases hi with rfl | ⟨rel, rfl, rfl⟩
  · exact h.cjump_taken (fun _ => a) entry
  · exact h.cjump_taken (fun s => s.seq.pc + rel) entry

end Sys2Proof.Machine
end

section
/-!
PROOF. Rows of the ALU: what a compute row leaves in an element that it runs in, and where the flags of the ALU stand in ASTAT
(40_compute_move.md R262, 44_alu_fixed.md R403, R406).
-/
namespace Sys2Proof.Machine

variable {s u : State} {y : Bool} {o : PeOut} {i : Instr} {k : Compute} {n : Reg}

/-! ### What a compute row delivers -/

/-- In PEy, or in PEx, `u` has what the results `o` of the instruction make of `s`. Of STKYx the stack-state bits are left out:
a loop that ends changes them. -/
structure Delivers (s u : State) (y : Bool) (o : PeOut) : Prop where
  dreg : ∀ n, u.dreg y n = ((s.pe y).take s.reg.mode1 o).reg s.reg.mode1 n
  astat : u.astat y = o.astat
  stky : u.stky y &&& ~~~stackStateBits = (s.stky y ||| o.stky) &&& ~~~stackStateBits

/-- What the loop mechanism does at the begin of a step leaves the elements. -/
theorem State.Steady.begun_pe (h : s.Steady) (y : Bool) : s.begun.pe y = s.pe y := by
  have rest := h.begin.2.rest
  generalize s.begun = b at rest
  rw [rest]
  rfl

theorem State.Steady.begun_stky (h : s.Steady) (y : Bool) :
    s.begun.stky y &&& ~~~stackStateBits = s.stky y &&& ~~~stackStateBits := by
  cases y with
  | false => exact h.begin.2.stkyx
  | true =>
    have rest := h.begin.2.rest
    generalize s.begun = b at rest
    rw [rest]
    rfl

/-- A compute row delivers its results in PEx, and in SIMD mode in PEy. -/
theorem State.Steady.row_delivers (h : s.Steady) (hy : y = true → s.simd = true) (hi : i.compute? = some k)
    (hk : k.dualClash = false) : ∃ u, exec i s = .next u ∧ Delivers s u y (computePe k (s.peIn y)) := by
  obtain ⟨u, hu, rest, -⟩ := (computeRowsComplete i k s hi).1 hk h
  have runs : (if y then s.simd else true) = true := by
    cases y with
    | false => rfl
    | true => exact hy rfl
  obtain ⟨-, -, mode, -, -⟩ := h.computed (computePe k) true s.simd
  refine ⟨u, hu, fun n => ?_, ?_, ?_⟩
  · have pe : u.pe y = (s.runPes s.begun (computePe k) true s.simd).pe y := by rw [rest]; rfl
    have mode1 : u.reg.mode1 = s.reg.mode1 := by rw [rest]; exact mode
    rw [State.dreg, pe, mode1, State.pe_runPes, if_pos runs, h.begun_pe]
  · have astat : u.astat y = (s.runPes s.begun (computePe k) true s.simd).astat y := by rw [rest]; rfl
    rw [astat, State.astat_runPes, if_pos runs]
  · have stky : u.stky y = (s.runPes s.begun (computePe k) true s.simd).stky y := by rw [rest]; rfl
    rw [stky, State.stky_runPes, if_pos runs, BitVec.and_or_distrib_right, h.begun_stky, ← BitVec.and_or_distrib_right]

/-- A sticky bit of the units is set by the operation or was set before. -/
theorem Delivers.stky_bit (h : Delivers s u y o) {j : Nat} (hj : (~~~stackStateBits).getLsbD j = true) :
    (u.stky y).getLsbD j = ((s.stky y).getLsbD j || o.stky.getLsbD j) := by
  have bit := congrArg (fun v : W32 => v.getLsbD j) h.stky
  simpa only [BitVec.getLsbD_and, BitVec.getLsbD_or, hj, Bool.and_true] using bit

/-- Of an operation that sets no sticky bit the sticky bits stay. -/
theorem Delivers.stky_kept (h : Delivers s u y o) (ho : o.stky = 0) :
    u.stky y &&& ~~~stackStateBits = s.stky y &&& ~~~stackStateBits := by
  rw [h.stky, ho]
  exact congrArg (· &&& _) BitVec.or_zero

theorem Delivers.dreg_aluTo {c : PeIn} {a : AluOut} (h : Delivers s u y (aluTo c n a)) : u.dreg y n = a.val := by
  rw [h.dreg]
  show (((s.pe y).setReg s.reg.mode1 n a.val).reg s.reg.mode1 n) = _
  rw [ProcElem.reg_setReg, if_pos rfl]

/-- A row of the ALU delivers its result, its flags and its sticky bits. -/
theorem State.Steady.aluRow_ends (h : s.Steady) (hy : y = true → s.simd = true) {a : AluOut} (hi : i.compute? = some k)
    (hk : k.dualClash = false) (ha : computePe k (s.peIn y) = aluTo (s.peIn y) n a) :
    ∃ u, exec i s = .next u ∧ u.dreg y n = a.val ∧ u.astat y = putAlu (s.astat y) a.fl ∧
      Delivers s u y (aluTo (s.peIn y) n a) := by
  obtain ⟨u, run, left⟩ := h.row_delivers hy hi hk
  rw [ha] at left
  exact ⟨u, run, left.dreg_aluTo, left.astat, left⟩

/-! ### The flags of the ALU in ASTAT -/

/-- A flag at one of the ALU's places. -/
theorem bitAt_and_aluMask {j : Nat} (hj : j ∈ [0, 1, 2, 3, 4, 5, 10]) (b : Bool) : bitAt j b &&& aluMask = bitAt j b := by
  cases b with
  | false => exact BitVec.zero_and
  | true =>
    revert j
    decide

/-- The flags of the ALU all stand at the ALU's places. -/
theorem AluFlags.bits_and_aluMask (f : AluFlags) : f.bits &&& aluMask = f.bits := by
  simp [AluFlags.bits, BitVec.and_or_distrib_right, bitAt_and_aluMask]

theorem putAlu_eq (a : W32) (f : AluFlags) : putAlu a f = (a &&& ~~~aluMask) ||| f.bits := by
  rw [putAlu, putBits, f.bits_and_aluMask]

/-- An ALU operation leaves the ASTAT bits of the other units. -/
theorem putAlu_outside (a : W32) (f : AluFlags) : putAlu a f &&& ~~~aluMask = a &&& ~~~aluMask :=
  putBits_outside _ _ _ _ (BitVec.and_not_self _)

/-- The flags of the ALU in the ASTAT word `v` are `f`. -/
structure HasFlags (v : W32) (f : AluFlags) : Prop where
  az : v.getLsbD 0 = f.az
  av : v.getLsbD 1 = f.av
  an : v.getLsbD 2 = f.an
  ac : v.getLsbD 3 = f.ac
  as : v.getLsbD 4 = f.as
  ai : v.getLsbD 5 = f.ai
  af : v.getLsbD 10 = f.af

theorem HasFlags.of_and_aluMask {v : W32} {f : AluFlags} (h : v &&& aluMask = f.bits) : HasFlags v f := by
  have place {j : Nat} (hj : aluMask.getLsbD j = true) : v.getLsbD j = f.bits.getLsbD j := by
    rw [← h, BitVec.getLsbD_and, hj, Bool.and_true]
  constructor <;> rw [place (by decide)] <;> simp [AluFlags.bits, getLsbD_bitAt, -BitVec.getLsbD_eq_getElem]

theorem putAlu_and_aluMask (a : W32) (f : AluFlags) : putAlu a f &&& aluMask = f.bits := by
  rw [putAlu_eq, BitVec.and_or_distrib_right, f.bits_and_aluMask, BitVec.and_assoc, BitVec.and_comm (~~~aluMask),
    BitVec.and_not_self]
  simp

end Sys2Proof.Machine
end

section
/-!
PROOF. FixedSums: the 32-bit adder computes the exact sum, its carry and its overflow, and each addition and subtraction is one
use of it (44_alu_fixed.md R401, R402).
-/
namespace Sys2Proof.Machine

variable {c : PeIn} {i : Instr} {n : Reg} {t : Int} {carry : Prop}

/-! ### The adder -/

/-- The integer is a signed 32-bit number. -/
abbrev Fits32 (t : Int) : Prop := -2147483648 ≤ t ∧ t ≤ 2147483647

theorem toInt_range (a : W32) : -2147483648 ≤ a.toInt ∧ a.toInt < 2147483648 := ⟨a.le_toInt, BitVec.toInt_lt⟩

/-- The complement as a signed number, for subtraction. -/
theorem toInt_not_eq (a : W32) : (~~~a).toInt = -a.toInt - 1 := by
  rw [BitVec.toInt_eq_toNat_cond, BitVec.toInt_eq_toNat_cond, BitVec.toNat_not]
  split <;> split <;> omega

theorem toNat_setWidth_ofBool (cin : Bool) : ((BitVec.ofBool cin).setWidth 33).toNat = cin.toNat := by
  cases cin <;> rfl

/-- The adder's 33 bits hold the exact unsigned sum. -/
theorem add32_toNat (a b : W32) (cin : Bool) :
    (a.setWidth 33 + b.setWidth 33 + (BitVec.ofBool cin).setWidth 33).toNat = a.toNat + b.toNat + cin.toNat := by
  have := cin.toNat_lt
  rw [BitVec.toNat_add, BitVec.toNat_add, toNat_setWidth_ofBool, BitVec.toNat_setWidth_of_le (by decide),
    BitVec.toNat_setWidth_of_le (by decide)]
  omega

theorem add32_carry (a b : W32) (cin : Bool) :
    (add32 a b cin).2.1 = true ↔ 2 ^ 32 ≤ a.toNat + b.toNat + cin.toNat := by
  show (a.setWidth 33 + b.setWidth 33 + (BitVec.ofBool cin).setWidth 33).msb = true ↔ _
  rw [BitVec.msb_eq_decide, add32_toNat, decide_eq_true_iff]

/-- The adder's sum is the exact one modulo 2^32. -/
theorem add32_sum (a b : W32) (cin : Bool) : (add32 a b cin).1 = BitVec.ofInt 32 (a.toInt + b.toInt + cin.toNat) := by
  have low : (add32 a b cin).1 = BitVec.ofNat 32 (a.toNat + b.toNat + cin.toNat) := by
    refine BitVec.eq_of_toNat_eq ?_
    show ((a.setWidth 33 + b.setWidth 33 + (BitVec.ofBool cin).setWidth 33).setWidth 32).toNat = _
    rw [BitVec.toNat_setWidth, add32_toNat, BitVec.toNat_ofNat]
  rw [low, BitVec.ofInt_add, BitVec.ofInt_add, BitVec.ofInt_toInt, BitVec.ofInt_toInt, BitVec.ofInt_natCast,
    BitVec.ofNat_add, BitVec.ofNat_add, BitVec.ofNat_toNat, BitVec.ofNat_toNat, BitVec.setWidth_eq, BitVec.setWidth_eq]

/-- The signed sum of the adder differs from the exact sum by a multiple of 2^32. -/
theorem add32_toInt (a b : W32) (cin : Bool) :
    (add32 a b cin).1.toInt % 4294967296 = (a.toInt + b.toInt + cin.toNat) % 4294967296 := by
  rw [add32_sum, BitVec.toInt_ofInt]
  exact Int.bmod_emod

/-- The adder reports an overflow where the exact sum is no signed 32-bit number. -/
theorem add32_overflow (a b : W32) (cin : Bool) :
    (add32 a b cin).2.2 = true ↔ ¬ Fits32 (a.toInt + b.toInt + cin.toNat) := by
  have sum := add32_toInt a b cin
  have := toInt_range a
  have := toInt_range b
  have := toInt_range (add32 a b cin).1
  have := cin.toNat_lt
  show (a.msb == b.msb && (add32 a b cin).1.msb != a.msb) = true ↔ _
  simp only [BitVec.msb_eq_toInt, Bool.and_eq_true, beq_iff_eq, bne_iff_ne, ne_eq, decide_eq_decide, Fits32]
  omega

/-- An overflowed sum has the wrong sign. -/
theorem add32_msb_of_overflow {a b : W32} {cin : Bool} (h : ¬ Fits32 (a.toInt + b.toInt + cin.toNat)) :
    (add32 a b cin).1.msb = true ↔ 0 ≤ a.toInt + b.toInt + cin.toNat := by
  have sum := add32_toInt a b cin
  have := toInt_range a
  have := toInt_range b
  have := toInt_range (add32 a b cin).1
  have := cin.toNat_lt
  rw [BitVec.msb_eq_toInt, decide_eq_true_iff]
  unfold Fits32 at h
  omega

/-! ### The result -/

/-- `r` is the 32-bit result of the exact sum `t`: the sum where it fits, else saturated or modulo 2^32. -/
def IsSum (mode1 : W32) (t : Int) (r : W32) : Prop :=
  if Fits32 t then r.toInt = t
  else if alusat mode1 = true then r = (if 0 ≤ t then 0x7FFFFFFF else 0x80000000) else r = BitVec.ofInt 32 t

theorem saturate_add32 (m a b : W32) (cin : Bool) :
    IsSum m (a.toInt + b.toInt + cin.toNat) (saturate m (add32 a b cin).1 (add32 a b cin).2.2) := by
  have overflow := add32_overflow a b cin
  unfold IsSum saturate
  by_cases fits : Fits32 (a.toInt + b.toInt + cin.toNat)
  · have none : (add32 a b cin).2.2 = false := Bool.eq_false_iff.2 fun v => overflow.1 v fits
    rw [if_pos fits, none, Bool.and_false, if_neg Bool.false_ne_true, add32_sum]
    exact BitVec.toInt_ofInt_eq_self (by decide) fits.1 (by omega)
  · rw [if_neg fits, overflow.2 fits, Bool.and_true]
    by_cases sat : alusat m = true
    · simp only [if_pos sat, add32_msb_of_overflow fits]
    · rw [if_neg sat, if_neg sat, add32_sum]

/-- What an addition delivers: its result, AZ and AN of it, AV, AC and AOS of the exact sum. -/
theorem addOut_eq (m a b : W32) (cin : Bool) : ∃ r v carry,
    addOut m a b cin = ⟨padded r, ⟨r == 0, v, r.msb, carry, false, false, false⟩, fixSticky v⟩ ∧
      IsSum m (a.toInt + b.toInt + cin.toNat) r ∧ (v = true ↔ ¬ Fits32 (a.toInt + b.toInt + cin.toNat)) ∧
      (carry = true ↔ 2 ^ 32 ≤ a.toNat + b.toNat + cin.toNat) :=
  ⟨_, _, _, rfl, saturate_add32 m a b cin, add32_overflow a b cin, add32_carry a b cin⟩

/-! ### The instructions -/

/-- Each addition and subtraction is the adder's, on operands whose exact sum and carry are the instruction's. -/
theorem Instr.adds_of_sum? (h : i.sum? c = some (n, t, carry)) : ∃ k a b cin, i.compute? = some k ∧ k.dualClash = false ∧
    computePe k c = aluTo c n (addOut c.mode1 a b cin) ∧ t = a.toInt + b.toInt + cin.toNat ∧
    (carry ↔ 2 ^ 32 ≤ a.toNat + b.toNat + cin.toNat) := by
  have zero : (0 : W32).toInt = 0 ∧ (0 : W32).toNat = 0 := ⟨rfl, rfl⟩
  have ones : (0xFFFFFFFF : W32).toInt = -1 ∧ (0xFFFFFFFF : W32).toNat = 4294967295 := ⟨rfl, rfl⟩
  unfold Instr.sum? at h
  split at h
  case h_10 => cases h
  all_goals
    cases h
    refine ⟨_, _, _, _, rfl, rfl, rfl, ?_, ?_⟩
  all_goals
    simp only [toInt_not_eq, BitVec.toNat_not, zero, ones, Instr.sum?.ci, Bool.toNat_true, Bool.toNat_false]
  all_goals omega

/-- STKY.AOS is bit 2. -/
theorem fixSticky_aos (v : Bool) : (fixSticky v).getLsbD 2 = v := by
  rw [fixSticky, getLsbD_bitAt _ _ (by decide), decide_eq_true rfl, Bool.and_true]

/-- Settles O20: the row delivers what the adder computes. -/
theorem fixedSums : Obligations.FixedSums := by
  intro i s y n t carry h hy hi
  obtain ⟨k, a, b, cin, row, clash, adds, rfl, carries⟩ := Instr.adds_of_sum? hi
  obtain ⟨r, v, ac, out, sum, overflow, carried⟩ := addOut_eq s.reg.mode1 a b cin
  obtain ⟨u, run, result, astat, left⟩ := h.aluRow_ends hy row clash (adds.trans (congrArg (aluTo (s.peIn y) n) out))
  have flags : HasFlags (u.astat y) ⟨r == 0, v, r.msb, ac, false, false, false⟩ :=
    .of_and_aluMask (astat ▸ putAlu_and_aluMask _ _)
  have aos : (u.stky y).getLsbD 2 = ((s.stky y).getLsbD 2 || v) :=
    (left.stky_bit (by decide)).trans (congrArg _ (fixSticky_aos v))
  refine ⟨u, run, r, sum, result, ?_, ?_, flags.an, ?_, flags.as, flags.ai, flags.af, ?_, ?_⟩
  · rw [flags.az, beq_iff_eq]
  · rw [flags.av, overflow]
  · rw [flags.ac, carried, carries]
  · rw [astat]
    exact putAlu_outside _ _
  · rw [aos, Bool.or_eq_true, overflow]

end Sys2Proof.Machine
end

section
/-!
PROOF. FixedLogic: the operations that cannot overflow, ABS and AVG (44_alu_fixed.md R411, R417 to R425).
-/
namespace Sys2Proof.Machine

variable {c : PeIn} {i : Instr} {n : Reg} {r : W32}

/-! ### The operations that cannot overflow -/

/-- MIN and MAX order the operands as signed numbers (44_alu_fixed.md R423, R424). -/
theorem opMin_eq (x y : W32) : opMin x y = logicOut (if x.toInt ≤ y.toInt then x else y) := by
  simp only [opMin, BitVec.sle_iff_toInt_le]

theorem opMax_eq (x y : W32) : opMax x y = logicOut (if x.toInt ≤ y.toInt then y else x) := by
  simp only [opMax, BitVec.sle_iff_toInt_le]
  refine congrArg logicOut ?_
  split <;> split
  · exact BitVec.toInt_inj.1 (by omega)
  · rfl
  · rfl
  · omega

/-- CLIP limits to the magnitude of the Y operand, with the sign of the X operand (44_alu_fixed.md R425). -/
theorem opClip_eq (x y : W32) : opClip x y = logicOut (if x.toInt.natAbs < y.toInt.natAbs then x
    else BitVec.ofInt 32 (if x.toInt < 0 then -(y.toInt.natAbs : Int) else y.toInt.natAbs)) := by
  simp only [opClip, BitVec.msb_eq_toInt, decide_eq_true_iff, ← BitVec.ofInt_natCast, apply_ite (BitVec.ofInt 32)]

/-- Each of these is one row of the ALU that delivers its result with AZ and AN alone. -/
theorem Instr.logic_of_logic? (h : i.logic? c = some (n, r)) :
    ∃ k, i.compute? = some k ∧ k.dualClash = false ∧ computePe k c = aluTo c n (logicOut r) := by
  unfold Instr.logic? at h
  split at h
  case h_9 => cases h
  all_goals
    cases h
    refine ⟨_, rfl, rfl, ?_⟩
  case h_6.refl x y => exact congrArg (aluTo c n) (opMin_eq (c.fix x) (c.fix y))
  case h_7.refl x y => exact congrArg (aluTo c n) (opMax_eq (c.fix x) (c.fix y))
  case h_8.refl x y => exact congrArg (aluTo c n) (opClip_eq (c.fix x) (c.fix y))
  all_goals rfl

/-! ### ABS -/

/-- The magnitude, which the smallest number does not have. -/
theorem opAbs_eq (m x : W32) : ∃ r, opAbs m x =
    ⟨padded r, ⟨r == 0, decide (x.toInt = -2147483648), false, false, x.msb, false, false⟩,
      fixSticky (decide (x.toInt = -2147483648))⟩ ∧
    if x.toInt = -2147483648 then r = (if alusat m then 0x7FFFFFFF else 0x80000000) else r.toInt = x.toInt.natAbs := by
  have smallest : (x == 0x80000000) = decide (x.toInt = -2147483648) := by
    rw [Bool.eq_iff_iff, beq_iff_eq, decide_eq_true_iff, ← BitVec.toInt_inj]
    rfl
  refine ⟨saturate m (if x.msb then -x else x) (x == 0x80000000), by simp only [opAbs, smallest], ?_⟩
  split
  · next least =>
    obtain rfl : x = 0x80000000 := BitVec.toInt_inj.1 least
    unfold saturate
    cases alusat m <;> rfl
  · next other =>
    have proper : x ≠ BitVec.intMin 32 := by
      rintro rfl
      exact other rfl
    rw [smallest, decide_eq_false other, saturate, Bool.and_false, if_neg Bool.false_ne_true, BitVec.msb_eq_toInt]
    split
    · next negative =>
      rw [BitVec.toInt_neg_of_ne_intMin proper]
      have := of_decide_eq_true negative
      omega
    · next positive =>
      have := mt decide_eq_true positive
      omega

/-! ### AVG -/

/-- Half of an exact sum as AVG rounds it. -/
def halfSum (m : W32) (t : Int) : Int :=
  if t % 2 = 0 then t / 2
  else if trunc m then (if t < 0 && Config.avgTruncTowardZero then t / 2 + 1 else t / 2)
  else if t / 2 % 2 = 0 then t / 2 else t / 2 + 1

/-- An even sum is halved exactly, of an odd one either neighbour can be meant. -/
theorem halfSum_cases (m : W32) (t : Int) : t % 2 = 0 ∧ halfSum m t = t / 2 ∨
    t % 2 = 1 ∧ (halfSum m t = t / 2 ∨ halfSum m t = t / 2 + 1) := by
  unfold halfSum
  rcases Int.emod_two_eq_zero_or_one t with even | odd
  · exact .inl ⟨even, if_pos even⟩
  · refine .inr ⟨odd, ?_⟩
    rw [if_neg (by omega)]
    split_ifs <;> simp

theorem halfSum_isAverage (m : W32) (t : Int) : IsAverage m t (halfSum m t) := by
  have either := halfSum_cases m t
  refine ⟨by omega, by omega, fun odd nearest => ?_, fun odd truncates positive => ?_⟩
  · rw [halfSum, if_neg odd, nearest, if_neg Bool.false_ne_true]
    split <;> omega
  · have down : decide (t < 0) = false := decide_eq_false (by omega)
    rw [halfSum, if_neg odd, truncates, if_pos rfl, down, Bool.false_and, if_neg Bool.false_ne_true]
    omega

/-- The average of two 32-bit numbers is one. -/
theorem halfSum_toInt (m x y : W32) :
    (BitVec.ofInt 32 (halfSum m (x.toInt + y.toInt))).toInt = halfSum m (x.toInt + y.toInt) := by
  have := toInt_range x
  have := toInt_range y
  have either := halfSum_cases m (x.toInt + y.toInt)
  refine BitVec.toInt_ofInt_eq_self (by decide) ?_ ?_ <;> omega

/-- The outcome of AVG: half of the exact sum, with the carry of the addition. -/
theorem opAvg_eq (m x y : W32) : ∃ r carry,
    opAvg m x y = ⟨padded r, ⟨r == 0, false, r.msb, carry, false, false, false⟩, 0⟩ ∧ IsAverage m (x.toInt + y.toInt) r.toInt ∧
      (carry = true ↔ 2 ^ 32 ≤ x.toNat + y.toNat) := by
  refine ⟨BitVec.ofInt 32 (halfSum m (x.toInt + y.toInt)), _, rfl, ?_, add32_carry x y false⟩
  rw [halfSum_toInt]
  exact halfSum_isAverage m _

/-! ### What the rows leave -/

/-- ASTAT after a fixed-point ALU operation: AI and AF are cleared. -/
theorem putAlu_fixed (a : W32) (z v n c s : Bool) : putAlu a ⟨z, v, n, c, s, false, false⟩ =
    (a &&& ~~~0x43F#32) ||| bitAt 0 z ||| bitAt 1 v ||| bitAt 2 n ||| bitAt 3 c ||| bitAt 4 s := by
  rw [putAlu_eq]
  simp only [AluFlags.bits, aluMask, ← BitVec.or_assoc]
  simp [bitAt]

/-- Settles O21: each operation is a row of the ALU, and its outcome has the flags asked for. -/
theorem fixedLogic : Obligations.FixedLogic := by
  refine ⟨fun i s y n r h hy hi => ?_, fun n x s y h hy => ?_, fun n x z s y h hy => ?_⟩
  · obtain ⟨k, row, clash, out⟩ := Instr.logic_of_logic? hi
    obtain ⟨u, run, result, astat, left⟩ := h.aluRow_ends hy row clash out
    refine ⟨u, run, result, ?_, left.stky_kept rfl⟩
    rw [astat, logicOut, putAlu_fixed]
    simp [bitAt]
  · intro v
    obtain ⟨r, out, magnitude⟩ := opAbs_eq s.reg.mode1 v
    obtain ⟨u, run, result, astat, left⟩ := h.aluRow_ends hy (i := .abs n x) rfl rfl (congrArg (aluTo (s.peIn y) n) out)
    refine ⟨u, r, run, result, magnitude, ?_, ?_⟩
    · rw [astat, putAlu_fixed]
      simp [bitAt]
    · have aos := (left.stky_bit (by decide)).trans (congrArg _ (fixSticky_aos _))
      rw [aos, Bool.or_eq_true, decide_eq_true_iff]
  · intro v w
    obtain ⟨r, carry, out, average, carried⟩ := opAvg_eq s.reg.mode1 v w
    obtain ⟨u, run, result, astat, left⟩ := h.aluRow_ends hy (i := .avg n x z) rfl rfl (congrArg (aluTo (s.peIn y) n) out)
    refine ⟨u, r, run, result, average, ?_, left.stky_kept rfl⟩
    rw [astat, putAlu_fixed]
    simp [bitAt, carried]

end Sys2Proof.Machine
end

section
/-!
PROOF. FixedCompare: what a comparison leaves in ASTAT, and the order that each of the three finds (44_alu_fixed.md R406, R428,
45_alu_float.md R450).
-/
namespace Sys2Proof.Machine

variable {s u : State} {y : Bool} {a v m : W32} {f : AluFlags} {gt : Bool}

/-! ### The compare accumulator -/

/-- Where the compare accumulator does not stand, its shift leaves ASTAT. -/
theorem shiftCacc_and (a : W32) (gt : Bool) (hm : 0xFF000000#32 &&& m = 0) : shiftCacc a gt &&& m = a &&& m := by
  have outside := shiftCacc_outside a gt (m := ~~~m) (by rwa [BitVec.not_not])
  rwa [BitVec.not_not] at outside

theorem shiftCacc_top (a : W32) (gt : Bool) : (shiftCacc a gt).getLsbD 31 = gt := by
  unfold shiftCacc
  rw [BitVec.getLsbD_append, if_neg (by omega), BitVec.getLsbD_append, if_neg (by omega)]
  cases gt <;> rfl

theorem shiftCacc_older (a : W32) (gt : Bool) {j : Nat} (low : 24 ≤ j) (high : j < 31) :
    (shiftCacc a gt).getLsbD j = a.getLsbD (j + 1) := by
  unfold shiftCacc
  rw [BitVec.getLsbD_append, if_neg (by omega), BitVec.getLsbD_append, if_pos (by omega), BitVec.getLsbD_extractLsb',
    decide_eq_true (by omega), Bool.true_and]
  exact congrArg a.getLsbD (by omega)

/-- `v` is the ASTAT word `a` after a comparison with the flags `f`: CACC shifted, with `gt` at the top. -/
structure Compared (a v : W32) (f : AluFlags) (gt : Bool) : Prop where
  alu : v &&& aluMask = f.bits
  top : v.getLsbD 31 = gt
  older : ∀ j, 24 ≤ j → j < 31 → v.getLsbD j = a.getLsbD (j + 1)
  others : v &&& 0x00FFFBC0#32 = a &&& 0x00FFFBC0#32

theorem Compared.flags (h : Compared a v f gt) : HasFlags v f := .of_and_aluMask h.alu

/-- Some of the ALU's bits of ASTAT are those of the flags. -/
theorem Compared.and_eq (h : Compared a v f gt) (hm : aluMask &&& m = m) : v &&& m = f.bits &&& m := by
  rw [← h.alu, BitVec.and_assoc, hm]

theorem shiftCacc_compared (a : W32) (f : AluFlags) (gt : Bool) : Compared a (shiftCacc (putAlu a f) gt) f gt where
  alu := (shiftCacc_and _ gt (by decide)).trans (putAlu_and_aluMask a f)
  top := shiftCacc_top _ gt
  older j low high := by
    have kept : (~~~aluMask).getLsbD (j + 1) = true := by
      interval_cases j <;> rfl
    have bit := congrArg (fun x : W32 => x.getLsbD (j + 1)) (putAlu_outside a f)
    rw [shiftCacc_older _ gt low high]
    simpa only [BitVec.getLsbD_and, kept, Bool.and_true] using bit
  others := by
    have outside : putAlu a f &&& ~~~~~~0x00FFFBC0#32 = a &&& ~~~~~~0x00FFFBC0#32 := putBits_outside _ _ _ _ (by decide)
    rw [shiftCacc_and _ gt (by decide)]
    rwa [BitVec.not_not] at outside

/-- A comparison leaves its flags and CACC in ASTAT, its sticky bits, and the data registers. -/
theorem State.Steady.compare_ends (h : s.Steady) (hy : y = true → s.simd = true) {i : Instr} {op : AluCmp} {x z : Reg}
    (hi : i.compute? = some (.aluCmp op x z)) {o : CmpOut} (ho : aluCmp (s.peIn y) op x z = o) :
    ∃ u, exec i s = .next u ∧ Compared (s.astat y) (u.astat y) o.fl o.gt ∧ (∀ n, u.dreg y n = s.dreg y n) ∧
      Delivers s u y (cmpTo (s.peIn y) o) := by
  obtain ⟨u, run, left⟩ := h.row_delivers hy hi rfl
  subst ho
  exact ⟨u, run, left.astat ▸ shiftCacc_compared _ _ _, left.dreg, left⟩

/-! ### What the comparisons find -/

/-- A comparison of numbers sets no flag but AZ and AN. -/
theorem compareFlags_fixed (z n : Bool) : (⟨z, false, n, false, false, false, false⟩ : AluFlags).bits &&& 0x43A#32 = 0 := by
  revert z n
  decide

/-- A floating-point comparison sets AF, and no other flag but AZ, AN and AI. -/
theorem compareFlags_float (z n i : Bool) : (⟨z, false, n, false, false, i, true⟩ : AluFlags).bits &&& 0x41A#32 = 0x400 := by
  revert z n i
  decide

/-- The outcome of a fixed-point comparison of two numbers. -/
def orderOf (a b : Int) : CmpOut :=
  ⟨⟨decide (a = b), false, decide (a < b), false, false, false, false⟩, decide (b < a), 0⟩

theorem opComp_eq (x z : W32) : opComp x z = orderOf x.toInt z.toInt := by
  simp only [opComp, orderOf, BitVec.toInt_inj, BitVec.slt_eq_decide, beq_eq_decide]

theorem opCompu_eq (x z : W32) : opCompu x z = orderOf x.toNat z.toNat := by
  simp only [opCompu, orderOf, Int.natCast_inj, Int.ofNat_lt, BitVec.toNat_inj, BitVec.ult_eq_decide, beq_eq_decide]

/-- A floating-point comparison orders the operands by value, unless one is a NAN. -/
theorem opFcomp_eq (m : W32) (x z : W40) : opFcomp m x z =
    let nan := decide (inF m x = .nan ∨ inF m z = .nan)
    ⟨⟨!nan && decide ((inF m x).rank = (inF m z).rank), false, !nan && decide ((inF m x).rank < (inF m z).rank), false, false,
      nan, true⟩, !nan && decide ((inF m z).rank < (inF m x).rank), fltSticky false false nan⟩ := by
  have quiet : fltSticky false false false = 0 := rfl
  unfold opFcomp
  by_cases nan : inF m x = .nan ∨ inF m z = .nan
  · simp [nan]
  · simp [nan, quiet]

/-- STKY.AIS is bit 5. -/
theorem fltSticky_ais (i : Bool) : (fltSticky false false i).getLsbD 5 = i := by
  cases i <;> rfl

/-- Settles O22: each comparison leaves the order it finds. -/
theorem fixedCompare : Obligations.FixedCompare := by
  refine ⟨fun x z s y unsigned h hy => ?_, fun x z s y h hy => ?_⟩
  · intro a b
    have found : ∃ u, exec (if unsigned then .compu x z else .comp x z) s = .next u ∧
        Compared (s.astat y) (u.astat y) (orderOf a b).fl (orderOf a b).gt ∧ ∀ n, u.dreg y n = s.dreg y n := by
      cases unsigned with
      | false =>
        obtain ⟨u, run, compared, kept, -⟩ := h.compare_ends hy (i := .comp x z) rfl (opComp_eq _ _)
        exact ⟨u, run, compared, kept⟩
      | true =>
        obtain ⟨u, run, compared, kept, -⟩ := h.compare_ends hy (i := .compu x z) rfl (opCompu_eq _ _)
        exact ⟨u, run, compared, kept⟩
    obtain ⟨u, run, compared, kept⟩ := found
    refine ⟨u, run, ?_, ?_, ?_, compared.older, ?_, compared.others, kept⟩
    · rw [compared.flags.az, orderOf, decide_eq_true_iff]
    · rw [compared.flags.an, orderOf, decide_eq_true_iff]
    · rw [compared.top, orderOf, decide_eq_true_iff]
    · exact (compared.and_eq (by decide)).trans (compareFlags_fixed _ _)
  · intro a b nan
    obtain ⟨u, run, compared, kept, left⟩ := h.compare_ends hy (i := .fcomp x z) rfl (opFcomp_eq _ _ _)
    have ais : (u.stky y).getLsbD 5 = ((s.stky y).getLsbD 5 || decide nan) :=
      (left.stky_bit (by decide)).trans (congrArg _ (fltSticky_ais _))
    have ordered (p : Prop) [Decidable p] : (!decide nan && decide p) = true ↔ ¬ nan ∧ p := by simp
    refine ⟨u, run, ?_, ?_, ?_, ?_, compared.older, ?_, compared.others, ?_, kept⟩
    · rw [compared.flags.az]
      exact ordered _
    · rw [compared.flags.an]
      exact ordered _
    · rw [compared.top]
      exact ordered _
    · rw [compared.flags.ai]
      exact decide_eq_true_iff
    · exact (compared.and_eq (by decide)).trans (compareFlags_float _ _ _)
    · rw [ais, Bool.or_eq_true, decide_eq_true_iff]

end Sys2Proof.Machine
end

section
/-!
PROOF. Rows of floating-point operations: what they leave of a word and its flags, and the words of the 40-bit format
(45_alu_float.md R440, R441, R444, 46_multiplier.md R519).
-/
namespace Sys2Proof.Machine

variable {m1 : W32} {x : W40} {s : Bool} {e m : Nat}

/-! ### What the rows leave -/

@[simp] theorem aluTo_fltOut (c : PeIn) (n : Reg) (w : W40) (z v neg s i u : Bool) :
    aluTo c n (fltOut w z v neg s i u) = floatOut c n w z v neg s i u := by
  have flags : putAlu c.astat ⟨z, v, neg, false, s, i, true⟩ =
      (c.astat &&& ~~~0x43F#32) ||| 0x400#32 ||| bitAt 0 z ||| bitAt 1 v ||| bitAt 2 neg ||| bitAt 4 s ||| bitAt 5 i := by
    have carry : bitAt 3 false = 0#32 := rfl
    have float : bitAt 10 true = 0x400#32 := rfl
    rw [putAlu_eq]
    simp only [AluFlags.bits, aluMask, carry, float, BitVec.or_zero]
    ac_rfl
  exact congrArg (fun a => (⟨[(n, w)], none, a, fltSticky u v i⟩ : PeOut)) flags

@[simp] theorem aluTo_passOut (c : PeIn) (n : Reg) (z : Bool) (w : W40) (s : Bool) :
    aluTo c n (passOut z w s) = floatOut c n w z false w.msb s false false := aluTo_fltOut ..

@[simp] theorem aluTo_nanOut (c : PeIn) (n : Reg) : aluTo c n nanOut = floatOut c n all1F false false true false true false :=
  aluTo_fltOut ..

/-- The flags of the multiplier all stand at the multiplier's places. -/
theorem MulFlags.bits_and_mulMask (f : MulFlags) : f.bits &&& mulMask = f.bits := by
  obtain ⟨mn, mv, mu, mi⟩ := f
  revert mn mv mu mi
  decide

@[simp] theorem fmulTo_fmulOut (c : PeIn) (n : Reg) (w : W40) (v u i : Bool) :
    fmulTo c n (fmulOut w v u i) = floatProduct c n w v u i := by
  have flags : putMul c.astat ⟨w.msb, v, u, i⟩ =
      (c.astat &&& ~~~0x3C0#32) ||| bitAt 6 w.msb ||| bitAt 7 v ||| bitAt 8 u ||| bitAt 9 i := by
    rw [putMul, putBits, MulFlags.bits_and_mulMask]
    simp only [MulFlags.bits, ← BitVec.or_assoc]
    rfl
  exact congrArg (fun a => (⟨[(n, w)], none, a, bitAt 7 v ||| bitAt 8 u ||| bitAt 9 i⟩ : PeOut)) flags

/-! ### The parts of a word -/

theorem getLsbD_packF (s : Bool) (e f : Nat) {j : Nat} (hj : j < 40) :
    (packF s e f).getLsbD j = if j < 31 then f.testBit j else if j < 39 then e.testBit (j - 31) else s := by
  have sign : j < 39 ∨ j = 39 := by omega
  unfold packF
  simp only [BitVec.getLsbD_append, BitVec.getLsbD_ofNat, BitVec.getLsbD_ofBool]
  split
  · next frac => simp [frac]
  · next exp =>
    split
    · next low => simp [show j - 31 < 8 by omega, show j < 39 by omega]
    · next high => simp [show j = 39 by omega]

@[simp] theorem msb_packF (s : Bool) (e f : Nat) : (packF s e f).msb = s := by
  rw [BitVec.msb_eq_getLsbD_last, getLsbD_packF _ _ _ (by decide)]
  rfl

theorem exp_packF (s : Bool) {e : Nat} (f : Nat) (he : e < 256) : ((packF s e f).extractLsb' 31 8).toNat = e := by
  have word : (packF s e f).extractLsb' 31 8 = BitVec.ofNat 8 e := by
    refine BitVec.eq_of_getLsbD_eq fun j hj => ?_
    rw [BitVec.getLsbD_extractLsb', getLsbD_packF _ _ _ (by omega), if_neg (by omega), if_pos (by omega), BitVec.getLsbD_ofNat]
    simp
  rw [word, BitVec.toNat_ofNat, Nat.mod_eq_of_lt he]

theorem frac_packF (s : Bool) (e : Nat) {f : Nat} (hf : f < 2 ^ 31) : ((packF s e f).extractLsb' 0 31).toNat = f := by
  have word : (packF s e f).extractLsb' 0 31 = BitVec.ofNat 31 f := by
    refine BitVec.eq_of_getLsbD_eq fun j hj => ?_
    rw [BitVec.getLsbD_extractLsb', getLsbD_packF _ _ _ (by omega), if_pos (by omega), BitVec.getLsbD_ofNat]
    simp
  rw [word, BitVec.toNat_ofNat, Nat.mod_eq_of_lt hf]

theorem packF_floatWord (s : Bool) {e f : Nat} (he : e < 256) (hf : f < 2 ^ 31) :
    FloatWord (packF s e f) s e (2 ^ 31 + f) :=
  ⟨msb_packF s e f, congrArg _ (exp_packF s f he), congrArg _ (frac_packF s e hf)⟩

/-- Only a word of the largest exponent with a fraction is the NAN result. -/
theorem packF_ne_all1F (s : Bool) {e f : Nat} (he : e < 256) (hf : f < 2 ^ 31) (h : e ≠ 255 ∨ f = 0) :
    packF s e f ≠ all1F := by
  intro nan
  have exp := (exp_packF s f he).symm.trans (congrArg (fun w : W40 => (w.extractLsb' 31 8).toNat) nan)
  have frac := (frac_packF s e hf).symm.trans (congrArg (fun w : W40 => (w.extractLsb' 0 31).toNat) nan)
  rcases h with small | whole
  · exact small exp
  · rw [whole] at frac
    exact absurd frac (by decide)

theorem getLsbD_withSign (w : W40) (s : Bool) {j : Nat} (hj : j < 40) :
    (withSign w s).getLsbD j = if j < 39 then w.getLsbD j else s := by
  unfold withSign
  rw [BitVec.getLsbD_append]
  split
  · next low => simp [low, -BitVec.getLsbD_eq_getElem]
  · simp [show j = 39 by omega]

@[simp] theorem withSign_packF (s t : Bool) (e f : Nat) : withSign (packF s e f) t = packF t e f := by
  refine BitVec.eq_of_getLsbD_eq fun j hj => ?_
  rw [getLsbD_withSign _ _ hj, getLsbD_packF _ _ _ hj, getLsbD_packF _ _ _ hj]
  by_cases low : j < 39
  · simp only [if_pos low]
  · rw [if_neg low, if_neg (by omega), if_neg low]

/-! ### Operands -/

theorem inF_num (h : inF m1 x = .num s e m) : (1 ≤ e ∧ e ≤ 254) ∧ 2 ^ 31 ≤ m ∧ m < 2 ^ 32 := by
  unfold inF classify at h
  have expLt : expOf (condWord m1 x) < 256 := BitVec.isLt _
  have fracLt : (fracOf (condWord m1 x)).toNat < 2 ^ 31 := BitVec.isLt _
  split_ifs at h with special zero
  cases h
  omega

end Sys2Proof.Machine
end

section
/-!
PROOF. Rounding: the model's rounding shift is the rounding of the spec, and what it delivers is the rounded word
(45_alu_float.md R442).
-/
namespace Sys2Proof.Machine

variable {z s : Bool} {m1 : W32} {m d n p : Nat} {x : Int}

/-! ### A quotient rounded -/

theorem isRounded_roundShift (z : Bool) (m d : Nat) : IsRounded z m d (roundShift z m d) := by
  have whole : m / 2 ^ d * 2 ^ d + m % 2 ^ d = m := Nat.div_add_mod' m _
  have rest : m % 2 ^ d < 2 ^ d := Nat.mod_lt _ (Nat.two_pow_pos d)
  unfold IsRounded roundShift
  simp only [Nat.shiftRight_eq_div_pow, Bool.or_eq_true, Bool.and_eq_true, decide_eq_true_eq, beq_iff_eq]
  generalize m / 2 ^ d = q at *
  generalize m % 2 ^ d = r at *
  generalize 2 ^ d = P at *
  cases z with
  | true =>
    simp only [if_true, Nat.add_mul]
    omega
  | false =>
    simp only [Bool.false_eq_true, if_false, Nat.mul_assoc, Nat.add_mul]
    split
    · next up =>
      have next : (q + 1) * P = q * P + P := Nat.succ_mul q P
      refine ⟨?_, ?_, ?_⟩ <;> omega
    · next down =>
      refine ⟨?_, ?_, ?_⟩ <;> omega

/-- Numerator and denominator may be scaled alike. -/
theorem IsRounded.scale (h : IsRounded z m d n) (k : Nat) : IsRounded z (m * 2 ^ k) (d + k) n := by
  have pos : 0 < 2 ^ k := Nat.two_pow_pos k
  cases z with
  | true =>
    obtain ⟨low, high⟩ := h
    refine ⟨?_, ?_⟩
    · calc n * 2 ^ (d + k) = n * 2 ^ d * 2 ^ k := by ring
        _ ≤ m * 2 ^ k := Nat.mul_le_mul_right _ low
    · calc m * 2 ^ k < (n + 1) * 2 ^ d * 2 ^ k := Nat.mul_lt_mul_of_pos_right high pos
        _ = (n + 1) * 2 ^ (d + k) := by ring
  | false =>
    obtain ⟨low, high, tie⟩ := h
    have left : 2 * n * 2 ^ (d + k) = 2 * n * 2 ^ d * 2 ^ k := by ring
    have right : 2 * (m * 2 ^ k) + 2 ^ (d + k) = (2 * m + 2 ^ d) * 2 ^ k := by ring
    have above : (2 * n + 1) * 2 ^ (d + k) = (2 * n + 1) * 2 ^ d * 2 ^ k := by ring
    have twice : 2 * (m * 2 ^ k) = 2 * m * 2 ^ k := by ring
    refine ⟨?_, ?_, ?_⟩
    · rw [left, right]
      exact Nat.mul_le_mul_right _ low
    · rw [twice, above]
      exact Nat.mul_le_mul_right _ high
    · rw [left, right, twice, above, Nat.mul_left_inj pos.ne', Nat.mul_left_inj pos.ne']
      exact tie

/-- An integer is rounded to itself. -/
theorem isRounded_exact (z : Bool) (n d : Nat) : IsRounded z (n * 2 ^ d) d n := by
  have h := (isRounded_roundShift z n 0).scale d
  have self : roundShift z n 0 = n := by simp [roundShift, Nat.mod_one]
  rwa [self, Nat.zero_add] at h

theorem IsRounded.le (h : IsRounded z m d n) {a : Nat} (ha : a * 2 ^ d ≤ m) : a ≤ n := by
  have pos : 0 < 2 ^ d := Nat.two_pow_pos d
  cases z with
  | true => exact Nat.lt_succ_iff.1 (lt_of_mul_lt_mul_right (ha.trans_lt h.2) pos.le)
  | false =>
    have bound : 2 * a * 2 ^ d ≤ (2 * n + 1) * 2 ^ d := by
      rw [Nat.mul_assoc]
      exact (Nat.mul_le_mul_left 2 ha).trans h.2.1
    have := Nat.le_of_mul_le_mul_right bound pos
    omega

theorem IsRounded.ge (h : IsRounded z m d n) {b : Nat} (hb : m ≤ b * 2 ^ d) : n ≤ b := by
  have pos : 0 < 2 ^ d := Nat.two_pow_pos d
  cases z with
  | true => exact Nat.le_of_mul_le_mul_right (h.1.trans hb) pos
  | false =>
    have bound : 2 * n * 2 ^ d ≤ (2 * b + 1) * 2 ^ d := by
      rw [Nat.add_mul, Nat.mul_assoc 2 b, Nat.one_mul]
      exact h.1.trans (Nat.add_le_add_right (Nat.mul_le_mul_left 2 hb) _)
    have := Nat.le_of_mul_le_mul_right bound pos
    omega

/-! ### A number rounded -/

/-- A number may be written with another power of two. -/
theorem RoundedWord.scale {w : W40} {v u : Bool} (h : RoundedWord m1 p s m x w v u) (k : Nat) :
    RoundedWord m1 p s (m * 2 ^ k) (x - k) w v u := by
  obtain ⟨l, n, low, high, rounded, rest⟩ := h
  refine ⟨l + k, n, ?_, ?_, ?_, ?_⟩
  · rw [Nat.pow_add]
    exact Nat.mul_le_mul_right _ low
  · rw [show l + k + 1 = l + 1 + k by omega, Nat.pow_add _ (l + 1)]
    exact Nat.mul_lt_mul_of_pos_right high (Nat.two_pow_pos k)
  · have scaled := rounded.scale k
    rwa [show m * 2 ^ p * 2 ^ k = m * 2 ^ k * 2 ^ p by ring, show l + 1 + k = l + k + 1 by omega] at scaled
  · rwa [show ((l + k : Nat) : Int) + (x - k) = l + x by omega]

/-- The significand of `outF`: `m` rounded to `p` bits. -/
def sigOf (m1 : W32) (p m : Nat) : Nat :=
  if m.log2 + 1 ≤ p then m <<< (p - 1 - m.log2) else roundShift (trunc m1) m (m.log2 + 1 - p)

theorem sigOf_isRounded : IsRounded (trunc m1) (m * 2 ^ p) (m.log2 + 1) (sigOf m1 p m) := by
  unfold sigOf
  split
  · next short =>
    have whole := isRounded_exact (trunc m1) (m * 2 ^ (p - 1 - m.log2)) (m.log2 + 1)
    rwa [Nat.mul_assoc, ← Nat.pow_add, show p - 1 - m.log2 + (m.log2 + 1) = p by omega,
      ← Nat.shiftLeft_eq m (p - 1 - _)] at whole
  · next long =>
    have scaled := (isRounded_roundShift (trunc m1) m (m.log2 + 1 - p)).scale p
    rwa [show m.log2 + 1 - p + p = m.log2 + 1 by omega] at scaled

/-- The rounded significand has `p` bits, or is the next power of two. -/
theorem sigOf_range (hp : 0 < p) (hm : 0 < m) : 2 ^ (p - 1) ≤ sigOf m1 p m ∧ sigOf m1 p m ≤ 2 ^ p := by
  have low : 2 ^ m.log2 ≤ m := Nat.log2_self_le hm.ne'
  have high : m < 2 ^ (m.log2 + 1) := Nat.lt_log2_self
  constructor
  · refine sigOf_isRounded.le ?_
    rw [← Nat.pow_add, show p - 1 + (m.log2 + 1) = m.log2 + p by omega, Nat.pow_add]
    exact Nat.mul_le_mul_right _ low
  · refine sigOf_isRounded.ge ?_
    rw [Nat.mul_comm]
    exact Nat.mul_le_mul_left _ high.le

/-- The precisions of results: 24 and 32 significant bits. -/
theorem precision_cases (m1 : W32) : precision m1 = 24 ∨ precision m1 = 32 := by
  unfold precision
  split <;> simp

/-- A significand `n` of `p` bits without its leading one is a fraction of the format. -/
theorem fraction_eq (hp : p = 24 ∨ p = 32) (low : 2 ^ (p - 1) ≤ n) (high : n < 2 ^ p) :
    (n - 2 ^ (p - 1)) <<< (32 - p) < 2 ^ 31 ∧ 2 ^ 31 + (n - 2 ^ (p - 1)) <<< (32 - p) = n * 2 ^ (32 - p) := by
  rw [Nat.shiftLeft_eq]
  rcases hp with rfl | rfl
  · norm_num at low high ⊢
    omega
  · norm_num at low high ⊢
    omega

/-- The significand that `outF` packs: one rounded up to 2^p is halved. -/
def packSig (m1 : W32) (p m : Nat) : Nat := if sigOf m1 p m = 2 ^ p then 2 ^ (p - 1) else sigOf m1 p m
/-- The exponent that `outF` packs: of a significand rounded up to 2^p the next one. -/
def packExp (m1 : W32) (p m : Nat) (x : Int) : Int := m.log2 + x + (if sigOf m1 p m = 2 ^ p then 1 else 0)

theorem outF_eq (m1 : W32) (p : Nat) (s : Bool) (m : Nat) (x : Int) : outF m1 p s m x =
    if 127 < packExp m1 p m x then
      ⟨if trunc m1 then packF s 254 ((2 ^ (p - 1) - 1) <<< (32 - p)) else infWord s, true, false⟩
    else if packExp m1 p m x < -126 then ⟨zeroWord s, false, true⟩
    else ⟨packF s (packExp m1 p m x + 127).toNat ((packSig m1 p m - 2 ^ (p - 1)) <<< (32 - p)), false, false⟩ := by
  simp only [outF, packExp, packSig, sigOf, beq_iff_eq]
  rfl

/-- The packed word holds the number rounded, as far as its exponent is that of a number. -/
theorem roundedWord_of_pack {w : W40} {v u : Bool} (m1 : W32) (s : Bool) (hm : 0 < m) (x : Int)
    (h : let e := packExp m1 p m x
      if 127 < e then
        v = true ∧ u = false ∧
          (if trunc m1 then FloatWord w s 254 ((2 ^ p - 1) * 2 ^ (32 - p)) else FloatWord w s 255 (2 ^ 31))
      else if e < -126 then v = false ∧ u = true ∧ FloatWord w s 0 (2 ^ 31)
      else v = false ∧ u = false ∧ FloatWord w s (e + 127) (packSig m1 p m * 2 ^ (32 - p))) :
    RoundedWord m1 p s m x w v u :=
  ⟨m.log2, sigOf m1 p m, Nat.log2_self_le hm.ne', Nat.lt_log2_self, sigOf_isRounded, h⟩

theorem packSig_range (hp : 0 < p) (hm : 0 < m) : 2 ^ (p - 1) ≤ packSig m1 p m ∧ packSig m1 p m < 2 ^ p := by
  obtain ⟨low, high⟩ := sigOf_range (m1 := m1) hp hm
  unfold packSig
  split
  · exact ⟨le_rfl, Nat.pow_lt_pow_right (by decide) (by omega)⟩
  · omega

/-- What `outF` delivers for any sign: a word of the format that is not the NAN result, overflow and underflow. -/
theorem outF_rounded (m1 : W32) (hp : p = 24 ∨ p = 32) (hm : 0 < m) (x : Int) : ∃ e f v u, e < 256 ∧ f < 2 ^ 31 ∧
    (e ≠ 255 ∨ f = 0) ∧ (-126 ≤ (m.log2 : Int) + x → u = false) ∧
    ∀ s, outF m1 p s m x = ⟨packF s e f, v, u⟩ ∧ RoundedWord m1 p s m x (packF s e f) v u := by
  have pos : 0 < p := by omega
  obtain ⟨low, high⟩ := packSig_range (m1 := m1) pos hm
  obtain ⟨fits, sig⟩ := fraction_eq hp low high
  by_cases above : 127 < packExp m1 p m x
  · cases truncates : trunc m1 with
    | true =>
      have largest : (2 ^ (p - 1) - 1) <<< (32 - p) < 2 ^ 31 ∧
          2 ^ 31 + (2 ^ (p - 1) - 1) <<< (32 - p) = (2 ^ p - 1) * 2 ^ (32 - p) := by
        rcases hp with rfl | rfl <;> decide
      refine ⟨254, _, true, false, by decide, largest.1, .inl (by decide), fun _ => rfl, fun s => ⟨?_, ?_⟩⟩
      · rw [outF_eq, if_pos above, if_pos truncates]
      · refine roundedWord_of_pack m1 s hm x ?_
        simp only [if_pos above, if_pos truncates, ← largest.2, true_and]
        exact packF_floatWord s (by decide) largest.1
    | false =>
      refine ⟨255, 0, true, false, by decide, by decide, .inr rfl, fun _ => rfl, fun s => ⟨?_, ?_⟩⟩
      · rw [outF_eq, if_pos above, if_neg (Bool.eq_false_iff.1 truncates), infWord]
      · refine roundedWord_of_pack m1 s hm x ?_
        simp only [if_pos above, if_neg (Bool.eq_false_iff.1 truncates), true_and]
        exact packF_floatWord s (by decide) (by decide)
  · by_cases under : packExp m1 p m x < -126
    · refine ⟨0, 0, false, true, by decide, by decide, .inr rfl, fun normal => ?_, fun s => ⟨?_, ?_⟩⟩
      · unfold packExp at under
        split at under <;> omega
      · rw [outF_eq, if_neg above, if_pos under, zeroWord]
      · refine roundedWord_of_pack m1 s hm x ?_
        simp only [if_neg above, if_pos under, true_and]
        exact packF_floatWord s (by decide) (by decide)
    · have exp : (packExp m1 p m x + 127).toNat < 255 := by omega
      refine ⟨_, _, false, false, exp.trans (by decide), fits, .inl exp.ne, fun _ => rfl, fun s => ⟨?_, ?_⟩⟩
      · rw [outF_eq, if_neg above, if_neg under]
      · refine roundedWord_of_pack m1 s hm x ?_
        have word := packF_floatWord s (exp.trans (by decide)) fits
        rw [sig, Int.toNat_of_nonneg (by omega)] at word
        simp only [if_neg above, if_neg under, true_and]
        exact word

/-- What `outF` delivers is the number rounded. -/
theorem exists_roundedWord (m1 : W32) (hp : p = 24 ∨ p = 32) (s : Bool) (hm : 0 < m) (e0 : Int) : ∃ w o u,
    RoundedWord m1 p s m e0 w o u ∧ outF m1 p s m e0 = ⟨w, o, u⟩ ∧ (-126 ≤ (m.log2 : Int) + e0 → u = false) := by
  obtain ⟨e, f, v, u, -, -, -, normal, out⟩ := outF_rounded m1 hp hm e0
  exact ⟨_, v, u, (out s).2, (out s).1, normal⟩

end Sys2Proof.Machine
end

section
/-!
PROOF. FloatSums: a sum of finite operands is their exact sum rounded once, ABS takes the sign of its outcome away, and the
product is the exact product rounded once (45_alu_float.md R445 to R449, 46_multiplier.md R519).
-/
namespace Sys2Proof.Machine

variable {m1 : W32} {a b : Flt} {half mag : Bool}

/-! ### The exact sum -/

/-- A sign and a magnitude as an integer. -/
def signed (s : Bool) (m : Nat) : Int := if s then -(m : Int) else m

theorem Flt.rank_eq (a : Flt) : a.rank = signed a.sign a.mag := rfl

theorem signed_mul (s : Bool) (m k : Nat) : signed s m * k = signed s (m * k) := by
  unfold signed
  split <;> push_cast <;> ring

/-- The exact sum at the lower of the two powers of two. -/
theorem exactSum_scaled (sa : Bool) (ea ma : Nat) (sb : Bool) (eb mb : Nat) :
    (exactSum sa ea ma sb eb mb).1 * (2 ^ Nat.min ea eb : Nat) = signed sa (ma <<< ea) + signed sb (mb <<< eb) := by
  have shift {e k : Nat} (m : Nat) (h : k ≤ e) : m <<< (e - k) * 2 ^ k = m <<< e := by
    rw [Nat.shiftLeft_eq, Nat.shiftLeft_eq, Nat.mul_assoc, ← Nat.pow_add, Nat.sub_add_cancel h]
  show (signed sa (ma <<< (ea - Nat.min ea eb)) + signed sb (mb <<< (eb - Nat.min ea eb))) * _ = _
  rw [Int.add_mul, signed_mul, signed_mul, shift ma (Nat.min_le_left ea eb), shift mb (Nat.min_le_right ea eb)]

/-- What a sum of exact value `t` leaves: a zero of the given sign, or the value rounded once, in a word that has the same
exponent and fraction for either sign. -/
def SumOf (m1 : W32) (t : Int) (zeroSign half : Bool) (o : AluOut) : Prop :=
  (t = 0 → o = fltOut (zeroWord zeroSign) true false zeroSign false false false) ∧
  (t ≠ 0 → ∃ e f v u, (∀ s, packF s e f ≠ all1F) ∧
    (∀ s, RoundedWord m1 (precision m1) s t.natAbs (if half then -159 else -158) (packF s e f) v u) ∧
    o = fltOut (packF (decide (t < 0)) e f) u v (decide (t < 0)) false false u)

theorem finiteSum_sumOf (m1 : W32) (sa : Bool) (ea ma : Nat) (sb : Bool) (eb mb : Nat) (half : Bool) :
    SumOf m1 (signed sa (ma <<< ea) + signed sb (mb <<< eb)) (sa && sb) half (finiteSum m1 sa ea ma sb eb mb half) := by
  rw [← exactSum_scaled]
  have pos : (0 : Int) < (2 ^ Nat.min ea eb : Nat) := Int.natCast_pos.2 (Nat.two_pow_pos _)
  have power : (exactSum sa ea ma sb eb mb).2 = (Nat.min ea eb : Int) - 158 := rfl
  unfold finiteSum
  generalize exactSum sa ea ma sb eb mb = sum at *
  obtain ⟨t, x⟩ := sum
  obtain rfl : x = _ := power
  generalize Nat.min ea eb = k at *
  constructor
  · intro zero
    exact if_pos ((Int.mul_eq_zero.1 zero).resolve_right pos.ne')
  · intro nonzero
    have some : t ≠ 0 := fun h => nonzero (by rw [h, Int.zero_mul])
    obtain ⟨e, f, v, u, he, hf, proper, -, out⟩ := outF_rounded m1 (precision_cases m1) (Int.natAbs_pos.2 some)
      (if half then (k : Int) - 158 - 1 else (k : Int) - 158)
    have negative : decide (t * (2 ^ k : Nat) < 0) = decide (t < 0) := decide_eq_decide.2 (by
      rw [← not_le, ← not_le, Int.mul_nonneg_iff_of_pos_right pos])
    refine ⟨e, f, v, u, fun s => packF_ne_all1F s he hf proper, fun s => ?_, ?_⟩
    · have scaled := (out s).2.scale k
      rw [Int.natAbs_mul, Int.natAbs_natCast]
      convert scaled using 1
      split <;> ring
    · rw [negative]
      refine (if_neg some).trans ?_
      simp only [(out _).1]

/-! ### The classes of operands -/

theorem Flt.isZero_iff : a.isZero = true ↔ ∃ s, a = .zero s := by
  cases a <;> simp [Flt.isZero]

theorem Flt.finite_iff : a.finite = true ↔ (∃ s, a = .zero s) ∨ ∃ s e m, a = .num s e m := by
  cases a <;> simp [Flt.finite]

theorem Flt.not_finite_iff : a.finite = false ↔ a = .nan ∨ ∃ s, a = .inf s := by
  cases a <;> simp [Flt.finite]

/-- A finite operand of rank zero is a zero. -/
theorem isZero_of_rank {x : W40} (finite : (inF m1 x).finite = true) (rank : (inF m1 x).rank = 0) :
    (inF m1 x).isZero = true := by
  rcases Flt.finite_iff.1 finite with zero | ⟨s, e, m, num⟩
  · exact Flt.isZero_iff.2 zero
  · have large : 2 ^ 31 ≤ m := (inF_num num).2.1
    have mag : 0 < m <<< e := by
      rw [Nat.shiftLeft_eq]
      exact Nat.mul_pos (by omega) (Nat.two_pow_pos e)
    rw [num, Flt.rank_eq] at rank
    change signed s (m <<< e) = 0 at rank
    unfold signed at rank
    split at rank <;> omega

/-! ### The sum -/

/-- Finite operands have the sum of their exact values; a zero has the exponent of the other operand. -/
theorem sumF_finite (ha : a.finite = true) (hb : b.finite = true) (half : Bool) :
    SumOf m1 (a.rank + b.rank) (a.sign && b.sign) half (sumF m1 a b half) := by
  rcases Flt.finite_iff.1 ha with ⟨sa, rfl⟩ | ⟨sa, ea, ma, rfl⟩ <;>
    rcases Flt.finite_iff.1 hb with ⟨sb, rfl⟩ | ⟨sb, eb, mb, rfl⟩
  · exact finiteSum_sumOf m1 sa 1 0 sb 1 0 half
  · have sum := finiteSum_sumOf m1 sa eb 0 sb eb mb half
    rwa [Nat.zero_shiftLeft] at sum
  · have sum := finiteSum_sumOf m1 sa ea ma sb ea 0 half
    rwa [Nat.zero_shiftLeft] at sum
  · exact finiteSum_sumOf m1 sa ea ma sb eb mb half

theorem sumF_inf {s : Bool} (h : (a = .inf s ∧ (b.finite = true ∨ b = .inf s)) ∨ (b = .inf s ∧ a.finite = true))
    (half : Bool) : sumF m1 a b half = fltOut (infWord s) false false s false false false := by
  rcases h with ⟨rfl, finite | rfl⟩ | ⟨rfl, finite⟩
  · rcases Flt.finite_iff.1 finite with ⟨t, rfl⟩ | ⟨t, e, m, rfl⟩ <;> rfl
  · exact if_pos rfl
  · rcases Flt.finite_iff.1 finite with ⟨t, rfl⟩ | ⟨t, e, m, rfl⟩ <;> rfl

theorem sumF_invalid (h : (∃ s, a = .inf s ∧ b = .inf !s) ∨ a = .nan ∨ b = .nan) (half : Bool) :
    sumF m1 a b half = nanOut := by
  rcases h with ⟨s, rfl, rfl⟩ | rfl | rfl
  · exact if_neg (Bool.self_ne_not s)
  · rfl
  · cases a <;> rfl

/-! ### The sum of ABS -/

/-- A sum, or its absolute value. -/
def absIf (mag : Bool) (r : AluOut) : AluOut := if mag then absOfSum r else r

theorem absIf_packF {s : Bool} {e f : Nat} (proper : packF s e f ≠ all1F) (mag z v t i u : Bool) :
    absIf mag (fltOut (packF s e f) z v s t i u) = fltOut (packF (s && !mag) e f) z v (s && !mag) t i u := by
  cases mag with
  | false => simp [absIf]
  | true => simp [absIf, absOfSum, fltOut, proper]

theorem absIf_nanOut (mag : Bool) : absIf mag nanOut = fltOut all1F false false (!mag) false true false := by
  cases mag <;> rfl

theorem packF_special (s : Bool) : zeroWord s ≠ all1F ∧ infWord s ≠ all1F :=
  ⟨packF_ne_all1F s (by decide) (by decide) (.inr rfl), packF_ne_all1F s (by decide) (by decide) (.inr rfl)⟩

/-! ### The product -/

variable {x y : W40}

theorem opFmul_num {s t : Bool} {e k m n : Nat} (hx : inF m1 x = .num s e m) (hy : inF m1 y = .num t k n) :
    ∃ w v u, RoundedWord m1 (precision m1) (s ^^ t) (m * n) (e + k - 316) w v u ∧
      opFmul m1 x y = fmulOut w v u false := by
  have pos : 0 < m * n := by
    have := (inF_num hx).2.1
    have := (inF_num hy).2.1
    exact Nat.mul_pos (by omega) (by omega)
  obtain ⟨w, v, u, rounded, out, -⟩ := exists_roundedWord m1 (precision_cases m1) (s ^^ t) pos ((e : Int) + k - 316)
  refine ⟨w, v, u, rounded, ?_⟩
  simp only [opFmul, hx, hy, Flt.sign, out]

theorem opFmul_zero (hx : (inF m1 x).finite = true) (hy : (inF m1 y).finite = true)
    (h : (inF m1 x).isZero = true ∨ (inF m1 y).isZero = true) :
    opFmul m1 x y = fmulOut (zeroWord ((inF m1 x).sign ^^ (inF m1 y).sign)) false false false := by
  rcases h with zero | zero <;> obtain ⟨s, zero⟩ := Flt.isZero_iff.1 zero
  · rcases Flt.finite_iff.1 hy with ⟨t, other⟩ | ⟨t, e, m, other⟩ <;> simp only [opFmul, zero, other]
  · rcases Flt.finite_iff.1 hx with ⟨t, other⟩ | ⟨t, e, m, other⟩ <;> simp only [opFmul, zero, other]

/-- Neither a NAN nor a zero. -/
theorem Flt.nonzero_cases (nan : a ≠ .nan) (zero : a.isZero = false) : (∃ s, a = .inf s) ∨ ∃ s e m, a = .num s e m := by
  cases a with
  | nan => exact absurd rfl nan
  | zero s => cases zero
  | inf s => exact .inl ⟨s, rfl⟩
  | num s e m => exact .inr ⟨s, e, m, rfl⟩

theorem opFmul_inf (hx : inF m1 x ≠ .nan) (hy : inF m1 y ≠ .nan)
    (h : (inF m1 x).finite = false ∨ (inF m1 y).finite = false) (zx : (inF m1 x).isZero = false)
    (zy : (inF m1 y).isZero = false) :
    opFmul m1 x y = fmulOut (infWord ((inF m1 x).sign ^^ (inF m1 y).sign)) false false false := by
  rcases h with large | large
  · obtain ⟨s, inf⟩ := (Flt.not_finite_iff.1 large).resolve_left hx
    rcases Flt.nonzero_cases hy zy with ⟨t, other⟩ | ⟨t, e, m, other⟩ <;> simp only [opFmul, inf, other]
  · obtain ⟨s, inf⟩ := (Flt.not_finite_iff.1 large).resolve_left hy
    rcases Flt.nonzero_cases hx zx with ⟨t, other⟩ | ⟨t, e, m, other⟩ <;> simp only [opFmul, inf, other]

theorem opFmul_nan (h : inF m1 x = .nan ∨ inF m1 y = .nan) : opFmul m1 x y = fmulOut all1F false false true := by
  rcases h with nan | nan
  · simp only [opFmul, nan]
  · cases other : inF m1 x <;> simp only [opFmul, nan, other]

theorem opFmul_invalid (h : ((inF m1 x).finite = false ∧ (inF m1 y).isZero = true) ∨
    ((inF m1 y).finite = false ∧ (inF m1 x).isZero = true) ∨ inF m1 x = .nan ∨ inF m1 y = .nan) :
    opFmul m1 x y = fmulOut all1F false false true := by
  rcases h with ⟨large, zero⟩ | ⟨large, zero⟩ | nan
  · obtain ⟨t, zero⟩ := Flt.isZero_iff.1 zero
    rcases Flt.not_finite_iff.1 large with nan | ⟨s, inf⟩
    · exact opFmul_nan (.inl nan)
    · simp only [opFmul, inf, zero]
  · obtain ⟨t, zero⟩ := Flt.isZero_iff.1 zero
    rcases Flt.not_finite_iff.1 large with nan | ⟨s, inf⟩
    · exact opFmul_nan (.inr nan)
    · simp only [opFmul, inf, zero]
  · exact opFmul_nan nan

/-! ### The statement -/

/-- Each sum is one of the operands as they are or with the second negated, exact or halved, as it is or without its sign. -/
theorem computePe_sum {op : AluBin} {minus half mag : Bool} (h : (op, minus, half, mag) ∈
    [(AluBin.fadd, false, false, false), (.fsub, true, false, false), (.fabsAdd, false, false, true),
      (.fabsSub, true, false, true), (.favg, false, true, false)]) (c : PeIn) (n x y : Reg) :
    computePe (.aluBin op n x y) c = aluTo c n (absIf mag (sumF c.mode1 (inF c.mode1 (c.reg x))
      (if minus then (inF c.mode1 (c.reg y)).neg else inF c.mode1 (c.reg y)) half)) := by
  simp only [List.mem_cons, Prod.mk.injEq, List.not_mem_nil, or_false] at h
  rcases h with ⟨rfl, rfl, rfl, rfl⟩ | ⟨rfl, rfl, rfl, rfl⟩ | ⟨rfl, rfl, rfl, rfl⟩ | ⟨rfl, rfl, rfl, rfl⟩ |
    ⟨rfl, rfl, rfl, rfl⟩ <;> rfl

/-- Settles O29: the sums are one function of two operands, taken apart by their classes, and so is the product. -/
theorem floatSums : Obligations.FloatSums := by
  intro c n x y a b0
  refine ⟨fun op minus half mag hop => ?_, fun s1 e1 m1 s2 e2 m2 ha hb => ?_, fun fa fb zero => ?_,
    fun na nb large za zb => ?_, fun invalid => ?_⟩
  · intro b t o
    have ho : o = aluTo c n (absIf mag (sumF c.mode1 a b half)) := computePe_sum hop c n x y
    refine ⟨fun fa fb nonzero => ?_, fun fa fb zero => ?_, fun s h => ?_, fun invalid => ?_⟩
    · obtain ⟨e, f, v, u, proper, rounded, out⟩ := (sumF_finite fa fb half).2 nonzero
      refine ⟨_, v, u, rounded _, ?_⟩
      rw [ho, out, absIf_packF (proper _), aluTo_fltOut]
    · rw [ho, (sumF_finite fa fb half).1 zero, zeroWord, absIf_packF (packF_special _).1, aluTo_fltOut]
      rfl
    · rw [ho, sumF_inf h, infWord, absIf_packF (packF_special _).2, aluTo_fltOut]
      rfl
    · rw [ho, sumF_invalid invalid, absIf_nanOut, aluTo_fltOut]
  · obtain ⟨w, v, u, rounded, out⟩ := opFmul_num ha hb
    refine ⟨w, v, u, ?_, ?_⟩
    · rw [ha, hb]
      exact rounded
    · exact (congrArg (fmulTo c n) out).trans (fmulTo_fmulOut ..)
  · exact (congrArg (fmulTo c n) (opFmul_zero fa fb (zero.imp (isZero_of_rank fa) (isZero_of_rank fb)))).trans
      (fmulTo_fmulOut ..)
  · exact (congrArg (fmulTo c n) (opFmul_inf na nb large za zb)).trans (fmulTo_fmulOut ..)
  · exact (congrArg (fmulTo c n) (opFmul_invalid invalid)).trans (fmulTo_fmulOut ..)

end Sys2Proof.Machine
end

section
/-!
PROOF. FloatConversions: the integer a conversion to fixed point takes, with the far shifts that the model cuts at 64 bits,
and the conversions that round once (45_alu_float.md R454 to R459).
-/
namespace Sys2Proof.Machine

variable {z s : Bool} {r : FixRound} {m1 : W32} {x : W40} {m d k n : Nat} {j : Int}

/-! ### A number as an integer -/

/-- The integer that a conversion takes for `m / 2^d`. -/
def fixedOf (r : FixRound) (s : Bool) (m d : Nat) : Int :=
  match r with
  | .nearest => signed s (roundShift false m d)
  | .toZero => signed s (m >>> d)
  | .floor => if s then (-(m : Int)) / 2 ^ d else ((m >>> d : Nat) : Int)

theorem fixedOf_isFixed (r : FixRound) (s : Bool) (m d : Nat) : IsFixed r s m d (fixedOf r s m d) := by
  cases r with
  | nearest => exact ⟨_, isRounded_roundShift false m d, rfl⟩
  | toZero => exact ⟨_, isRounded_roundShift true m d, rfl⟩
  | floor =>
    have quotient : fixedOf .floor s m d = signed s m / 2 ^ d := by
      cases s with
      | true => rfl
      | false =>
        show ((m >>> d : Nat) : Int) = (m : Int) / 2 ^ d
        rw [Nat.shiftRight_eq_div_pow]
        push_cast
        rfl
    have pos : (0 : Int) < 2 ^ d := by positivity
    show _ ≤ signed s m ∧ signed s m < _
    rw [quotient]
    exact ⟨Int.ediv_mul_le _ pos.ne', Int.lt_ediv_add_one_mul_self _ pos⟩

/-- Below one half the rounded magnitude is 0. -/
theorem isRounded_small (h : 2 * m < 2 ^ d) : IsRounded z m d n ↔ n = 0 := by
  constructor
  · intro rounded
    have : n < 1 := by
      cases z with
      | true => exact lt_of_mul_lt_mul_right (rounded.1.trans_lt (by omega)) (Nat.zero_le (2 ^ d))
      | false =>
        have twice : 2 * n * 2 ^ d < 2 * 2 ^ d := rounded.1.trans_lt (by omega)
        have := lt_of_mul_lt_mul_right twice (Nat.zero_le _)
        omega
    omega
  · rintro rfl
    cases z with
    | true => exact ⟨by omega, by omega⟩
    | false => exact ⟨by omega, by omega, fun _ => rfl⟩

/-- Between the two neighbours of 0 the lower bound is 0 or -1. -/
theorem floor_small {v P : Int} (low : -P ≤ v) (high : v < P) :
    (j * P ≤ v ∧ v < (j + 1) * P) ↔ j = if v < 0 then -1 else 0 := by
  have pos : 0 ≤ P := by omega
  constructor
  · rintro ⟨atLeast, atMost⟩
    have below : j < 1 := lt_of_mul_lt_mul_right (by omega : j * P < 1 * P) pos
    have above : -1 < j + 1 := lt_of_mul_lt_mul_right (by omega : -1 * P < (j + 1) * P) pos
    obtain rfl | rfl : j = -1 ∨ j = 0 := by omega
    · rw [if_pos (by omega)]
    · rw [if_neg (by omega)]
  · rintro rfl
    split <;> omega

/-- Far enough to the right, the integer does not depend on how far. -/
theorem IsFixed.far (h : IsFixed r s m d j) (hd : 2 * m < 2 ^ d) (hk : 2 * m < 2 ^ k) : IsFixed r s m k j := by
  cases r with
  | nearest =>
    obtain ⟨q, rounded, value⟩ := h
    exact ⟨q, (isRounded_small hk).2 ((isRounded_small hd).1 rounded), value⟩
  | toZero =>
    obtain ⟨q, rounded, value⟩ := h
    exact ⟨q, (isRounded_small hk).2 ((isRounded_small hd).1 rounded), value⟩
  | floor =>
    have near {i : Nat} (hi : 2 * m < 2 ^ i) : -(2 ^ i : Int) ≤ signed s m ∧ signed s m < (2 ^ i : Int) := by
      have : 2 * (m : Int) < 2 ^ i := by exact_mod_cast hi
      unfold signed
      split <;> omega
    exact (floor_small (near hk).1 (near hk).2).2 ((floor_small (near hd).1 (near hd).2).1 h)

/-- Half of a 32-bit significand, or less, is rounded to a 32-bit number or the next one. -/
theorem IsFixed.range (h : IsFixed r s m d j) (hm : m < 2 ^ 32) (hd : 0 < d) : -2 ^ 31 ≤ j ∧ j ≤ 2 ^ 31 := by
  have half : m < 2 ^ 31 * 2 ^ d := by
    calc m < 2 ^ 31 * 2 ^ 1 := hm
      _ ≤ 2 ^ 31 * 2 ^ d := Nat.mul_le_mul_left _ (Nat.pow_le_pow_right (by decide) hd)
  have magnitude {q : Nat} (hq : q ≤ 2 ^ 31) : -2 ^ 31 ≤ (if s then -(q : Int) else q) ∧
      (if s then -(q : Int) else q) ≤ 2 ^ 31 := by
    split <;> omega
  cases r with
  | nearest =>
    obtain ⟨q, rounded, rfl⟩ := h
    exact magnitude (rounded.ge half.le)
  | toZero =>
    obtain ⟨q, rounded, rfl⟩ := h
    exact magnitude (rounded.ge half.le)
  | floor =>
    obtain ⟨low, high⟩ : _ ≤ signed s m ∧ signed s m < _ := h
    have half : (m : Int) < 2 ^ 31 * 2 ^ d := by exact_mod_cast half
    have near : -2 ^ 31 * 2 ^ d < signed s m ∧ signed s m < 2 ^ 31 * 2 ^ d := by
      unfold signed
      split <;> constructor <;> linarith
    have pos : (0 : Int) ≤ 2 ^ d := by positivity
    have := lt_of_mul_lt_mul_right (low.trans_lt near.2) pos
    have := lt_of_mul_lt_mul_right (near.1.trans high) pos
    omega

/-- The shift that the model cuts at 64 bits gives the integer of the whole shift. -/
theorem fixedOf_min_isFixed (r : FixRound) (s : Bool) (hm : m < 2 ^ 32) (d : Nat) :
    IsFixed r s m d (fixedOf r s m (Nat.min d 64)) := by
  have fixed := fixedOf_isFixed r s m (Nat.min d 64)
  rcases Nat.le_total d 64 with near | far
  · rwa [show Nat.min d 64 = d from Nat.min_eq_left near] at fixed ⊢
  · rw [show Nat.min d 64 = 64 from Nat.min_eq_right far] at fixed ⊢
    refine fixed.far (by omega) ?_
    calc 2 * m < 2 ^ 64 := by omega
      _ ≤ 2 ^ d := Nat.pow_le_pow_right (by decide) far

/-! ### The outcome of a conversion to fixed point -/

theorem padded_field (w : W32) : (padded w).extractLsb' 8 32 = w := by
  refine BitVec.eq_of_getLsbD_eq fun j hj => ?_
  rw [BitVec.getLsbD_extractLsb', padded, BitVec.getLsbD_append, if_neg (by omega)]
  simp [hj]

theorem msb_padded (w : W32) : (padded w).msb = w.msb := by
  rw [padded, BitVec.msb_append]
  rfl

theorem aluTo_fixWord (c : PeIn) (n : Reg) (w : W32) (v i u : Bool) :
    aluTo c n (fixWord (padded w) v i u) = floatOut c n (w ++ 0#8) (w == 0) v w.msb false i u := by
  rw [fixWord, aluTo_fltOut, padded_field, msb_padded]
  rfl

theorem aluTo_fixOverflow (c : PeIn) (n : Reg) (s : Bool) : aluTo c n (fixOverflow c.mode1 s) = fixOver c n s := by
  unfold fixOverflow fixOver
  cases alusat c.mode1 with
  | true =>
    refine (aluTo_fixWord ..).trans ?_
    cases s <;> rfl
  | false => exact aluTo_fltOut ..

/-- Zero and sign of a 32-bit word that holds the integer `j`. -/
theorem ofInt_flags (low : -2 ^ 31 ≤ j) (high : j < 2 ^ 31) :
    (BitVec.ofInt 32 j == 0) = (j == 0) ∧ (BitVec.ofInt 32 j).msb = decide (j < 0) := by
  have value : (BitVec.ofInt 32 j).toInt = j := BitVec.toInt_ofInt_eq_self (by decide) low high
  constructor
  · rw [Bool.eq_iff_iff, beq_iff_eq, beq_iff_eq, ← BitVec.toInt_inj, value]
    rfl
  · rw [BitVec.msb_eq_toInt, value]

theorem convertToFix_special (m1 : W32) (r : FixRound) (x : W40) (e0 : Int) :
    (inF m1 x = .nan → convertToFix m1 r x e0 = nanOut) ∧
    (∀ s, inF m1 x = .zero s → convertToFix m1 r x e0 = fltOut 0 true false false false false false) ∧
    (∀ s, inF m1 x = .inf s → convertToFix m1 r x e0 = fixOverflow m1 s) := by
  refine ⟨fun h => ?_, fun s h => ?_, fun s h => ?_⟩ <;> rw [convertToFix, h]

theorem convertToFix_num {e : Nat} (h : inF m1 x = .num s e m) (r : FixRound) (e0 : Int) :
    convertToFix m1 r x e0 = if (e : Int) + e0 > 157 then fixOverflow m1 s
      else
        let j := fixedOf r s m (Nat.min (158 - ((e : Int) + e0)).toNat 64)
        if j > 2147483647 then fixOverflow m1 s
        else fixWord (padded (BitVec.ofInt 32 j)) false false (decide ((e : Int) + e0 < 126)) := by
  unfold convertToFix
  rw [h]
  rfl

/-- FIX and TRUNC are one conversion. -/
theorem computePe_fix {c : PeIn} {n x y : Reg} {k : Compute} {e0 : Int} (h : (k, e0, r) ∈ fixOps c n x y) :
    computePe k c = aluTo c n (convertToFix c.mode1 r (c.reg x) e0) := by
  simp only [fixOps, List.mem_cons, Prod.mk.injEq, List.not_mem_nil, or_false] at h
  rcases h with ⟨rfl, rfl, rfl⟩ | ⟨rfl, rfl, rfl⟩ | ⟨rfl, rfl, rfl⟩ | ⟨rfl, rfl, rfl⟩ <;> rfl

/-- A number converted: too large, or its integer, if that fits. -/
theorem aluTo_convertToFix (c : PeIn) (n x : Reg) {e : Nat} (h : inF c.mode1 (c.reg x) = .num s e m) (r : FixRound)
    (e0 : Int) :
    let d := 158 - ((e : Int) + e0)
    (d ≤ 0 → aluTo c n (convertToFix c.mode1 r (c.reg x) e0) = fixOver c n s) ∧
    (0 < d → ∃ j : Int, IsFixed r s m d.toNat j ∧ aluTo c n (convertToFix c.mode1 r (c.reg x) e0) =
      if 2147483647 < j then fixOver c n s
      else floatOut c n (BitVec.ofInt 32 j ++ 0#8) (j == 0) false (decide (j < 0)) false false (decide (32 < d))) := by
  intro d
  rw [convertToFix_num h]
  constructor
  · intro large
    rw [if_pos (by omega), aluTo_fixOverflow]
  · intro fits
    have fixed : IsFixed r s m d.toNat _ := fixedOf_min_isFixed r s (inF_num h).2.2 d.toNat
    obtain ⟨low, -⟩ := fixed.range (inF_num h).2.2 (by omega)
    refine ⟨_, fixed, ?_⟩
    rw [if_neg (by omega)]
    dsimp only
    split
    · exact aluTo_fixOverflow c n s
    · next high =>
      obtain ⟨isZero, sign⟩ := ofInt_flags low (lt_of_le_of_lt (not_lt.1 high) (by decide))
      have small : decide ((e : Int) + e0 < 126) = decide (32 < d) := decide_eq_decide.2 (by omega)
      rw [aluTo_fixWord, isZero, sign, small]

/-! ### The conversions that round once -/

theorem convertToFloat_nonzero {v : W32} (h : v ≠ 0) (m1 : W32) (e0 : Int) : ∃ w o u,
    RoundedWord m1 32 v.msb v.toInt.natAbs e0 w o u ∧ convertToFloat m1 v e0 = fltOut w u o v.msb false false u := by
  have pos : 0 < v.toInt.natAbs := Int.natAbs_pos.2 fun zero => h (BitVec.toInt_inj.1 zero)
  obtain ⟨w, o, u, rounded, out, -⟩ := exists_roundedWord m1 (.inr rfl) v.msb pos e0
  refine ⟨w, o, u, rounded, ?_⟩
  rw [convertToFloat, if_neg h, out]

/-- SCALB and RND leave a NAN, an infinity and a zero what they are. -/
theorem opScalb_special (m1 : W32) (x : W40) (k : W32) :
    (inF m1 x = .nan → opScalb m1 x k = nanOut) ∧
    (∀ s, inF m1 x = .inf s → opScalb m1 x k = passOut false (infWord s) false) ∧
    (∀ s, inF m1 x = .zero s → opScalb m1 x k = passOut true (zeroWord s) false) := by
  refine ⟨fun h => ?_, fun s h => ?_, fun s h => ?_⟩ <;> rw [opScalb, h]

theorem opFrnd_special (m1 : W32) (x : W40) :
    (inF m1 x = .nan → opFrnd m1 x = nanOut) ∧
    (∀ s, inF m1 x = .inf s → opFrnd m1 x = passOut false (infWord s) false) ∧
    (∀ s, inF m1 x = .zero s → opFrnd m1 x = passOut true (zeroWord s) false) := by
  refine ⟨fun h => ?_, fun s h => ?_, fun s h => ?_⟩ <;> rw [opFrnd, h]

theorem opScalb_num {e : Nat} (h : inF m1 x = .num s e m) (k : W32) : ∃ w o u,
    RoundedWord m1 (precision m1) s m ((e : Int) - 158 + k.toInt) w o u ∧
      opScalb m1 x k = fltOut w u o s false false u := by
  have pos : 0 < m := by
    have := (inF_num h).2.1
    omega
  obtain ⟨w, o, u, rounded, out, -⟩ := exists_roundedWord m1 (precision_cases m1) s pos ((e : Int) - 158 + k.toInt)
  refine ⟨w, o, u, rounded, ?_⟩
  simp only [opScalb, h, out]

/-- No number of the format underflows when it is rounded to 24 bits. -/
theorem opFrnd_num {e : Nat} (h : inF m1 x = .num s e m) : ∃ w o,
    RoundedWord m1 24 s m ((e : Int) - 158) w o false ∧ opFrnd m1 x = fltOut w false o s false false false := by
  obtain ⟨⟨normal, -⟩, large, -⟩ := inF_num h
  have leading : 31 ≤ m.log2 := (Nat.le_log2 (by omega)).2 large
  obtain ⟨w, o, u, rounded, out, none⟩ := exists_roundedWord m1 (.inl rfl) s (by omega : 0 < m) ((e : Int) - 158)
  obtain rfl := none (by omega)
  refine ⟨w, o, rounded, ?_⟩
  simp only [opFrnd, h, out]

/-! ### MANT and LOGB -/

theorem aluTo_opMant (c : PeIn) (n x : Reg) : aluTo c n (opMant c.mode1 (c.reg x)) =
    match inF c.mode1 (c.reg x) with
    | .nan => floatOut c n (0xFFFFFFFF#32 ++ 0#8) false false false (c.reg x).msb true false
    | .inf _ => floatOut c n (0xFFFFFFFF#32 ++ 0#8) false true false (c.reg x).msb false false
    | .zero _ => floatOut c n 0 true false false (c.reg x).msb false false
    | .num _ _ m => floatOut c n (BitVec.ofNat 32 m ++ 0#8) false false false (c.reg x).msb false false := by
  unfold opMant
  cases inF c.mode1 (c.reg x) <;> exact aluTo_fltOut ..

/-- The exponent of a number is one of the format, so it fits its word. -/
theorem aluTo_opLogb (c : PeIn) (n x : Reg) : aluTo c n (opLogb c.mode1 (c.reg x)) =
    match inF c.mode1 (c.reg x) with
    | .nan => floatOut c n all1F false false true false true false
    | .inf _ => floatOut c n (if alusat c.mode1 then 0x7FFFFFFF#32 ++ 0#8 else infWord false) false true false false false false
    | .zero _ => floatOut c n (if alusat c.mode1 then 0x80000000#32 ++ 0#8 else infWord true) false true true false false false
    | .num _ e _ => floatOut c n (BitVec.ofInt 32 ((e : Int) - 127) ++ 0#8) (e == 127) false (decide (e < 127)) false false
        false := by
  unfold opLogb
  cases h : inF c.mode1 (c.reg x) with
  | nan => exact aluTo_nanOut ..
  | inf s => exact aluTo_fltOut ..
  | zero s => exact aluTo_fltOut ..
  | num s e m =>
    obtain ⟨⟨low, high⟩, -⟩ := inF_num h
    obtain ⟨isZero, sign⟩ := ofInt_flags (j := (e : Int) - 127) (by omega) (by omega)
    have zero : ((e : Int) - 127 == 0) = (e == 127) := by
      rw [Bool.eq_iff_iff, beq_iff_eq, beq_iff_eq]
      omega
    have negative : decide ((e : Int) - 127 < 0) = decide (e < 127) := decide_eq_decide.2 (by omega)
    refine (aluTo_fltOut ..).trans ?_
    rw [isZero, sign, zero, negative]
    rfl

/-! ### The statement -/

/-- Settles O30: each conversion by the class of its operand. -/
theorem floatConversions : Obligations.FloatConversions := by
  intro c n x y a neg nan
  refine ⟨fun k e0 r hk => ?_, fun k e0 hk => ?_, fun k hk => ?_, fun s e m ha => ⟨?_, ?_⟩, aluTo_opMant c n x,
    aluTo_opLogb c n x⟩
  · rw [computePe_fix hk]
    obtain ⟨invalid, zero, inf⟩ := convertToFix_special c.mode1 r (c.reg x) e0
    refine ⟨fun ha => ?_, fun ha => ?_, fun s ha => ?_, fun s e m ha => aluTo_convertToFix c n x ha r e0⟩
    · rw [invalid ha, aluTo_nanOut]
    · obtain ⟨s, ha⟩ := Flt.isZero_iff.1 ha
      rw [zero s ha, aluTo_fltOut]
    · rw [inf s ha, aluTo_fixOverflow]
  · have row : computePe k c = aluTo c n (convertToFloat c.mode1 (c.fix x) e0) := by
      simp only [List.mem_cons, Prod.mk.injEq, List.not_mem_nil, or_false] at hk
      rcases hk with ⟨rfl, rfl⟩ | ⟨rfl, rfl⟩ <;> rfl
    rw [row]
    refine ⟨fun zero => ?_, fun nonzero => ?_⟩
    · rw [convertToFloat, if_pos zero, aluTo_fltOut]
    · obtain ⟨w, o, u, rounded, out⟩ := convertToFloat_nonzero nonzero c.mode1 e0
      exact ⟨w, o, u, rounded, by rw [out, aluTo_fltOut]⟩
  · have row : ∃ o, computePe k c = aluTo c n o ∧ (a = .nan → o = nanOut) ∧
        (∀ s, a = .inf s → o = passOut false (infWord s) false) ∧ ∀ s, a = .zero s → o = passOut true (zeroWord s) false := by
      rcases hk with rfl | rfl
      · exact ⟨_, rfl, opScalb_special ..⟩
      · exact ⟨_, rfl, opFrnd_special ..⟩
    obtain ⟨o, row, invalid, inf, zero⟩ := row
    rw [row]
    refine ⟨fun ha => ?_, fun s ha => ?_, fun s ha => ?_⟩
    · rw [invalid ha, aluTo_nanOut]
    · rw [inf s ha, aluTo_passOut, infWord, msb_packF]
    · rw [zero s ha, aluTo_passOut, zeroWord, msb_packF]
  · obtain ⟨w, o, u, rounded, out⟩ := opScalb_num ha (c.fix y)
    exact ⟨w, o, u, rounded, (congrArg (aluTo c n) out).trans (aluTo_fltOut ..)⟩
  · obtain ⟨w, o, rounded, out⟩ := opFrnd_num ha
    exact ⟨w, o, rounded, (congrArg (aluTo c n) out).trans (aluTo_fltOut ..)⟩

end Sys2Proof.Machine
end

section
/-!
PROOF. FloatSelect: the operations that pass an operand on, with another sign or none, and the choices of MIN, MAX and CLIP
(45_alu_float.md R451 to R453, R462 to R465).
-/
namespace Sys2Proof.Machine

variable {m1 : W32} {x w : W40}

/-! ### Words with another sign -/

/-- Below the sign a word is not changed with it. -/
theorem low_withSign (w : W40) (s : Bool) : (withSign w s).extractLsb' 0 39 = w.extractLsb' 0 39 := by
  refine BitVec.eq_of_getLsbD_eq fun j hj => ?_
  rw [BitVec.getLsbD_extractLsb', BitVec.getLsbD_extractLsb', getLsbD_withSign _ _ (by omega), if_pos (by omega)]

/-- The mask of the sign bit, and that of the bits below it. -/
theorem signMask_bit {j : Nat} (hj : j < 40) :
    (0x8000000000 : W40).getLsbD j = decide (j = 39) ∧ (0x7FFFFFFFFF : W40).getLsbD j = decide (j < 39) := by
  revert j
  decide

/-- The word `a` with the sign of `b`. -/
theorem withSign_eq_or (a b : W40) : withSign a b.msb = (a &&& 0x7FFFFFFFFF) ||| (b &&& 0x8000000000) := by
  refine BitVec.eq_of_getLsbD_eq fun j hj => ?_
  obtain ⟨sign, below⟩ := signMask_bit hj
  rw [getLsbD_withSign _ _ hj, BitVec.getLsbD_or, BitVec.getLsbD_and, BitVec.getLsbD_and, sign, below,
    BitVec.msb_eq_getLsbD_last]
  by_cases low : j < 39
  · simp [low, low.ne]
  · obtain rfl : j = 39 := by omega
    simp

theorem withSign_not (w : W40) : withSign w (!w.msb) = w ^^^ 0x8000000000 := by
  refine BitVec.eq_of_getLsbD_eq fun j hj => ?_
  rw [getLsbD_withSign _ _ hj, BitVec.getLsbD_xor, (signMask_bit hj).1, BitVec.msb_eq_getLsbD_last]
  by_cases low : j < 39
  · simp [low, low.ne]
  · obtain rfl : j = 39 := by omega
    simp

theorem withSign_false (w : W40) : withSign w false = w &&& 0x7FFFFFFFFF := by
  refine BitVec.eq_of_getLsbD_eq fun j hj => ?_
  rw [getLsbD_withSign _ _ hj, BitVec.getLsbD_and, (signMask_bit hj).2]
  by_cases low : j < 39 <;> simp [low]

/-! ### Conditioned words -/

/-- A word of exponent zero is a zero. -/
def Conditioned (w : W40) : Prop := expOf w = 0 → w.extractLsb' 0 39 = 0

theorem condWord_conditioned (m1 : W32) (x : W40) : Conditioned (condWord m1 x) := by
  unfold condWord
  dsimp only
  split
  · intro
    refine BitVec.eq_of_getLsbD_eq fun j hj => ?_
    rw [BitVec.getLsbD_extractLsb', BitVec.getLsbD_append, if_pos (by omega), BitVec.getLsbD_zero, Bool.and_false]
    exact BitVec.getLsbD_zero.symm
  · next normal => exact fun zero => absurd zero normal

/-- The exponent stands below the sign. -/
theorem expOf_eq_low (w : W40) : expOf w = ((w.extractLsb' 0 39).extractLsb' 31 8).toNat := by
  refine congrArg BitVec.toNat (BitVec.eq_of_getLsbD_eq fun j hj => ?_)
  rw [BitVec.getLsbD_extractLsb', BitVec.getLsbD_extractLsb', BitVec.getLsbD_extractLsb', Nat.zero_add,
    decide_eq_true (by omega : 31 + j < 39), Bool.true_and]

theorem Conditioned.withSign (h : Conditioned w) (s : Bool) : Conditioned (withSign w s) := by
  unfold Conditioned
  rw [expOf_eq_low, low_withSign, ← expOf_eq_low]
  exact h

theorem classify_isZero (w : W40) : (classify w).isZero = decide (expOf w = 0) := by
  unfold classify
  split_ifs with special <;> simp_all [Flt.isZero]

theorem isZero_withSign (w : W40) (s : Bool) : (classify (withSign w s)).isZero = (classify w).isZero := by
  rw [classify_isZero, classify_isZero, expOf_eq_low, low_withSign, ← expOf_eq_low]

theorem Conditioned.isZero (h : Conditioned w) : (classify w).isZero = (w.extractLsb' 0 39 == 0) := by
  rw [classify_isZero, Bool.eq_iff_iff, decide_eq_true_iff, beq_iff_eq]
  refine ⟨h, fun zero => ?_⟩
  rw [expOf_eq_low, zero]
  rfl

/-! ### The outcomes -/

/-- What a row leaves that passes the word `w` on. -/
abbrev passed (c : PeIn) (n : Reg) (w : W40) (s : Bool) : PeOut :=
  floatOut c n w (w.extractLsb' 0 39 == 0) false w.msb s false false

theorem aluTo_pass (h : Conditioned w) (c : PeIn) (n : Reg) (s : Bool) :
    aluTo c n (passOut (classify w).isZero w s) = passed c n w s := by
  rw [aluTo_passOut, h.isZero]

theorem aluTo_pass_withSign (h : Conditioned w) (c : PeIn) (n : Reg) (t s : Bool) :
    aluTo c n (passOut (classify w).isZero (withSign w t) s) = passed c n (withSign w t) s := by
  rw [← isZero_withSign w t, aluTo_pass (h.withSign t)]

theorem fltBelow_iff (a b : W40) : fltBelow a b = true ↔ (classify a).rank < (classify b).rank ∨
    (classify a).rank = (classify b).rank ∧ a.msb = true ∧ b.msb = false := by
  simp [fltBelow, and_assoc]

/-- MIN chooses a word that is not above the other, and of two zeros a negative one. -/
theorem fltBelow_min (a b : W40) :
    let w := if fltBelow b a then b else a
    (w = a ∨ w = b) ∧ (classify w).rank ≤ (classify a).rank ∧ (classify w).rank ≤ (classify b).rank ∧
      ((classify a).rank = (classify b).rank → w.msb = (a.msb || b.msb)) := by
  dsimp only
  split
  · next below =>
    rw [fltBelow_iff] at below
    refine ⟨.inr rfl, by omega, le_rfl, fun same => ?_⟩
    obtain less | ⟨-, negative, -⟩ := below
    · exact absurd same less.ne'
    · rw [negative, Bool.or_true]
  · next notBelow =>
    rw [fltBelow_iff, not_or] at notBelow
    obtain ⟨notLess, notTie⟩ := notBelow
    refine ⟨.inl rfl, le_rfl, not_lt.1 notLess, fun same => ?_⟩
    cases sign : a.msb with
    | true => rfl
    | false => simpa [same, sign] using notTie

/-- MAX chooses a word that is not below the other, and of two zeros a positive one. -/
theorem fltBelow_max (a b : W40) :
    let w := if fltBelow a b then b else a
    (w = a ∨ w = b) ∧ (classify a).rank ≤ (classify w).rank ∧ (classify b).rank ≤ (classify w).rank ∧
      ((classify a).rank = (classify b).rank → w.msb = (a.msb && b.msb)) := by
  dsimp only
  split
  · next below =>
    rw [fltBelow_iff] at below
    refine ⟨.inr rfl, by omega, le_rfl, fun same => ?_⟩
    obtain less | ⟨-, -, positive⟩ := below
    · exact absurd same less.ne
    · rw [positive, Bool.and_false]
  · next notBelow =>
    rw [fltBelow_iff, not_or] at notBelow
    obtain ⟨notLess, notTie⟩ := notBelow
    refine ⟨.inl rfl, le_rfl, not_lt.1 notLess, fun same => ?_⟩
    cases sign : a.msb with
    | false => rfl
    | true => simpa [same, sign] using notTie

theorem Flt.natAbs_rank (a : Flt) : a.rank.natAbs = a.mag := by
  unfold Flt.rank
  split <;> omega

/-! ### The statement -/

/-- Neither operand is a NAN. -/
theorem if_nan_neg {p q : Flt} {o r : AluOut} (hp : p ≠ .nan) (hq : q ≠ .nan) :
    (if p = .nan || q = .nan then o else r) = r := if_neg (by simp [hp, hq])

/-- Settles O31: each operation passes on a conditioned word, with its sign or another. -/
theorem floatSelect : Obligations.FloatSelect := by
  intro c n x y a b gives
  have ha : Conditioned a := condWord_conditioned _ _
  have hb : Conditioned b := condWord_conditioned _ _
  refine ⟨fun na => ⟨?_, ?_, ?_⟩, fun na nb => ⟨?_, ?_, ?_, ?_⟩⟩
  · exact (congrArg (aluTo c n) (if_neg na)).trans (aluTo_pass ha ..)
  · rw [← withSign_not]
    exact (congrArg (aluTo c n) (if_neg na)).trans (aluTo_pass_withSign ha ..)
  · rw [← withSign_false]
    exact (congrArg (aluTo c n) (if_neg na)).trans (aluTo_pass_withSign ha ..)
  · rw [← withSign_eq_or]
    exact (congrArg (aluTo c n) (if_nan_neg na nb)).trans (aluTo_pass_withSign ha ..)
  · obtain ⟨chosen, order⟩ := fltBelow_min a b
    have hw : Conditioned (if fltBelow b a then b else a) := by split <;> assumption
    exact ⟨_, (congrArg (aluTo c n) (if_nan_neg na nb)).trans (aluTo_pass hw ..), chosen, order⟩
  · obtain ⟨chosen, order⟩ := fltBelow_max a b
    have hw : Conditioned (if fltBelow a b then b else a) := by split <;> assumption
    exact ⟨_, (congrArg (aluTo c n) (if_nan_neg na nb)).trans (aluTo_pass hw ..), chosen, order⟩
  · rw [← withSign_eq_or, Flt.natAbs_rank, Flt.natAbs_rank]
    have hw : Conditioned (if (classify a).mag < (classify b).mag then a else withSign b a.msb) := by
      split
      · exact ha
      · exact hb.withSign _
    exact (congrArg (aluTo c n) (if_nan_neg na nb)).trans (aluTo_pass hw ..)

end Sys2Proof.Machine
end

section
/-!
PROOF. NanResult: a NAN operand gives the word of all ones with the invalid flag of the unit and its sticky bit
(45_alu_float.md R443, 46_multiplier.md R519).
-/
namespace Sys2Proof.Machine

variable {s u : State} {y : Bool} {i : Instr} {c : PeIn} {x z n : Reg}

/-! ### The ALU -/

/-- The outcome of an invalid operation. -/
structure Invalid (o : AluOut) : Prop where
  val : o.val = all1F
  ai : o.fl.ai = true
  ais : o.stky.getLsbD 5 = true

theorem fltOut_invalid (z v n s u : Bool) : Invalid (fltOut all1F z v n s true u) := by
  refine ⟨rfl, rfl, ?_⟩
  show (bitAt 0 u ||| bitAt 1 v ||| bitAt 5 true).getLsbD 5 = true
  rw [BitVec.getLsbD_or, getLsbD_bitAt 5 true (by decide)]
  exact Bool.or_true _

theorem nanOut_invalid : Invalid nanOut := fltOut_invalid ..

/-- A test for a NAN among two operands that finds one. -/
theorem invalid_if_nan {p q : Flt} {r : AluOut} (h : p = .nan ∨ q = .nan) :
    Invalid (if p = .nan || q = .nan then nanOut else r) := by
  rw [if_pos (by simpa using h)]
  exact nanOut_invalid

theorem sumF_nan_invalid {m1 : W32} {a b : Flt} (h : a = .nan ∨ b = .nan) (half mag : Bool) :
    Invalid (absIf mag (sumF m1 a b half)) := by
  rw [sumF_invalid (.inr h), absIf_nanOut]
  exact fltOut_invalid ..

/-- The operations on two operands. -/
theorem aluBin_nan (h : inF c.mode1 (c.reg x) = .nan ∨ inF c.mode1 (c.reg z) = .nan) {op : AluBin}
    (hop : op ∈ ([.fadd, .fsub, .fabsAdd, .fabsSub, .favg, .copysign, .fmin, .fmax, .fclip] : List AluBin)) :
    Invalid (aluBin c op x z) := by
  have negated : inF c.mode1 (c.reg x) = .nan ∨ (inF c.mode1 (c.reg z)).neg = .nan := h.imp_right (congrArg Flt.neg)
  simp only [List.mem_cons, List.not_mem_nil, or_false] at hop
  rcases hop with rfl | rfl | rfl | rfl | rfl | rfl | rfl | rfl | rfl
  · exact sumF_nan_invalid h false false
  · exact sumF_nan_invalid negated false false
  · exact sumF_nan_invalid h false true
  · exact sumF_nan_invalid negated false true
  · exact sumF_nan_invalid h true false
  all_goals exact invalid_if_nan h

/-- The operations on one operand. -/
theorem aluUn_nan (h : inF c.mode1 (c.reg x) = .nan) {op : AluUn}
    (hop : op ∈ ([.fneg, .fabs, .fpass, .frnd, .recips, .rsqrts] : List AluUn)) : Invalid (aluUn c op x) := by
  have found : classify (condWord c.mode1 (c.reg x)) = .nan := h
  simp only [List.mem_cons, List.not_mem_nil, or_false] at hop
  rcases hop with rfl | rfl | rfl | rfl | rfl | rfl
  · show Invalid (opFneg _ _)
    rw [opFneg, if_pos found]
    exact nanOut_invalid
  · show Invalid (opFabs _ _)
    rw [opFabs, if_pos found]
    exact fltOut_invalid ..
  · show Invalid (opFpass _ _)
    rw [opFpass, if_pos found]
    exact nanOut_invalid
  · show Invalid (opFrnd _ _)
    rw [(opFrnd_special _ _).1 h]
    exact nanOut_invalid
  · show Invalid (opRecips _ _)
    simp only [opRecips, found]
    exact nanOut_invalid
  · show Invalid (opRsqrts _ _)
    simp only [opRsqrts, found]
    exact fltOut_invalid ..

/-- A row of the ALU with an invalid outcome leaves it in the state. -/
theorem State.Steady.invalid_ends (h : s.Steady) (hy : y = true → s.simd = true) {k : Compute} (hi : i.compute? = some k)
    (hk : k.dualClash = false) {o : AluOut} (ho : computePe k (s.peIn y) = aluTo (s.peIn y) n o) (invalid : Invalid o) :
    ∃ u, exec i s = .next u ∧ u.dreg y n = 0xFFFFFFFFFF ∧ (u.astat y).getLsbD 5 = true ∧ (u.stky y).getLsbD 5 = true := by
  obtain ⟨u, run, result, astat, left⟩ := h.aluRow_ends hy hi hk ho
  have flags : HasFlags (u.astat y) o.fl := .of_and_aluMask (astat ▸ putAlu_and_aluMask _ _)
  refine ⟨u, run, result.trans invalid.val, flags.ai.trans invalid.ai, ?_⟩
  have sticky := left.stky_bit (j := 5) (by decide)
  rw [sticky]
  show ((s.stky y).getLsbD 5 || o.stky.getLsbD 5) = true
  rw [invalid.ais, Bool.or_true]

/-! ### The multiplier -/

theorem Delivers.dreg_floatProduct {w : W40} {v t j : Bool} (h : Delivers s u y (floatProduct c n w v t j)) :
    u.dreg y n = w := by
  rw [h.dreg]
  show (((s.pe y).setReg s.reg.mode1 n w).reg s.reg.mode1 n) = _
  rw [ProcElem.reg_setReg, if_pos rfl]

/-- MI and MIS of an invalid product. -/
theorem floatProduct_invalid (c : PeIn) (n : Reg) (w : W40) (v t : Bool) :
    (floatProduct c n w v t true).astat.getLsbD 9 = true ∧ (floatProduct c n w v t true).stky.getLsbD 9 = true := by
  have bit : (bitAt 9 true).getLsbD 9 = true := rfl
  constructor
  · show (_ ||| bitAt 9 true).getLsbD 9 = true
    rw [BitVec.getLsbD_or, bit, Bool.or_true]
  · show (_ ||| bitAt 9 true).getLsbD 9 = true
    rw [BitVec.getLsbD_or, bit, Bool.or_true]

theorem State.Steady.product_nan (h : s.Steady) (hy : y = true → s.simd = true)
    (nan : inF s.reg.mode1 (s.dreg y x) = .nan ∨ inF s.reg.mode1 (s.dreg y z) = .nan) :
    ∃ u, exec (.mulF n x z) s = .next u ∧ u.dreg y n = 0xFFFFFFFFFF ∧ (u.astat y).getLsbD 9 = true ∧
      (u.stky y).getLsbD 9 = true := by
  have out : computePe (.mulF n x z) (s.peIn y) = floatProduct (s.peIn y) n all1F false false true :=
    (congrArg (fmulTo (s.peIn y) n) (opFmul_nan nan)).trans (fmulTo_fmulOut ..)
  obtain ⟨u, run, left⟩ := h.row_delivers hy (i := .mulF n x z) rfl rfl
  rw [out] at left
  obtain ⟨mi, mis⟩ := floatProduct_invalid (s.peIn y) n all1F false false
  refine ⟨u, run, left.dreg_floatProduct, ?_, ?_⟩
  · rw [left.astat, mi]
  · rw [left.stky_bit (by decide), mis, Bool.or_true]

/-! ### The statement -/

/-- The instruction of a row of the ALU has that row. -/
theorem compute?_ofCompute_aluBin (op : AluBin) (n x z : Reg) :
    (Instr.ofCompute (.aluBin op n x z)).compute? = some (.aluBin op n x z) := by
  cases op <;> rfl

theorem compute?_ofCompute_aluUn (op : AluUn) (n x : Reg) :
    (Instr.ofCompute (.aluUn op n x)).compute? = some (.aluUn op n x) := by
  cases op <;> rfl

/-- Settles O32: every operation has the invalid outcome, and its row leaves it in the state. -/
theorem nanResult : Obligations.NanResult := by
  intro s y n a b h hy isNan gives
  refine ⟨fun nan => ⟨fun op hop => ?_, h.product_nan hy nan⟩, fun nan => ⟨fun op hop => ?_, ?_⟩⟩
  · exact h.invalid_ends hy (compute?_ofCompute_aluBin op n a b) rfl rfl (aluBin_nan (c := s.peIn y) nan hop)
  · exact h.invalid_ends hy (compute?_ofCompute_aluUn op n a) rfl rfl (aluUn_nan (c := s.peIn y) nan hop)
  · have out : aluBin (s.peIn y) .scalb a b = nanOut := (opScalb_special _ _ _).1 nan
    exact h.invalid_ends hy (i := .scalb n a b) rfl rfl rfl (out ▸ nanOut_invalid)

end Sys2Proof.Machine
end

section
/-!
PROOF. RecipsAccuracy: the seeds are accurate for the smallest and the largest operand of their index, and so for every one
(45_alu_float.md R460, R461).
-/
namespace Sys2Proof.Machine

variable {s : State} {y : Bool} {w : W40} {n a : Reg} {f : Nat}

/-! ### The tables -/

/-- What replaces an entry of the reciprocal table that is not accurate. -/
def recipsDefault (i : BitVec 7) : Nat := 2 ^ 40 / (257 + 2 * i.toNat) - 2 ^ 31

/-- What replaces an entry of the reciprocal-square-root table that is not accurate. -/
def rsqrtsDefault (i : BitVec 7) : Nat :=
  if i.msb then 2147483647 - (i.toNat % 64) * 19797000 else 889516852 - (i.toNat % 64) * 13898700

theorem recipsDefault_accurate :
    ∀ i : BitVec 7, recipsDefault i < 2 ^ 31 ∧ recipsAccurate i.toNat (recipsDefault i) = true := by
  decide

theorem rsqrtsDefault_accurate :
    ∀ i : BitVec 7, rsqrtsDefault i < 2 ^ 31 ∧ rsqrtsAccurate i.msb (i.toNat % 64) (rsqrtsDefault i) = true := by
  decide

/-- The entry used is accurate, whatever the table holds. -/
theorem recipsSeed_accurate (i : BitVec 7) : recipsSeed i < 2 ^ 31 ∧ recipsAccurate i.toNat (recipsSeed i) = true := by
  unfold recipsSeed
  dsimp only
  split
  · next accurate => exact ⟨BitVec.isLt _, accurate⟩
  · exact recipsDefault_accurate i

theorem rsqrtsSeed_accurate (i : BitVec 7) :
    rsqrtsSeed i < 2 ^ 31 ∧ rsqrtsAccurate i.msb (i.toNat % 64) (rsqrtsSeed i) = true := by
  unfold rsqrtsSeed
  dsimp only
  split
  · next accurate => exact ⟨BitVec.isLt _, accurate⟩
  · exact rsqrtsDefault_accurate i

/-! ### The operands of an index -/

/-- The significand of a word. -/
def sigWord (w : W40) : Nat := 2 ^ 31 + (w.extractLsb' 0 31).toNat

theorem toNat_field (w : W40) (k l : Nat) : (w.extractLsb' k l).toNat = w.toNat / 2 ^ k % 2 ^ l := by
  rw [BitVec.extractLsb'_toNat, Nat.shiftRight_eq_div_pow]

/-- The operands of a reciprocal index: those with the same seven top fraction bits. -/
theorem recips_index (w : W40) : (128 + (w.extractLsb' 24 7).toNat) * 2 ^ 24 ≤ sigWord w ∧
    sigWord w ≤ (129 + (w.extractLsb' 24 7).toNat) * 2 ^ 24 - 1 := by
  rw [sigWord, toNat_field, toNat_field]
  omega

/-- The operands of a reciprocal-square-root index: those with the same exponent bit and six top fraction bits. -/
theorem rsqrts_index (w : W40) : ((w.extractLsb' 25 7).msb = true ↔ (w.extractLsb' 31 8).toNat % 2 = 1) ∧
    (64 + (w.extractLsb' 25 7).toNat % 64) * 2 ^ 25 ≤ sigWord w ∧
    sigWord w ≤ (65 + (w.extractLsb' 25 7).toNat % 64) * 2 ^ 25 - 1 := by
  rw [sigWord, BitVec.msb_eq_decide, decide_eq_true_iff, toNat_field, toNat_field, toNat_field]
  omega

/-- An accurate reciprocal seed is accurate for every operand of its index. -/
theorem recipsAccurate_sound (h : recipsAccurate (w.extractLsb' 24 7).toNat f = true) :
    2 ^ 63 - 2 ^ 55 ≤ (2 ^ 31 + f) * sigWord w ∧ (2 ^ 31 + f) * sigWord w ≤ 2 ^ 63 + 2 ^ 55 := by
  obtain ⟨smallest, largest⟩ := recips_index w
  simp only [recipsAccurate, Bool.and_eq_true, decide_eq_true_eq] at h
  exact ⟨h.1.le.trans (Nat.mul_le_mul_left _ smallest), (Nat.mul_le_mul_left _ largest).trans h.2.le⟩

theorem rsqrtsAccurate_sound (h : rsqrtsAccurate (w.extractLsb' 25 7).msb ((w.extractLsb' 25 7).toNat % 64) f = true) :
    let q := (2 ^ 31 + f) ^ 2 * sigWord w * (if (w.extractLsb' 31 8).toNat % 2 = 1 then 1 else 2)
    225 * 2 ^ 87 ≤ q ∧ q ≤ 289 * 2 ^ 87 := by
  obtain ⟨odd, smallest, largest⟩ := rsqrts_index w
  simp only [rsqrtsAccurate, Bool.and_eq_true, decide_eq_true_eq, odd] at h
  have product : (2 ^ 31 + f) ^ 2 * sigWord w * (if (w.extractLsb' 31 8).toNat % 2 = 1 then 1 else 2) =
      (2 ^ 31 + f) * (2 ^ 31 + f) * (if (w.extractLsb' 31 8).toNat % 2 = 1 then 1 else 2) * sigWord w := by
    ring
  rw [product]
  exact ⟨h.1.le.trans (Nat.mul_le_mul_left _ smallest), (Nat.mul_le_mul_left _ largest).trans h.2.le⟩

/-! ### The seeds -/

theorem classify_num (low : 1 ≤ expOf w) (high : expOf w < 255) : classify w = .num w.msb (expOf w) (sigWord w) := by
  rw [classify, if_neg high.ne, if_neg (by omega)]
  rfl

theorem opRecips_val (m1 : W32) (x : W40) (low : 1 ≤ expOf (condWord m1 x)) (high : expOf (condWord m1 x) < 253) :
    (opRecips m1 x).val = packF (condWord m1 x).msb (253 - expOf (condWord m1 x))
      (recipsSeed ((condWord m1 x).extractLsb' 24 7)) := by
  simp only [opRecips, classify_num low (by omega), if_neg (not_le.2 high)]
  rfl

theorem opRsqrts_val (m1 : W32) (x : W40) (low : 1 ≤ expOf (condWord m1 x)) (high : expOf (condWord m1 x) < 255)
    (positive : (condWord m1 x).msb = false) :
    (opRsqrts m1 x).val = packF false (126 - ((expOf (condWord m1 x) : Int) - 127) / 2).toNat
      (rsqrtsSeed ((condWord m1 x).extractLsb' 25 7)) := by
  simp only [opRsqrts, classify_num low high, positive]
  rfl

/-- Settles O33: the seed's word is packed from an accurate table entry. -/
theorem recipsAccuracy : Obligations.RecipsAccuracy := by
  intro s y n a h hy v e m
  refine ⟨fun low high => ?_, fun low high positive => ?_⟩
  · obtain ⟨u, run, result, -, -⟩ := h.aluRow_ends hy (i := .recips n a) (n := n) rfl rfl rfl
    replace result := result.trans (opRecips_val s.reg.mode1 (s.dreg y a) low high)
    obtain ⟨fits, accurate⟩ := recipsSeed_accurate (v.extractLsb' 24 7)
    refine ⟨u, run, ?_⟩
    rw [result, msb_packF, exp_packF _ _ (by omega), frac_packF _ _ fits]
    exact ⟨rfl, rfl, recipsAccurate_sound accurate⟩
  · obtain ⟨u, run, result, -, -⟩ := h.aluRow_ends hy (i := .rsqrts n a) (n := n) rfl rfl rfl
    replace result := result.trans (opRsqrts_val s.reg.mode1 (s.dreg y a) low high positive)
    obtain ⟨fits, accurate⟩ := rsqrtsSeed_accurate (v.extractLsb' 25 7)
    have exp : expOf (condWord s.reg.mode1 (s.dreg y a)) = e := rfl
    refine ⟨u, run, ?_⟩
    rw [result, msb_packF, exp_packF _ _ (by omega), frac_packF _ _ fits]
    exact ⟨rfl, Int.toNat_of_nonneg (by omega), rsqrtsAccurate_sound accurate⟩

end Sys2Proof.Machine
end

section
/-!
PROOF. ProductsToRegisters: the multiplier's products are exact modulo 2^80, its rounding is to nearest at bit 32, its
saturation brings a value into its format, and its flags describe the 80 bits (46_multiplier.md R492 to R518).
-/
namespace Sys2Proof.Machine

variable {c : PeIn} {o : PeOut} {m : MulMod} {r v : W80} {signed frac sat : Bool}

/-! ### The exact value of a product -/

theorem product_exact (c : PeIn) (m : MulMod) (x y : Reg) :
    product m (c.fix x) (c.fix y) = BitVec.ofInt 80 (Instr.mac?.prod c m x y) := by
  have operand (signed : Bool) (n : Reg) : mulInput signed (c.fix n) = Instr.mac?.operand c signed n := rfl
  simp only [product, Instr.mac?.prod, operand, Bool.and_eq_true, ite_mul, one_mul, and_assoc]

/-- The value `v` in the format `m`, rounded where the format asks for it (46_multiplier.md R493, R498 to R508). -/
def mulRounded (m : MulMod) (v : W80) : W80 := if m.round then roundMr v else v

/-- A product, alone or accumulated, delivers its exact value modulo 2^80, rounded in its format. -/
theorem mulAcc_exact (c : PeIn) (a : Accum) (m : MulMod) (x y : Reg) :
    mulAcc c a m x y =
      mulResult (mulRounded m (BitVec.ofInt 80 (a.value c m x y))) (m.xSigned || m.ySigned) m.frac := by
  have exact_value : mulAcc c a m x y = mulDeliver m (BitVec.ofInt 80 (a.value c m x y)) := by
    cases a with
    | none => exact congrArg (mulDeliver m) (product_exact c m x y)
    | plus k =>
      rw [Accum.value, BitVec.ofInt_add, BitVec.ofInt_toInt, ← product_exact]
      rfl
    | minus k =>
      rw [Accum.value, sub_eq_add_neg, BitVec.ofInt_add, BitVec.ofInt_neg, BitVec.ofInt_toInt, ← product_exact,
        ← BitVec.sub_eq_add_neg]
      rfl
  rw [exact_value]
  rfl

/-! ### Rounding -/

/-- The model's rounding of the two halves is rounding of the number to a multiple of 2^32. -/
theorem roundMr_high (v : W80) : (roundMr v).extractLsb' 32 48 = BitVec.ofNat 48 (roundShift false v.toNat 32) := by
  have high : v.extractLsb' 32 48 = BitVec.ofNat 48 (v.toNat >>> 32) := rfl
  have odd : (v.extractLsb' 32 48).getLsbD 0 = (v.toNat >>> 32 % 2 == 1) := by
    rw [high, BitVec.getLsbD_ofNat, Nat.testBit_zero]
    rfl
  have above : (0x80000000#32).ult (v.extractLsb' 0 32) = decide (2 * (v.toNat % 2 ^ 32) > 2 ^ 32) := by
    rw [Bool.eq_iff_iff, BitVec.ult_iff_toNat_lt, BitVec.extractLsb'_toNat, decide_eq_true_iff]
    show 2147483648 < v.toNat >>> 0 % 2 ^ 32 ↔ _
    rw [Nat.shiftRight_zero]
    omega
  have tie : (v.extractLsb' 0 32 == 0x80000000) = (2 * (v.toNat % 2 ^ 32) == 2 ^ 32) := by
    rw [Bool.eq_iff_iff, beq_iff_eq, beq_iff_eq, BitVec.toNat_eq, BitVec.extractLsb'_toNat]
    show v.toNat >>> 0 % 2 ^ 32 = 2147483648 ↔ _
    rw [Nat.shiftRight_zero]
    omega
  unfold roundMr roundShift
  rw [BitVec.extractLsb'_append_eq_left, odd, above, tie, high]
  simp only [Bool.false_eq_true, if_false, apply_ite (BitVec.ofNat 48), BitVec.ofNat_add]
  rfl

theorem roundMr_rounded (v : W80) : RoundedMr v (roundMr v) :=
  ⟨_, isRounded_roundShift false v.toNat 32, roundMr_high v⟩

theorem mulRounded_spec (m : MulMod) (v : W80) :
    if m.round then RoundedMr v (mulRounded m v) else mulRounded m v = v := by
  unfold mulRounded
  split
  · exact roundMr_rounded v
  · rfl

/-! ### Saturation -/

/-- The first number above the format. -/
abbrev satTop (m : SatMod) : Int := 2 ^ ((if m.frac then 64 else 32) - if m.signed then 1 else 0)

theorem satMax_toNat (m : SatMod) : ((satMax m).toNat : Int) = satTop m - 1 := by
  obtain ⟨frac, signed⟩ := m
  revert frac signed
  decide

theorem satMax_toInt (m : SatMod) : (satMax m).toInt = satTop m - 1 := by
  obtain ⟨frac, signed⟩ := m
  revert frac signed
  decide

theorem satMin_toInt (m : SatMod) : (satMin m).toInt = -satTop m := by
  obtain ⟨frac, signed⟩ := m
  revert frac signed
  decide

theorem satTop_pos (m : SatMod) : 0 < satTop m := Int.pow_pos (by decide)

/-- Saturation takes a value to the nearest one of its format. -/
theorem satValue_nearest (m : SatMod) (v : W80) :
    if m.signed then (satValue m v).toInt = max (-satTop m) (min (satTop m - 1) v.toInt)
    else ((satValue m v).toNat : Int) = min (satTop m - 1) v.toNat := by
  have pos := satTop_pos m
  unfold satValue
  simp only [BitVec.slt_iff_toInt_lt, BitVec.ult_iff_toNat_lt]
  split
  · rw [apply_ite BitVec.toInt, apply_ite BitVec.toInt, satMax_toInt, satMin_toInt]
    split_ifs <;> omega
  · have top := satMax_toNat m
    split_ifs <;> omega

/-! ### The flags -/

theorem upperAll_false (r : W80) (n : Nat) : upperAll r n false = true ↔ r.toNat < 2 ^ n := by
  rw [upperAll, beq_iff_eq, BitVec.toNat_eq, BitVec.toNat_ushiftRight, Nat.shiftRight_eq_div_pow]
  exact Nat.div_eq_zero_iff.trans (or_iff_right (Nat.two_pow_pos n).ne')

theorem upperAll_true (r : W80) {n : Nat} (hn : n ≤ 80) : upperAll r n true = true ↔ 2 ^ 80 - 2 ^ n ≤ r.toNat := by
  obtain ⟨k, hk⟩ := Nat.exists_eq_add_of_le' hn
  have split_power : 2 ^ 80 = 2 ^ k * 2 ^ n := by rw [← pow_add, ← hk]
  have pos : 0 < 2 ^ n := Nat.two_pow_pos n
  have ones : (2 ^ 80 - 1) / 2 ^ n = 2 ^ k - 1 := by
    rw [Nat.div_eq_iff pos, Nat.sub_mul]
    omega
  have bound := r.isLt
  rw [upperAll, beq_iff_eq, BitVec.toNat_eq, if_pos rfl, BitVec.toNat_ushiftRight, BitVec.toNat_ushiftRight,
    BitVec.toNat_allOnes, Nat.shiftRight_eq_div_pow, Nat.shiftRight_eq_div_pow, ones, Nat.div_eq_iff pos, Nat.sub_mul]
  omega

/-- The bits from `n` up are copies of the sign where the result fits `n` bits and a sign. -/
theorem upperAll_sign (r : W80) {n : Nat} (hn : n < 80) :
    (upperAll r n false || upperAll r n true) = true ↔ -2 ^ n ≤ r.toInt ∧ r.toInt < 2 ^ n := by
  have half : 2 ^ n ≤ 2 ^ 79 := Nat.pow_le_pow_right (by decide) (by omega)
  have bound := r.isLt
  have cast : ((2 ^ n : Nat) : Int) = 2 ^ n := by push_cast; rfl
  rw [Bool.or_eq_true, upperAll_false, upperAll_true r hn.le, BitVec.toInt_eq_toNat_cond, ← cast]
  split <;> omega

/-- MV: the result does not fit its format. -/
theorem mulFlags_mv (r : W80) (signed frac : Bool) : (mulFlags r signed frac).mv = true ↔
    if signed then (if frac then r.toInt < -2 ^ 63 ∨ 2 ^ 63 ≤ r.toInt else r.toInt < -2 ^ 31 ∨ 2 ^ 31 ≤ r.toInt)
    else (if frac then 2 ^ 64 ≤ r.toNat else 2 ^ 32 ≤ r.toNat) := by
  have signedFit {n : Nat} (hn : n < 80) : (!(upperAll r n false || upperAll r n true)) = true ↔
      r.toInt < -2 ^ n ∨ 2 ^ n ≤ r.toInt := by
    rw [Bool.not_eq_true', ← Bool.not_eq_true, upperAll_sign r hn]
    omega
  have unsignedFit (n : Nat) : (!upperAll r n false) = true ↔ 2 ^ n ≤ r.toNat := by
    rw [Bool.not_eq_true', ← Bool.not_eq_true, upperAll_false, Nat.not_lt]
  cases signed <;> cases frac
  · exact unsignedFit 32
  · exact unsignedFit 64
  · exact signedFit (by decide)
  · exact signedFit (by decide)

/-- MU: a fraction that is not zero is below its format. -/
theorem mulFlags_mu (r : W80) (signed frac : Bool) : (mulFlags r signed frac).mu = true ↔
    frac = true ∧ r.toNat % 2 ^ 32 ≠ 0 ∧
      (r.toNat < 2 ^ 32 ∨ signed = true ∧ -2 ^ 32 ≤ r.toInt ∧ r.toInt < 0) := by
  have low : (r.extractLsb' 0 32 != 0) = true ↔ r.toNat % 2 ^ 32 ≠ 0 := by
    rw [bne_iff_ne, ne_eq, BitVec.toNat_eq, BitVec.extractLsb'_toNat, Nat.shiftRight_zero]
    rfl
  have negative : upperAll r 32 true = true ↔ -2 ^ 32 ≤ r.toInt ∧ r.toInt < 0 := by
    have bound := r.isLt
    rw [upperAll_true r (by decide), BitVec.toInt_eq_toNat_cond]
    split <;> omega
  simp only [mulFlags, Bool.and_eq_true, Bool.or_eq_true, low, negative, upperAll_false, and_assoc]

/-- The multiplier's flags in the ASTAT word `v` are `f`. -/
structure HasMulFlags (v : W32) (f : MulFlags) : Prop where
  mn : v.getLsbD 6 = f.mn
  mv : v.getLsbD 7 = f.mv
  mu : v.getLsbD 8 = f.mu
  mi : v.getLsbD 9 = f.mi

theorem putMul_and_mulMask (a : W32) (f : MulFlags) : putMul a f &&& mulMask = f.bits := by
  rw [putMul, putBits, f.bits_and_mulMask, BitVec.and_or_distrib_right, f.bits_and_mulMask, BitVec.and_assoc,
    BitVec.and_comm (~~~mulMask), BitVec.and_not_self]
  simp

theorem putMul_hasMulFlags (a : W32) (f : MulFlags) : HasMulFlags (putMul a f) f := by
  have place {j : Nat} (hj : mulMask.getLsbD j = true) : (putMul a f).getLsbD j = f.bits.getLsbD j := by
    rw [← putMul_and_mulMask a f, BitVec.getLsbD_and, hj, Bool.and_true]
  constructor <;> rw [place (by decide)] <;> simp [MulFlags.bits, getLsbD_bitAt, -BitVec.getLsbD_eq_getElem]

/-- A multiplier operation leaves the ASTAT bits of the other units. -/
theorem putMul_outside (a : W32) (f : MulFlags) : putMul a f &&& ~~~mulMask = a &&& ~~~mulMask :=
  putBits_outside _ _ _ _ (BitVec.and_not_self _)

/-- The flags of the result `r`, of which a saturated one keeps MV clear, are what the statements ask for. -/
theorem mulFlagged_of_out
    (astat : o.astat = putMul c.astat { mulFlags r signed frac with mv := !sat && (mulFlags r signed frac).mv })
    (stky : o.stky = mulSticky (!sat && (mulFlags r signed frac).mv)) : MulFlagged c o r signed frac sat := by
  obtain ⟨mn, mv, mu, mi⟩ := astat ▸ putMul_hasMulFlags c.astat _
  refine ⟨mn, ?_, ?_, mi, ?_, ?_⟩
  · rw [mv, Bool.and_eq_true, Bool.not_eq_true', mulFlags_mv]
  · rw [mu, mulFlags_mu]
  · rw [astat]
    exact putMul_outside ..
  · rw [mv, stky]
    rfl

/-! ### What the operations leave -/

/-- A result in a data register. -/
theorem mulTo_flagged (c : PeIn) (n : Reg) (r : W80) (signed frac : Bool) :
    MulFlagged c (mulTo c frac n (mulResult r signed frac)) r signed frac false :=
  mulFlagged_of_out rfl rfl

/-- A result in MRF or MRB. -/
theorem mulToMr_flagged (c : PeIn) (d : Mr) (r : W80) (signed frac : Bool) :
    MulFlagged c (mulToMr c d (mulResult r signed frac)) r signed frac false :=
  mulFlagged_of_out rfl rfl

theorem computePe_mulRn (c : PeIn) (a : Accum) (m : MulMod) (n x y : Reg) : computePe (.mulRn a m n x y) c =
    mulTo c m.frac n (mulResult (mulRounded m (BitVec.ofInt 80 (a.value c m x y))) (m.xSigned || m.ySigned) m.frac) :=
  congrArg (mulTo c m.frac n) (mulAcc_exact c a m x y)

theorem computePe_mulMr (c : PeIn) (d : Mr) (q : AccOp) (m : MulMod) (x y : Reg) : computePe (.mulMr d q m x y) c =
    mulToMr c d
      (mulResult (mulRounded m (BitVec.ofInt 80 ((accOf d q).value c m x y))) (m.xSigned || m.ySigned) m.frac) :=
  congrArg (mulToMr c d) (mulAcc_exact c (accOf d q) m x y)

/-- Settles O24: each operation delivers one 80-bit result, to a data register or to MRF or MRB, with that result's flags. -/
theorem productsToRegisters : Obligations.ProductsToRegisters := by
  intro c part leaves
  refine ⟨fun a m n x y => ⟨_, mulRounded_spec m _, ?_⟩, fun d q m x y => ⟨_, mulRounded_spec m _, ?_⟩,
    fun d signed n => ⟨_, roundMr_rounded _, ?_, ?_⟩, fun d m n => ⟨_, satValue_nearest m _, ?_, ?_⟩, fun d => rfl⟩
  · simp only [leaves, computePe_mulRn]
    exact ⟨rfl, rfl, mulTo_flagged ..⟩
  · simp only [leaves, computePe_mulMr]
    exact ⟨rfl, rfl, mulToMr_flagged ..⟩
  · exact ⟨rfl, rfl, mulTo_flagged ..⟩
  · exact ⟨rfl, rfl, mulToMr_flagged ..⟩
  · exact ⟨rfl, rfl, mulFlagged_of_out rfl rfl⟩
  · exact ⟨rfl, rfl, mulFlagged_of_out rfl rfl⟩

end Sys2Proof.Machine
end

section
/-!
PROOF. MacExact and MrTransfers: what a row of the multiplier leaves in MRF and MRB of an element that it runs in
(46_multiplier.md R495, R499 to R508, R520).
-/
namespace Sys2Proof.Machine

variable {c : PeIn} {s u : State} {y : Bool} {o : PeOut} {i : Instr} {k : Compute} {d : Mr} {m : MulMod} {v : W80} {p : Int}

/-! ### MRF and MRB of an element -/

theorem ProcElem.mr_setMr_self (e : ProcElem) (m1 : W32) (d : Mr) (v : W80) : (e.setMr m1 d v).mr m1 d = v := by
  unfold ProcElem.setMr ProcElem.mr
  split <;> rfl

theorem ProcElem.mr_take_of_some (e : ProcElem) (m1 : W32) (h : o.mr = some (d, v)) : (e.take m1 o).mr m1 d = v := by
  unfold ProcElem.take
  rw [h]
  exact ProcElem.mr_setMr_self ..

/-- A compute row leaves its result in MRF or MRB of each element that it runs in. -/
theorem State.Steady.row_mr (h : s.Steady) (hy : y = true → s.simd = true) (hi : i.compute? = some k)
    (hk : k.dualClash = false) (run : exec i s = .next u) (ho : (computePe k (s.peIn y)).mr = some (d, v)) :
    (u.pe y).mr s.reg.mode1 d = v := by
  obtain ⟨w, again, rest, -⟩ := (computeRowsComplete i k s hi).1 hk h
  obtain rfl : u = w := Host.Outcome.next.inj (run.symm.trans again)
  have runs : (if y then s.simd else true) = true := by
    cases y with
    | false => rfl
    | true => exact hy rfl
  have pe : u.pe y = (s.runPes s.begun (computePe k) true s.simd).pe y := by rw [rest]; rfl
  rw [pe, State.pe_runPes, if_pos runs]
  exact ProcElem.mr_take_of_some _ _ ho

/-! ### Products into MRF and MRB -/

/-- Each product that MRF or MRB takes is one accumulation, with the instruction's exact value. -/
theorem Instr.product_of_mac? (h : i.mac? c = some (d, m, p)) : ∃ q x y, i.compute? = some (.mulMr d q m x y) ∧
    p = (accOf d q).value c m x y := by
  unfold Instr.mac? at h
  split at h
  case h_7 => cases h
  case h_1 | h_2 =>
    cases h
    exact ⟨.set, _, _, rfl, rfl⟩
  case h_3 | h_4 =>
    cases h
    exact ⟨.plus, _, _, rfl, rfl⟩
  case h_5 | h_6 =>
    cases h
    exact ⟨.minus, _, _, rfl, rfl⟩

/-- Settles O23: the row delivers the exact value unrounded, with its flags. -/
theorem macExact : Obligations.MacExact := by
  intro i s y d m p h hy hi unrounded v
  obtain ⟨q, a, b, row, rfl⟩ := Instr.product_of_mac? hi
  have out : computePe (.mulMr d q m a b) (s.peIn y) =
      mulToMr (s.peIn y) d (mulResult v (m.xSigned || m.ySigned) m.frac) := by
    rw [computePe_mulMr, mulRounded, unrounded, if_neg Bool.false_ne_true]
  obtain ⟨u, run, left⟩ := h.row_delivers hy row rfl
  have mr := h.row_mr hy row rfl run (congrArg PeOut.mr out)
  rw [out] at left
  obtain ⟨mn, mv, mu, mi, others, mos⟩ := mulToMr_flagged (s.peIn y) d v (m.xSigned || m.ySigned) m.frac
  rw [← left.astat] at mn mv mu mi others mos
  simp only [Bool.or_eq_true, true_and] at mv mu
  refine ⟨u, run, mr, mn, mv, mu, mi, others, ?_⟩
  rw [left.stky_bit (by decide), mos, getLsbD_bitAt _ _ (by decide), decide_eq_true rfl, Bool.and_true, Bool.or_eq_true]

/-! ### Transfers -/

/-- The multiplier's flags all cleared. -/
theorem putMul_cleared (a : W32) : putMul a ⟨false, false, false, false⟩ &&& 0x3C0#32 = 0 :=
  putMul_and_mulMask a _

theorem Delivers.dreg_single {n : Reg} {w : W40} (h : Delivers s u y o) (writes : o.writes = [(n, w)]) (none : o.mr = none) :
    u.dreg y n = w := by
  rw [h.dreg, ProcElem.take, writes, none]
  show ((s.pe y).setReg s.reg.mode1 n w).reg s.reg.mode1 n = w
  rw [ProcElem.reg_setReg, if_pos rfl]

/-- MR1 is written with its sign extended to bit 79 (46_multiplier.md R520). -/
theorem toInt_signExtend_append (w lo : W32) :
    (w.signExtend 48 ++ lo : W80).toInt = w.toInt * 2 ^ 32 + lo.toNat := by
  rw [BitVec.toInt_append, if_neg (by decide), BitVec.toInt_signExtend_of_le (by decide), mul_comm]

/-- Settles O25: each transfer is a row that moves one part of the register. -/
theorem mrTransfers : Obligations.MrTransfers := by
  intro p k s y h hy v w
  obtain ⟨t, runOut, out⟩ := h.row_delivers hy (i := .mrToReg p k) rfl rfl
  obtain ⟨u, runIn, inward⟩ := h.row_delivers hy (i := .regToMr p k) rfl rfl
  have mr : (u.pe y).mr s.reg.mode1 p.home = mrWrite p v w := h.row_mr hy (i := .regToMr p k) rfl rfl runIn rfl
  refine ⟨⟨t, runOut, ?_, ?_⟩, u, runIn, ?_, ?_⟩
  · rw [out.astat]
    exact putMul_cleared _
  · rw [out.dreg_single rfl rfl]
    cases p <;> rfl
  · rw [inward.astat]
    exact putMul_cleared _
  · cases p with
    | mr0f | mr0b | mr2f | mr2b => exact mr
    | mr1f | mr1b => exact (congrArg BitVec.toInt mr).trans (toInt_signExtend_append ..)

end Sys2Proof.Machine
end

section
/-!
PROOF. StepKeepsLatchesHeld: every core step ends with the hold of the latches (60_exceptions.md R603), but for an instruction
that waits, which leaves the registers as they are. What tells the two apart is the count of free values drawn: an instruction
that is done has gone on by one stride. One lemma per operation says that it leaves that count alone; the stride is the
begin's.
-/
namespace Sys2Proof.Machine

variable {s t u : State} {n : Nat}

/-- `n` free values have been drawn. -/
def State.Drawn (n : Nat) (t : State) : Prop := t.freeIdx = n

/-! ### Registers -/

theorem State.Drawn.of_eq (h : t.Drawn n) (hu : u.freeIdx = t.freeIdx) : u.Drawn n := hu.trans h

theorem State.Drawn.setDagReg (h : t.Drawn n) (k : DagKind) (i : Reg) (v : W32) : (t.setDagReg k i v).Drawn n :=
  h.of_eq (by simp)

theorem State.Drawn.setDreg (h : t.Drawn n) (y : Bool) (i : Reg) (v : W40) : (t.setDreg y i v).Drawn n :=
  h.of_eq (by simp)

theorem State.Drawn.writeStkyx (h : t.Drawn n) (v : W32) : (t.writeStkyx v).Drawn n := by
  unfold State.writeStkyx
  dsimp only
  split <;> exact h

theorem State.Drawn.writeSys (h : t.Drawn n) (k : SReg) (v : W32) : Run.Sat (t.writeSys k v) (State.Drawn n) := by
  have ok {u : State} (hu : u.freeIdx = t.freeIdx) : Run.Sat (.ok u) (State.Drawn n) := Run.sat_ok (h.of_eq hu)
  unfold State.writeSys
  cases k with
  | mode1 | mode2 | flags | imask | imaskp | stkyy | astatx | astaty => exact Run.sat_seq fun _ => ok rfl
  | irptl | lirptl => exact Run.sat_seq fun _ => Run.sat_seq fun _ => ok rfl
  | stkyx => exact Run.sat_seq fun _ => Run.sat_ok (h.writeStkyx v)
  | _ => exact ok rfl

theorem State.Drawn.write32 (h : t.Drawn n) (r : UReg) (v : W32) : Run.Sat (t.write32 r v) (State.Drawn n) := by
  have choose {c : Prop} [Decidable c] {a b : State} (ha : a.freeIdx = t.freeIdx) (hb : b.freeIdx = t.freeIdx) :
      Run.Sat (.ok (if c then a else b)) (State.Drawn n) := Run.sat_ok (by split <;> exact h.of_eq ‹_›)
  unfold State.write32
  cases r with
  | r | s => exact Run.sat_ok (h.setDreg _ _ _)
  | i | m | l | b => exact Run.sat_ok (h.setDagReg _ _ _)
  | pcstk => exact choose rfl rfl
  | pcstkp => exact choose rfl (by simp)
  | laddr => exact Run.sat_ite (fun _ => Run.sat_ok h) fun _ => Run.sat_seq fun _ => Run.sat_ok h
  | curlcntr => exact choose rfl rfl
  | sys k => exact h.writeSys k v
  | _ => exact Run.sat_ok h

theorem State.Drawn.write40 (h : t.Drawn n) (r : UReg) (v : W40) (wide : Bool) :
    Run.Sat (t.write40 r v wide) (State.Drawn n) := by
  unfold State.write40
  split
  · exact Run.sat_ok (h.setDreg _ _ _)
  · exact Run.sat_ok (h.setDreg _ _ _)
  · exact Run.sat_ok h
  · exact h.write32 _ _

theorem State.Drawn.copyReg (h : t.Drawn n) (dst src : UReg) : Run.Sat (s.copyReg t dst src) (State.Drawn n) :=
  Run.sat_seq fun _ => Run.sat_seq fun _ => h.write40 _ _ _

theorem State.Drawn.uregMove (h : t.Drawn n) (dst src : UReg) (g : Gate) :
    Run.Sat (s.uregMove t dst src g) (State.Drawn n) := by
  have implicit (v : State) (hv : v.Drawn n) : Run.Sat (match (if s.simd && g.y then dst.comp else none) with
      | some c => s.copyReg v c (implicitSource src)
      | none => .ok v) (State.Drawn n) := by
    split
    · exact hv.copyReg _ _
    · exact Run.sat_ok hv
  exact Run.sat_seq fun _ => Run.sat_ite (fun _ => Run.sat_bind (h.copyReg _ _) implicit) fun _ => implicit t h

theorem State.Drawn.swapRegs (h : t.Drawn n) (y x : Reg) (g : Gate) : Run.Sat (s.swapRegs t y x g) (State.Drawn n) := by
  have second (v : State) (hv : v.Drawn n) : Run.Sat (if g.y then s.copyReg v (.s y) (.r x) else .ok v) (State.Drawn n) :=
    Run.sat_ite (fun _ => hv.copyReg _ _) fun _ => Run.sat_ok hv
  exact Run.sat_seq fun _ => Run.sat_ite (fun _ => Run.sat_bind (h.copyReg _ _) second) fun _ => second t h

theorem State.Drawn.putImmediate (h : t.Drawn n) (r : UReg) (v : W32) :
    Run.Sat (s.putImmediate t r v) (State.Drawn n) := by
  refine Run.sat_seq fun _ => Run.sat_seq fun _ => Run.sat_bind (h.write32 r v) fun w hw => ?_
  split
  · exact hw.write32 _ _
  · exact Run.sat_ok hw

/-! ### Memory accesses -/

theorem State.Drawn.touched {p : Prop} (h : t.Drawn n) (g : Touched p t u) : u.Drawn n := h.of_eq (by rw [g.rest])

theorem State.Drawn.modifyIndex (h : t.Drawn n) (i : Reg) (m : W32) (always : Bool) :
    Run.Sat (s.modifyIndex t i m always) (State.Drawn n) :=
  Run.sat_bind (s.updateIndex_eq t i m always) fun u hu => Run.sat_ok
    ((hu ▸ h.setDagReg _ _ _ : u.Drawn n).touched (p := False)
      ((Touched.refl u).wrapNoted (wrapNoted_reportWrap s u i m always)))

theorem State.Drawn.memMoved {m : MemMove} {xs : List Loaded} (h : t.Drawn n) (g : MemMoved s m t xs u) : u.Drawn n := by
  obtain ⟨v, hv, rfl | rfl⟩ := g.access
  · exact h.of_eq (by rw [hv.rest])
  · rw [State.postModified_rest]
    exact h.of_eq (by rw [hv.rest])

theorem State.Drawn.putLoaded (h : t.Drawn n) (m : W32) (x : Loaded) : Run.Sat (t.putLoaded m x) (State.Drawn n) := by
  unfold State.putLoaded
  split
  · exact h.write32 _ _
  · split
    · exact Run.sat_ok h
    · exact Run.sat_ok (h.setDreg _ _ _)
    · exact Run.sat_ok (h.setDreg _ _ _)
    · exact h.write32 _ _
  · split
    · exact Run.sat_ok h
    · refine Run.sat_bind (h.write32 _ _) fun v hv => ?_
      split
      · exact hv.write32 _ _
      · exact Run.sat_ok hv
  · split
    · exact Run.sat_ok h
    · exact h.write32 _ _

theorem State.Drawn.putAll (h : t.Drawn n) (m : W32) (xs : List Loaded) : Run.Sat (t.putAll m xs) (State.Drawn n) := by
  induction xs generalizing t with
  | nil => exact Run.sat_ok h
  | cons x xs ih => exact Run.sat_bind (h.putLoaded m x) fun v hv => ih hv

theorem State.Drawn.report (h : t.Drawn n) (m : MemMove) (g : Gate) : Run.Sat (s.report t m g) (State.Drawn n) :=
  Run.sat_mono (s.report_touched t m g) fun _ hu => h.touched hu

theorem State.Drawn.memMove (h : t.Drawn n) (m : MemMove) (g : Gate) (e : Bool) (site : Nat) :
    Run.Sat (s.memMove t m g e site) fun p => p.2.Drawn n :=
  Run.sat_mono (s.memMove_sat t m g e site) fun _ hp => h.memMoved hp

theorem State.Drawn.move (h : t.Drawn n) (m : MemMove) (g : Gate) (ds : List Reg) :
    Run.Sat (s.move t m g ds) (State.Drawn n) := by
  refine Run.sat_bind (h.memMove m g false 4) fun p hp => Run.sat_seq fun _ => Run.sat_bind (hp.putAll _ _) fun v hv => ?_
  refine Run.sat_bind (hv.report m g) fun w hw => Run.sat_ok ?_
  split <;> exact hw

theorem State.Drawn.dualAccess (h : t.Drawn n) (dw : Bool) (di dm : DagNum) (dr : Reg) (pw : Bool) (pi pm : DagNum)
    (pr : Reg) : Run.Sat (s.dualAccess t dw di dm dr pw pi pm pr) (State.Drawn n) := by
  refine Run.sat_seq fun _ => Run.sat_seq fun a1 => Run.sat_seq fun l1 => Run.sat_seq fun a2 => Run.sat_seq fun l2 =>
    Run.sat_seq fun _ => ?_
  have moves (a b : MemMove) (wide : Bool) (ga gb : Gate) : Run.Sat (do
      let (xs, t1) ← s.memMove t a ga wide 4
      let (ys, t2) ← s.memMove t1 b gb wide 6
      let t3 ← t2.putAll s.reg.mode1 (ys ++ xs)
      let t4 ← s.report t3 a ga
      s.report t4 b gb) (State.Drawn n) :=
    Run.sat_bind (h.memMove _ _ _ _) fun p hp => Run.sat_bind (hp.memMove _ _ _ _) fun q hq =>
      Run.sat_bind (hq.putAll _ _) fun v hv => Run.sat_bind (hv.report _ _) fun w hw => hw.report _ _
  dsimp only
  exact Run.sat_ite (fun _ => Run.sat_seq fun _ => Run.sat_seq fun _ => Run.sat_seq fun _ => moves _ _ _ _ _) fun _ =>
    moves _ _ _ _ _

/-! ### Stacks -/

theorem State.Drawn.pushPc (h : t.Drawn n) (v : W24) : (t.pushPc v).Drawn n := by
  unfold State.pushPc
  exact h.of_eq (by simp)

theorem State.Drawn.popPc (h : t.Drawn n) : Run.Sat t.popPc (State.Drawn n) :=
  Run.sat_seq fun _ => Run.sat_seq fun _ => Run.sat_ok h

theorem State.Drawn.pushLoop (h : t.Drawn n) (a c : W32) : (t.pushLoop a c).Drawn n := by
  unfold State.pushLoop
  dsimp only
  split
  · exact h.of_eq (by simp)
  · exact h

theorem State.Drawn.popLoop (h : t.Drawn n) : Run.Sat t.popLoop (State.Drawn n) :=
  Run.sat_seq fun _ => Run.sat_seq fun _ => Run.sat_ok h

theorem State.Drawn.pushSts (h : t.Drawn n) (m : W32) : (t.pushSts m).Drawn n := by
  unfold State.pushSts
  dsimp only
  split
  · exact h.of_eq (by simp)
  · exact h

theorem State.Drawn.popSts (h : t.Drawn n) : Run.Sat t.popSts (State.Drawn n) := by
  refine Run.sat_seq fun _ => ?_
  split
  · exact Run.sat_error
  · exact Run.sat_ok h

theorem State.Drawn.leave (h : t.Drawn n) : Run.Sat t.leave (State.Drawn n) := by
  unfold State.leave
  split
  · exact Run.sat_ok h
  · next k _ =>
    have fin (v : State) (hv : v.Drawn n) : Run.Sat (.ok (if k == .virpti then
        { v.setService k false with iop := { (v.setService k false).iop with vipd := false } }
        else v.setService k false) : Run State) (State.Drawn n) := by
      refine Run.sat_ok ?_
      split <;> exact hv.of_eq (by simp)
    exact Run.sat_ite (fun _ => Run.sat_bind h.popSts fin) fun _ => fin t h

theorem State.Drawn.abortLoop (h : t.Drawn n) (a : W24) : Run.Sat (t.abortLoop a) (State.Drawn n) :=
  Run.sat_bind h.popLoop fun _ hu => Run.sat_bind hu.popPc fun _ hv => Run.sat_seq fun _ => Run.sat_ok hv

theorem State.Drawn.flushIf (h : t.Drawn n) (b : Bool) : (t.flushIf b).Drawn n := by
  unfold State.flushIf
  split <;> exact h

/-! ### The parts of a step -/

/-- The begin of a step draws a stride of free values. -/
theorem State.begin_draws (s : State) : Run.Sat s.begin (State.Drawn (s.freeIdx + freeStride)) :=
  Run.sat_mono s.begin_done fun b hb => by rw [hb.2.rest]; rfl

theorem State.Drawn.runPes (h : t.Drawn n) (f : PeIn → PeOut) (ex ey : Bool) : (s.runPes t f ex ey).Drawn n := by
  rw [State.runPes_rest]
  exact h

theorem State.Drawn.computePart (h : t.Drawn n) (k : Compute) (g : Bool × Bool) :
    Run.Sat (s.computePart t k g) (State.Drawn n) :=
  Run.sat_mono (s.computePart_runs t k g) fun _ ⟨_, _, hu⟩ => hu ▸ h.runPes _ _ _

theorem State.Drawn.shiftPart (h : t.Drawn n) (op : ShImm) (ex : BitVec 4) (data : BitVec 8) (rn rx : Reg)
    (g : Bool × Bool) : Run.Sat (s.shiftPart t op ex data rn rx g) (State.Drawn n) :=
  Run.sat_mono (s.shiftPart_runs t op ex data rn rx g) fun _ ⟨_, _, hu⟩ => hu ▸ h.runPes _ _ _

theorem State.Drawn.windowMoved (h : t.Drawn n) (g : WindowMoved t u) : u.Drawn n := h.of_eq (by rw [g.rest])

theorem State.Drawn.advance (h : t.Drawn n) : Run.Sat (s.advance t) (State.Drawn n) :=
  Run.sat_mono (s.advance_moved t) fun _ hu => h.windowMoved hu

theorem State.Drawn.flow (h : t.Drawn n) {ask : W24 → State → Run (State × Flow)}
    (ha : ∀ a u, u.Drawn n → Run.Sat (ask a u) fun p => p.1.Drawn n) : Run.Sat (s.flow t ask) (State.Drawn n) :=
  Run.sat_bind (ha _ t h) fun p hp => Run.sat_mono (s.window_moved p.1 _ _) fun _ hu => hp.windowMoved hu

theorem State.Drawn.jumpIf (h : t.Drawn n) (c : Cond) (la db ci : Bool) (target : Run W24) :
    Run.Sat (s.jumpIf t c la db ci target) (State.Drawn n) := by
  refine Run.sat_seq fun _ => Run.sat_ite (fun _ => Run.sat_seq fun _ => Run.sat_seq fun a => h.flow fun _ u hu => ?_)
    fun _ => h.advance
  have enter (v : State) (hv : v.Drawn n) : Run.Sat (do
      need (v.entryAllowed a) .loopEndEntry
      .ok (v, branchTo db false a) : Run (State × Flow)) fun p => p.1.Drawn n := Run.sat_seq fun _ => Run.sat_ok hv
  have leave (v : State) (hv : v.Drawn n) : Run.Sat (do
      let w ← if ci then v.leave else .ok v
      need (w.entryAllowed a) .loopEndEntry
      .ok (w, branchTo db false a) : Run (State × Flow)) fun p => p.1.Drawn n :=
    Run.sat_ite (fun _ => Run.sat_bind hv.leave enter) fun _ => enter v hv
  cases la with
  | true => exact Run.sat_seq fun _ => Run.sat_bind (hu.abortLoop a) leave
  | false => exact leave u hu

theorem State.Drawn.callIf (h : t.Drawn n) (c : Cond) (db : Bool) (target : Run W24) :
    Run.Sat (s.callIf t c db target) (State.Drawn n) := by
  refine Run.sat_seq fun _ => Run.sat_ite (fun _ => ?_) fun _ => h.advance
  refine Run.sat_seq fun _ => Run.sat_seq fun _ => Run.sat_seq fun _ => Run.sat_seq fun a => h.flow fun _ u hu => ?_
  exact Run.sat_seq fun _ => Run.sat_ok (hu.pushPc _)

theorem State.Drawn.returnIf (h : t.Drawn n) (c : Cond) (db : Bool) {after : W24 → State → Run State}
    (ha : ∀ a u, u.Drawn n → Run.Sat (after a u) (State.Drawn n)) :
    Run.Sat (s.returnIf t c db after) (State.Drawn n) := by
  refine Run.sat_seq fun _ => Run.sat_ite (fun _ => ?_) fun _ => h.advance
  refine Run.sat_seq fun _ => Run.sat_seq fun _ => h.flow fun _ u hu => ?_
  exact Run.sat_bind hu.popPc fun v hv => Run.sat_bind (ha _ v hv) fun w hw => Run.sat_ok hw

/-- What an instruction does after its checks: the step begins, and what follows draws nothing more. -/
theorem State.begin_then {f : State → Run State} (hf : ∀ v n, v.Drawn n → Run.Sat (f v) (State.Drawn n)) :
    Run.Sat (s.begin >>= f) (State.Drawn (s.freeIdx + freeStride)) :=
  Run.sat_bind s.begin_draws fun v hv => hf v _ hv

end Sys2Proof.Machine
end

section
/-!
PROOF. StepKeepsLatchesHeld: an instruction is done or waits, and every step holds the latches.
-/
namespace Sys2Proof.Machine

variable {s t : State}

/-- An instruction that goes on has drawn a stride of free values, or it waits and all registers are as they were. -/
def Draws (s : State) (o : Host.Outcome State Fault Refusal) : Prop :=
  ∀ t, o = .next t → t.freeIdx = s.freeIdx + freeStride ∨ t.reg = s.reg

theorem Draws.outcome {r : Run State} (h : Run.Sat r (State.Drawn (s.freeIdx + freeStride))) : Draws s (outcome s r) := by
  intro t ht
  rcases outcome_eq_next.1 ht with hr | ⟨-, rfl⟩ | ⟨-, rfl⟩
  · exact .inl (h t hr)
  · exact .inr rfl
  · exact .inr rfl

theorem runCompute_draws (k : Compute) : Draws s (runCompute k s) :=
  .outcome (State.begin_then fun _ _ hb => Run.sat_bind (hb.computePart _ _) fun _ hv => hv.advance)

theorem runMove_draws (c : Cond) (k : Compute) (m : MemMove) : Draws s (runMove c k m s) :=
  .outcome (Run.sat_seq fun _ => State.begin_then fun _ _ hb => Run.sat_bind (hb.computePart _ _) fun _ hv =>
    Run.sat_bind (hv.move _ _ _) fun _ hw => hw.advance)

theorem runAccess_draws (m : MemMove) : Draws s (runAccess m s) :=
  .outcome (State.begin_then fun _ _ hb => Run.sat_bind (hb.move _ _ _) fun _ hw => hw.advance)

theorem execDualMove_draws (dw : Bool) (di dm : DagNum) (dr : Reg) (pw : Bool) (pi pm : DagNum) (pr : Reg) (k : Compute) :
    Draws s (execDualMove dw di dm dr pw pi pm pr k s) :=
  .outcome (State.begin_then fun _ _ hb => Run.sat_bind (hb.computePart _ _) fun _ hv =>
    Run.sat_bind (hv.dualAccess _ _ _ _ _ _ _ _) fun _ hw => hw.advance)

theorem execCondCompute_draws (c : Cond) (k : Compute) : Draws s (execCondCompute c k s) :=
  .outcome (Run.sat_seq fun _ => State.begin_then fun _ _ hb => Run.sat_bind (hb.computePart _ _) fun _ hv => hv.advance)

theorem execUregMove_draws (src : UReg) (c : Cond) (dst : UReg) (k : Compute) : Draws s (execUregMove src c dst k s) :=
  .outcome (Run.sat_seq fun _ => Run.sat_seq fun _ => State.begin_then fun _ _ hb =>
    Run.sat_bind (hb.computePart _ _) fun _ hv => Run.sat_bind (hv.uregMove _ _ _) fun _ hw => hw.advance)

theorem execSwap_draws (y : Reg) (c : Cond) (x : Reg) (k : Compute) : Draws s (execSwap y c x k s) :=
  .outcome (Run.sat_seq fun _ => Run.sat_seq fun _ => State.begin_then fun _ _ hb =>
    Run.sat_bind (hb.computePart _ _) fun _ hv => Run.sat_bind (hv.swapRegs _ _ _) fun _ hw => hw.advance)

theorem execShiftImmMem_draws (i m : DagNum) (c : Cond) (dag2 w : Bool) (ex : BitVec 4) (d : Reg) (op : ShImm)
    (data : BitVec 8) (rn rx : Reg) : Draws s (execShiftImmMem i m c dag2 w ex d op data rn rx s) :=
  .outcome (Run.sat_seq fun _ => State.begin_then fun _ _ hb => Run.sat_bind (hb.shiftPart _ _ _ _ _ _) fun _ hv =>
    Run.sat_bind (hv.move _ _ _) fun _ hw => hw.advance)

theorem execShiftImm_draws (c : Cond) (ex : BitVec 4) (op : ShImm) (data : BitVec 8) (rn rx : Reg) :
    Draws s (execShiftImm c ex op data rn rx s) :=
  .outcome (Run.sat_seq fun _ => State.begin_then fun _ _ hb => Run.sat_bind (hb.shiftPart _ _ _ _ _ _) fun _ hv =>
    hv.advance)

theorem execModify_draws (dag2 : Bool) (c : Cond) (i m : DagNum) (k : Compute) : Draws s (execModify dag2 c i m k s) := by
  refine .outcome (Run.sat_seq fun _ => State.begin_then fun _ _ hb => Run.sat_bind (hb.computePart _ _) fun v hv => ?_)
  have modified : Run.Sat (s.modifyByReg v dag2 i m) (State.Drawn _) := Run.sat_seq fun _ => hv.modifyIndex _ _ _
  exact Run.sat_seq fun _ => Run.sat_ite (fun _ => Run.sat_bind modified fun _ hw => hw.advance) fun _ => hv.advance

theorem withGate_draws (c : Cond) (els : Bool) (k : Compute) {branch : State → Run State}
    (hf : ∀ t n, t.Drawn n → Run.Sat (branch t) (State.Drawn n)) : Draws s (withGate c els k s branch) :=
  .outcome (Run.sat_seq fun _ => State.begin_then fun _ _ hb => Run.sat_bind (hb.computePart _ _) fun v hv => hf v _ hv)

theorem jumpElse_draws (w : Bool) (i m : DagNum) (c : Cond) (target : State → Run W24) (d : Reg) (k : Compute) :
    Draws s (jumpElse w i m c target d k s) :=
  .outcome (Run.sat_seq fun _ => State.begin_then fun _ _ hb => Run.sat_ite (fun _ => hb.jumpIf _ _ _ _ _) fun _ =>
    Run.sat_seq fun _ => Run.sat_bind (hb.computePart _ _) fun _ ht => Run.sat_bind (ht.move _ _ _) fun _ hw =>
      hw.advance)

theorem State.doUntil_draws (s : State) (term : Cond) (rel : W24) (count : Option W32) :
    Run.Sat (s.doUntil term rel count) (State.Drawn (s.freeIdx + freeStride)) := by
  refine Run.sat_seq fun _ => Run.sat_seq fun _ => Run.sat_seq fun _ => Run.sat_seq fun _ => Run.sat_seq fun _ =>
    State.begin_then fun b n hb => hb.flow fun _ u hu => Run.sat_seq fun _ => ?_
  have looped (v : State) (hv : v.Drawn n) (a c : W32) (p : W24) : ((v.pushLoop a c).pushPc p).Drawn n :=
    (hv.pushLoop a c).pushPc p
  cases count with
  | none => exact Run.sat_ok (looped u hu _ _ _)
  | some c => exact Run.sat_ok (looped (u.setCount u.seq.loopDepth c) hu _ _ _)

theorem execLoadImm_draws (r : UReg) (data : W32) : Draws s (execLoadImm r data s) :=
  .outcome (State.begin_then fun _ _ hb => Run.sat_bind (hb.putImmediate _ _) fun _ hv => hv.advance)

theorem execModifyImm_draws (dag2 : Bool) (i : DagNum) (data : W32) : Draws s (execModifyImm dag2 i data s) :=
  .outcome (Run.sat_seq fun _ => State.begin_then fun _ _ hb => Run.sat_bind (hb.modifyIndex _ _ _) fun _ hv => hv.advance)

theorem execBitrev_draws (dag2 : Bool) (i : DagNum) (data : W32) : Draws s (execBitrev dag2 i data s) :=
  .outcome (Run.sat_seq fun _ => Run.sat_seq fun _ => Run.sat_seq fun _ => Run.sat_seq fun _ =>
    State.begin_then fun _ _ hb => (hb.setDagReg _ _ _).advance)

theorem execFlushCache_draws : Draws s (execFlushCache s) :=
  .outcome (State.begin_then fun _ _ hb => (hb.flushIf _).advance)

theorem execNop_draws : Draws s (execNop s) := .outcome (State.begin_then fun _ _ hb => hb.advance)

theorem execIdle_draws : Draws s (execIdle s) :=
  .outcome (Run.sat_seq fun _ => State.begin_then fun v _ hb =>
    State.Drawn.advance (t := v.mapSeq fun q => { q with idle := true }) hb)

theorem execRframe_draws : Draws s (execRframe s) :=
  .outcome (Run.sat_seq fun _ => Run.sat_seq fun _ => Run.sat_seq fun _ => State.begin_then fun _ _ hb =>
    Run.sat_bind ((hb.setDagReg _ _ _).move _ _ _) fun _ hv => hv.advance)

theorem execRts_draws (c : Cond) (db els lr : Bool) (k : Compute) : Draws s (execRts c db els lr k s) :=
  withGate_draws _ _ _ fun _ _ ht => ht.returnIf _ _ fun _ _ hu => Run.sat_seq fun _ => Run.sat_ok hu

theorem execRti_draws (c : Cond) (db els : Bool) (k : Compute) : Draws s (execRti c db els k s) :=
  withGate_draws _ _ _ fun _ _ ht => ht.returnIf _ _ fun _ _ hu => hu.leave

theorem bitWrite_draws (k : SReg) (f : W32 → W32) : Draws s (bitWrite k f s) := by
  have write : Run.Sat (do
      let t0 ← s.begin
      let t ← t0.writeSys k (f (s.readBack t0 k))
      let u ← match (if s.simd then sregComp k else none) with
        | some d => t.writeSys d (f (s.readBack t0 d))
        | none => .ok t
      s.advance u) (State.Drawn (s.freeIdx + freeStride)) := by
    refine State.begin_then fun b n hb => Run.sat_bind (hb.writeSys _ _) fun t ht => ?_
    split
    · exact Run.sat_bind (ht.writeSys _ _) fun u hu => hu.advance
    · exact ht.advance
  exact .outcome (Run.sat_ite (fun _ => Run.sat_seq fun _ => write) fun _ => write)

theorem bitTest_draws (k : SReg) (f : W32 → Bool) : Draws s (bitTest k f s) :=
  .outcome (Run.sat_seq fun _ => State.begin_then fun _ _ hb => State.Drawn.advance (hb.of_eq rfl))

theorem pushAll_draws (loop sts pc flush : Bool) : Draws s (pushAll loop sts pc flush s) := by
  have rest : Run.Sat (do
      let t0 ← s.begin
      s.flow t0 fun _ u =>
        let u1 := if loop then u.pushLoop 0 u.lcntr else u
        let u2 := if sts then (u1.pushSts s.reg.mmask).noteStatus u1 else u1
        let u3 := if pc then u2.pushPc ((s.free 10).setWidth 24) else u2
        .ok (u3.flushIf flush, .next)) (State.Drawn (s.freeIdx + freeStride)) := by
    refine State.begin_then fun b n hb => hb.flow fun _ u hu => Run.sat_ok (State.Drawn.flushIf ?_ _)
    have choose {b : Bool} {v w : State} (hv : v.Drawn n) (hw : w.Drawn n) : (if b then v else w).Drawn n := by
      split <;> assumption
    have h1 : (if loop then u.pushLoop 0 u.lcntr else u).Drawn n := choose (hu.pushLoop _ _) hu
    have h2 (v : State) (hv : v.Drawn n) : (if sts then (v.pushSts s.reg.mmask).noteStatus v else v).Drawn n :=
      choose (hv.pushSts s.reg.mmask) hv
    exact choose ((h2 _ h1).pushPc _) (h2 _ h1)
  exact .outcome (Run.sat_seq fun _ => Run.sat_ite (fun _ => Run.sat_seq fun _ => Run.sat_seq fun _ => rest) fun _ =>
    Run.sat_seq fun _ => rest)

theorem popAll_draws (loop sts pc flush : Bool) : Draws s (popAll loop sts pc flush s) := by
  have rest : Run.Sat (do
      let t0 ← s.begin
      s.flow t0 fun _ u => do
        let u1 ← if loop then u.popLoop else .ok u
        let u2 ← if sts then u1.popSts else .ok u1
        let u3 ← if pc then u2.popPc else .ok u2
        .ok (u3.flushIf flush, .next)) (State.Drawn (s.freeIdx + freeStride)) := by
    refine State.begin_then fun b n hb => hb.flow fun _ u hu => ?_
    have pops {b : Bool} {w : State} {r : Run State} {f : State → Run (State × Flow)} (hr : Run.Sat r (State.Drawn n))
        (hw : w.Drawn n) (hf : ∀ v, v.Drawn n → Run.Sat (f v) fun p => p.1.Drawn n) :
        Run.Sat (if b then r >>= f else f w) fun p => p.1.Drawn n :=
      Run.sat_ite (fun _ => Run.sat_bind hr hf) fun _ => hf w hw
    exact pops hu.popLoop hu fun v hv => pops hv.popSts hv fun w hw => pops hw.popPc hw fun x hx =>
      Run.sat_ok (hx.flushIf flush)
  exact .outcome (Run.sat_seq fun _ => Run.sat_ite (fun _ => Run.sat_seq fun _ => rest) fun _ => rest)

theorem cjump_draws (target : State → W24) : Draws s (cjump target s) := by
  refine .outcome (Run.sat_seq fun _ => Run.sat_seq fun _ => Run.sat_seq fun _ => Run.sat_seq fun _ => Run.sat_seq fun _ =>
    State.begin_then fun v n hv => ?_)
  refine State.Drawn.flow (State.Drawn.setDagReg ?_ _ _ _) fun _ u hu => Run.sat_seq fun _ => Run.sat_ok hu
  split
  · exact (hv.setDreg _ _ _).setDreg _ _ _
  · exact hv.setDreg _ _ _

/-- Every instruction is done or waits. -/
theorem exec_draws (i : Instr) (s : State) : Draws s (exec i s) := by
  have jump (c : Cond) (la db ci els : Bool) (k : Compute) (target : Run W24) :
      Draws s (withGate c els k s fun t => s.jumpIf t c la db ci target) :=
    withGate_draws _ _ _ fun _ _ ht => ht.jumpIf _ _ _ _ _
  have call (c : Cond) (db els : Bool) (k : Compute) (target : Run W24) :
      Draws s (withGate c els k s fun t => s.callIf t c db target) :=
    withGate_draws _ _ _ fun _ _ ht => ht.callIf _ _ _
  cases hk : i.compute? with
  | some k => exact exec_of_compute hk ▸ runCompute_draws k
  | none =>
    cases i with
    | dualMove => exact execDualMove_draws _ _ _ _ _ _ _ _ _
    | condCompute => exact execCondCompute_draws _ _
    | uregMem | dregMemImm => exact runMove_draws _ _ _
    | uregMove => exact execUregMove_draws _ _ _ _
    | swap => exact execSwap_draws _ _ _ _
    | shiftImmMem => exact execShiftImmMem_draws _ _ _ _ _ _ _ _ _ _ _
    | shiftImm => exact execShiftImm_draws _ _ _ _ _ _
    | modify => exact execModify_draws _ _ _ _ _
    | jumpAbs | jumpRel | jumpInd | jumpRel6 => exact jump _ _ _ _ _ _ _
    | callAbs | callRel | callInd | callRel6 => exact call _ _ _ _ _
    | jumpIndElse w di dm c i m => exact jumpElse_draws _ _ _ _ (fun s => s.indTarget i m) _ _
    | jumpRelElse w di dm c rel => exact jumpElse_draws _ _ _ _ (fun s => s.relTarget (rel.signExtend 24)) _ _
    | rts => exact execRts_draws _ _ _ _ _
    | rti => exact execRti_draws _ _ _ _
    | doImm | doUntil => exact .outcome (s.doUntil_draws _ _ _)
    | doUreg => exact .outcome (Run.sat_seq fun _ => s.doUntil_draws _ _ _)
    | uregAbs | uregPre | storeImm => exact runAccess_draws _
    | loadImm => exact execLoadImm_draws _ _
    | bitSet _ data => exact bitWrite_draws _ (· ||| data)
    | bitClr _ data => exact bitWrite_draws _ (· &&& ~~~data)
    | bitTgl _ data => exact bitWrite_draws _ (· ^^^ data)
    | bitTst _ data => exact bitTest_draws _ fun v => v &&& data == data
    | bitXor _ data => exact bitTest_draws _ (· == data)
    | modifyImm => exact execModifyImm_draws _ _ _
    | bitrev => exact execBitrev_draws _ _ _
    | pushLoop | pushSts | pushPc => exact pushAll_draws _ _ _ _
    | popLoop | popSts | popPc => exact popAll_draws _ _ _ _
    | flushCache => exact execFlushCache_draws
    | nop => exact execNop_draws
    | idle => exact execIdle_draws
    | cjumpAbs addr => exact cjump_draws fun _ => addr
    | cjumpRel rel => exact cjump_draws fun s => s.seq.pc + rel
    | rframe => exact execRframe_draws
    | _ => cases hk

/-! ### Steps -/

/-- The invariant looks at the system registers only. -/
theorem State.LatchesHeld.of_reg (h : s.LatchesHeld) (hr : t.reg = s.reg) : t.LatchesHeld := by
  unfold State.LatchesHeld at *
  rwa [hr]

/-- A step that goes on holds the latches. -/
def Holds (o : Host.Outcome State Fault Refusal) : Prop := ∀ t, o = .next t → t.LatchesHeld

/-- An instruction that waits keeps the registers, and one that is done ends with the hold of the latches. -/
theorem afterExec_holds (h : s.LatchesHeld) {o : Host.Outcome State Fault Refusal} (ho : Draws s o) :
    Holds (s.afterExec o) := by
  intro t ht
  cases o with
  | fault | refused => cases ht
  | next u =>
    simp only [State.afterExec] at ht
    split at ht
    · next same =>
      cases ht
      rcases ho u rfl with gone | kept
      · simp [same, freeStride] at gone
      · exact h.of_reg kept
    · cases ht
      exact State.finish_held

theorem runInstr_holds (h : s.LatchesHeld) : Holds s.runInstr := by
  unfold State.runInstr
  split
  · rintro t ⟨⟩
  · rintro t ⟨⟩
  · rintro t ⟨⟩; exact h.of_reg rfl
  · rintro t ⟨⟩; exact h.of_reg rfl
  · split
    · exact afterExec_holds h (exec_draws _ s)
    · rintro t ⟨⟩

theorem coreStep_holds (h : s.LatchesHeld) : Holds s.coreStep := by
  unfold State.coreStep
  split
  · split
    · rintro t ⟨⟩
    · split
      · rintro t ⟨⟩
      · rintro t ⟨⟩; exact State.finish_held
  · split
    · rintro t ⟨⟩; exact State.finish_held
    · exact runInstr_holds h

/-- After a reset nothing is latched, and of the link ports nothing is in service either. -/
theorem State.resetWith_held (i : Iop) : (s.resetWith i).LatchesHeld := by
  have reg : (s.resetWith i).reg = resetMasks s.pins.boot (SysRegs.atReset s.pins.flagIn) := rfl
  unfold State.LatchesHeld
  rw [reg]
  cases s.pins.boot <;> simp [resetMasks, SysRegs.atReset]

/-- Settles O9: a core step and an event end with the hold of the latches, an instruction that waits changes no register, and a
reset latches nothing. -/
theorem stepKeepsLatchesHeld : Obligations.StepKeepsLatchesHeld := by
  intro s t h ht
  simp only [step, State.oneStep] at ht
  split at ht
  · cases ht
  · split at ht
    · cases ht
      exact State.resetWith_held _
    · split at ht
      · exact coreStep_holds h t ht
      · next rest _ => exact coreStep_holds (s := { s with inputs := rest }) (h.of_reg rfl) t ht
      · obtain ⟨u, -, rfl⟩ := State.eventStep_eq_next.1 ht
        exact State.afterEvent_held

end Sys2Proof.Machine
end

section
/-!
PROOF. The latches and the in-service bits (60_exceptions.md R601, R603): each interrupt has its own, and what every operation
does to them (OccurLatches, LinkSummary).
-/
namespace Sys2Proof.Machine

variable {s t : State}

/-! ### The interrupts and their bits -/

theorem Irq.bit_lt (k : Irq) : k.bit < 32 := by cases k <;> decide

theorem Irq.link_lt {k : Irq} {n : Nat} (h : k.link = some n) : n < 6 := by
  cases k <;> cases h <;> decide

/-- Two interrupts with latches in IRPTL have different ones. -/
theorem Irq.bit_inj {j k : Irq} (hj : j.link = none) (hk : k.link = none) (h : j.bit = k.bit) : j = k := by
  have find (i : Irq) (hi : i.link = none) : Irq.all.find? (fun x => x.link == none && x.bit == i.bit) = some i := by
    cases i <;> first | rfl | cases hi
  exact Option.some.inj ((find j hj).symm.trans (h ▸ find k hk))

/-- Two link port interrupts have different latches. -/
theorem Irq.link_inj {j k : Irq} {n : Nat} (hj : j.link = some n) (hk : k.link = some n) : j = k := by
  have find (i : Irq) (hi : i.link = some n) : Irq.all.find? (fun x => x.link == some n) = some i := by
    cases i <;> cases hi <;> rfl
  exact Option.some.inj ((find j hj).symm.trans (find k hk))

theorem Irq.mem_all (k : Irq) : k ∈ Irq.all := by cases k <;> decide

/-- What is found in the priority order is of the highest priority. -/
theorem Irq.find_all_eq_some {p : Irq → Bool} {k : Irq} :
    Irq.all.find? p = some k ↔ p k = true ∧ ∀ j, j.pos < k.pos → p j = false := by
  have sorted : Irq.all.Pairwise fun a b => a.pos < b.pos := by decide
  rw [List.find?_eq_some_iff_append]
  refine and_congr_right fun hk => ⟨?_, fun h => ?_⟩
  · rintro ⟨as, bs, split, none⟩ j hj
    rw [split, List.pairwise_append, List.pairwise_cons] at sorted
    obtain ⟨-, ⟨later, -⟩, -⟩ := sorted
    have mem : j ∈ as ++ k :: bs := split ▸ j.mem_all
    rcases List.mem_append.1 mem with mem | mem
    · simpa using none j mem
    · rcases List.mem_cons.1 mem with rfl | mem
      · omega
      · have := later j mem
        omega
  · obtain ⟨as, bs, split⟩ := List.append_of_mem k.mem_all
    rw [split, List.pairwise_append] at sorted
    obtain ⟨-, -, earlier⟩ := sorted
    exact ⟨as, bs, split, fun j hj => by simp [h j (earlier j hj k List.mem_cons_self)]⟩

/-! ### One bit of a word -/

/-- One bit replaced. -/
theorem getLsbD_putBit (a : W32) (b : Bool) {n j : Nat} (hj : j < 32) :
    (putBits a (bitAt n true) (bitAt n b)).getLsbD j = if j = n then b else a.getLsbD j := by
  simp only [putBits, BitVec.getLsbD_or, BitVec.getLsbD_and, BitVec.getLsbD_not, getLsbD_bitAt _ _ hj, hj]
  by_cases h : j = n <;> simp [h]

/-! ### Setting a latch or an in-service bit -/

theorem State.latched_congr (hi : t.reg.irptl = s.reg.irptl) (hl : t.reg.lirptl = s.reg.lirptl) (k : Irq) :
    t.latched k = s.latched k := by
  simp only [State.latched, hi, hl]

theorem State.inService_congr (hi : t.reg.imaskp = s.reg.imaskp) (hl : t.reg.lirptl = s.reg.lirptl) (k : Irq) :
    t.inService k = s.inService k := by
  simp only [State.inService, hi, hl]

theorem State.latched_setLatch (s : State) (k : Irq) (b : Bool) (j : Irq) :
    (s.setLatch k b).latched j = if j = k then b else s.latched j := by
  have bit (i : Irq) := i.bit_lt
  unfold State.setLatch State.latched
  cases hk : k.link with
  | none =>
    cases hj : j.link with
    | none =>
      have same : j.bit = k.bit ↔ j = k := ⟨Irq.bit_inj hj hk, congrArg _⟩
      simp only [getLsbD_putBit _ _ (bit j), same]
    | some m => simp [show j ≠ k by rintro rfl; cases hk.symm.trans hj]
  | some n =>
    cases hj : j.link with
    | none => simp [show j ≠ k by rintro rfl; cases hk.symm.trans hj]
    | some m =>
      have same : m = n ↔ j = k :=
        ⟨fun h => Irq.link_inj hj (h ▸ hk), by rintro rfl; exact Option.some.inj (hj.symm.trans hk)⟩
      simp only [getLsbD_putBit _ _ (show m < 32 by have := Irq.link_lt hj; omega), same]

theorem State.inService_setService (s : State) (k : Irq) (b : Bool) (j : Irq) :
    (s.setService k b).inService j = if j = k then b else s.inService j := by
  have bit (i : Irq) := i.bit_lt
  unfold State.setService State.inService
  cases hk : k.link with
  | none =>
    cases hj : j.link with
    | none =>
      have same : j.bit = k.bit ↔ j = k := ⟨Irq.bit_inj hj hk, congrArg _⟩
      simp only [getLsbD_putBit _ _ (bit j), same]
    | some m => simp [show j ≠ k by rintro rfl; cases hk.symm.trans hj]
  | some n =>
    cases hj : j.link with
    | none => simp [show j ≠ k by rintro rfl; cases hk.symm.trans hj]
    | some m =>
      have same : 24 + m = 24 + n ↔ j = k :=
        ⟨fun h => Irq.link_inj hj (Nat.add_left_cancel h ▸ hk), by
          rintro rfl; rw [Option.some.inj (hj.symm.trans hk)]⟩
      simp only [getLsbD_putBit _ _ (show 24 + m < 32 by have := Irq.link_lt hj; omega), same]

theorem State.inService_setLatch (s : State) (k : Irq) (b : Bool) (j : Irq) :
    (s.setLatch k b).inService j = s.inService j := by
  unfold State.setLatch State.inService
  cases hk : k.link with
  | none => cases j.link <;> rfl
  | some n =>
    cases hj : j.link with
    | none => rfl
    | some m =>
      have := Irq.link_lt hj
      have := Irq.link_lt hk
      simp only [getLsbD_putBit _ _ (show 24 + m < 32 by omega), if_neg (show 24 + m ≠ n by omega)]

theorem State.latched_setService (s : State) (k : Irq) (b : Bool) (j : Irq) :
    (s.setService k b).latched j = s.latched j := by
  unfold State.setService State.latched
  cases hk : k.link with
  | none => cases j.link <;> rfl
  | some n =>
    cases hj : j.link with
    | none => rfl
    | some m =>
      have := Irq.link_lt hj
      simp only [getLsbD_putBit _ _ (show m < 32 by omega), if_neg (show m ≠ 24 + n by omega)]

/-! ### Requests -/

/-- A request of `k` is held down: its routine runs with nesting off (60_exceptions.md R603). -/
def State.holds (s : State) (k : Irq) : Bool := s.inService k && !nestm s.reg.mode1

theorem State.occur_eq (s : State) (k : Irq) : s.occur k = if s.holds k then s else s.setLatch k true := rfl

theorem State.latched_occur (s : State) (k j : Irq) :
    (s.occur k).latched j = if j = k then s.latched k || !s.holds k else s.latched j := by
  rw [s.occur_eq k]
  by_cases held : s.holds k = true
  · rw [if_pos held, held, Bool.not_true, Bool.or_false]
    split
    · next same => rw [same]
    · rfl
  · rw [if_neg held, State.latched_setLatch]
    simp [held]

theorem State.inService_occur (s : State) (k j : Irq) : (s.occur k).inService j = s.inService j := by
  unfold State.occur
  split
  · rfl
  · exact s.inService_setLatch k true j

/-- A request touches the latches only. -/
theorem State.occur_rest (s : State) (k : Irq) :
    s.occur k = { s with reg := { s.reg with irptl := (s.occur k).reg.irptl, lirptl := (s.occur k).reg.lirptl } } := by
  unfold State.occur State.setLatch
  split
  · rfl
  · split <;> rfl

/-- Settles O14. -/
theorem occurLatches : Obligations.OccurLatches := by
  refine ⟨fun s k => ⟨?_, fun j hj => ?_, s.inService_occur k, s.occur_rest k⟩, fun s m k h => ?_⟩
  · rw [State.latched_occur, if_pos rfl]
    rfl
  · rw [State.latched_occur, if_neg hj]
  · exact Irq.find_all_eq_some.1 h

/-- Settles O16: bit 14 is in the mask of the read, and the summary is not zero exactly where one of its six bits is set. -/
theorem linkSummary : Obligations.LinkSummary := by
  intro s
  have bit : (s.readSys .irptl).getLsbD 14 = lpisumi s.reg.lirptl :=
    (getLsbD_putBit s.reg.irptl (lpisumi s.reg.lirptl) (n := 14) (by decide)).trans (if_pos rfl)
  have field (n : Nat) : (s.reg.lirptl &&& (s.reg.lirptl >>> 16) &&& 0x3F#32).getLsbD n =
      (s.reg.lirptl.getLsbD n && s.reg.lirptl.getLsbD (16 + n) && decide (n < 6)) := by
    rw [BitVec.getLsbD_and, BitVec.getLsbD_and, BitVec.getLsbD_ushiftRight]
    congr 1
    by_cases h : n < 6
    · interval_cases n <;> rfl
    · rw [decide_eq_false h]
      by_cases high : n < 32
      · interval_cases n <;> rfl
      · exact BitVec.getLsbD_of_ge _ _ (by omega)
  rw [bit, lpisumi, bne_iff_ne, ne_eq]
  constructor
  · intro some
    obtain ⟨n, hn⟩ : ∃ n, (s.reg.lirptl &&& (s.reg.lirptl >>> 16) &&& 0x3F#32).getLsbD n = true := by
      by_contra none
      exact some (BitVec.eq_of_getLsbD_eq fun i _ => by simpa using fun hi => none ⟨i, hi⟩)
    rw [field] at hn
    simp only [Bool.and_eq_true, decide_eq_true_eq] at hn
    obtain ⟨⟨latch, mask⟩, low⟩ := hn
    exact ⟨n, low, latch, mask⟩
  · rintro ⟨n, low, latch, mask⟩ zero
    have := field n
    rw [zero, latch, mask, decide_eq_true low] at this
    simp at this

end Sys2Proof.Machine
end

section
/-!
PROOF. Taking an interrupt and leaving it (EnterInterrupt, EnterThenLeave; 60_exceptions.md R605, R606, R612, R625).
-/
namespace Sys2Proof.Machine

variable {s t : State}

/-! ### The pushes -/

/-- Interrupts and stacks of a state with room on the PC stack after a push: only SOVFI may be requested. -/
theorem State.latched_pushPc (h : s.seq.pcstkp.toNat < 30) (v : W24) (j : Irq) : (s.pushPc v).latched j =
    if j = .sovfi ∧ 28 ≤ s.seq.pcstkp.toNat then s.latched .sovfi || !s.holds .sovfi else s.latched j := by
  have room : ¬ s.seq.pcstkp.toNat ≥ 30 := Nat.not_le.2 h
  have depth : (s.seq.pcstkp + 1).toNat ≥ 29 ↔ 28 ≤ s.seq.pcstkp.toNat := by bv_omega
  simp only [State.pushPc, room, if_false, State.occurIf, depth]
  split
  · next full =>
    rw [State.latched_occur]
    simp only [of_decide_eq_true full, and_true]
    rfl
  · next few =>
    rw [if_neg fun hj => few (decide_eq_true hj.2)]
    rfl

theorem State.inService_pushPc (s : State) (v : W24) (j : Irq) : (s.pushPc v).inService j = s.inService j := by
  rw [State.pushPc_rest]
  rfl

/-- A push of the status stack leaves the interrupts, with room for the entry. -/
theorem State.interrupts_pushSts (h : s.seq.statusStack.length < 15) (m : W32) (j : Irq) :
    (s.pushSts m).latched j = s.latched j ∧ (s.pushSts m).inService j = s.inService j := by
  rw [State.pushSts_room h]
  exact ⟨rfl, rfl⟩

/-- A push of the status stack changes nothing but the stack, MODE1, its flag and, where it overflows, the latch of SOVFI. -/
theorem State.pushSts_rest (s : State) (m : W32) : s.pushSts m =
    { s with
      seq := { s.seq with
        statusStack := (s.pushSts m).seq.statusStack, stackOverflow := (s.pushSts m).seq.stackOverflow }
      reg := { s.reg with
        mode1 := s.reg.mode1 &&& ~~~m, stkyx := (s.pushSts m).reg.stkyx, irptl := (s.pushSts m).reg.irptl }
      stackBits := (s.pushSts m).stackBits } := by
  have full (t : State) : t.occur .sovfi = { t with reg := { t.reg with irptl := (t.occur .sovfi).reg.irptl } } :=
    State.occurIf_sovfi t true
  unfold State.pushSts
  dsimp only
  split
  · rw [full]
    rfl
  · rfl

/-! ### The entry -/

/-- The state of an entry before the window moves: the bits of the interrupt set, the stacks pushed. -/
def State.entered (s : State) (k : Irq) (m : W32) : State :=
  let t := ((s.setLatch k false).setService k true).pushPc s.seq.pc
  if k.pushes then t.pushSts m else t

theorem State.enter_eq (s : State) (k : Irq) (m : W32) : s.enter k m =
    { s.entered k m with seq := { (s.entered k m).seq.setWindow (s.vector k) (s.vector k + 1) (s.vector k + 2) with
        dbSlots := 0, idle := false, booting := false, prevKind := .entry } } := rfl

/-- An entry touches the sequencer, MODE1, STKYx, the latches and the in-service bits only. -/
theorem State.entered_rest (s : State) (k : Irq) (m : W32) : s.entered k m =
    { s with
      seq := (s.entered k m).seq
      reg := { s.reg with
        mode1 := if k.pushes then s.reg.mode1 &&& ~~~m else s.reg.mode1
        stkyx := (s.entered k m).reg.stkyx, irptl := (s.entered k m).reg.irptl
        lirptl := (s.entered k m).reg.lirptl, imaskp := (s.entered k m).reg.imaskp }
      stackBits := (s.entered k m).stackBits } := by
  have bits : (s.setLatch k false).setService k true = { s with reg := { s.reg with
      irptl := ((s.setLatch k false).setService k true).reg.irptl
      lirptl := ((s.setLatch k false).setService k true).reg.lirptl
      imaskp := ((s.setLatch k false).setService k true).reg.imaskp } } := by
    unfold State.setLatch State.setService
    split <;> rfl
  unfold State.entered
  generalize (s.setLatch k false).setService k true = t at *
  dsimp only
  split
  · rw [State.pushSts_rest, State.pushPc_rest, bits]
  · rw [State.pushPc_rest, bits]

/-- The PC stack of an entry is that of a push, whatever the status stack holds. -/
theorem State.entered_pcStack (s : State) (k : Irq) (m : W32) :
    (s.entered k m).seq.pcstkp = (s.pushPc s.seq.pc).seq.pcstkp ∧
      (s.entered k m).seq.pcStack = (s.pushPc s.seq.pc).seq.pcStack := by
  have pushed : (((s.setLatch k false).setService k true).pushPc s.seq.pc).seq = (s.pushPc s.seq.pc).seq := by
    simp [State.pushPc]
  unfold State.entered
  rw [← pushed]
  dsimp only
  split
  · rw [State.pushSts_rest]
    exact ⟨rfl, rfl⟩
  · exact ⟨rfl, rfl⟩

/-- With room on both stacks an entry keeps to them. -/
theorem State.entered_seq (hp : s.seq.pcstkp.toNat < 30) (hs : s.seq.statusStack.length < 15) (k : Irq) (m : W32) :
    (s.entered k m).seq = { s.seq with
      pcstkp := s.seq.pcstkp + 1, pcStack := s.seq.pcStack.setIfInBounds s.seq.pcstkp.toNat s.seq.pc
      statusStack := if k.pushes then ⟨s.reg.astatx, s.reg.astaty, s.reg.mode1⟩ :: s.seq.statusStack
        else s.seq.statusStack } := by
  set t := (s.setLatch k false).setService k true with ht
  have pushed : (t.pushPc s.seq.pc).seq = { s.seq with
      pcstkp := s.seq.pcstkp + 1, pcStack := s.seq.pcStack.setIfInBounds s.seq.pcstkp.toNat s.seq.pc } := by
    rw [State.pushPc_seq (by simpa [ht] using hp)]
    simp [ht]
  have reg : (t.pushPc s.seq.pc).reg.astatx = s.reg.astatx ∧ (t.pushPc s.seq.pc).reg.astaty = s.reg.astaty ∧
      (t.pushPc s.seq.pc).reg.mode1 = s.reg.mode1 := by
    rw [State.pushPc_rest]
    simp [ht]
  obtain ⟨ax, ay, m1⟩ := reg
  show (if k.pushes then (t.pushPc s.seq.pc).pushSts m else t.pushPc s.seq.pc).seq = _
  split
  · rw [State.pushSts_room (by rw [pushed]; exact hs), pushed, ax, ay, m1]
  · exact pushed

theorem State.inService_entered (hp : s.seq.pcstkp.toNat < 30) (hs : s.seq.statusStack.length < 15) (k : Irq) (m : W32)
    (j : Irq) : (s.entered k m).inService j = if j = k then true else s.inService j := by
  have pushed : (((s.setLatch k false).setService k true).pushPc s.seq.pc).inService j =
      if j = k then true else s.inService j := by
    rw [State.inService_pushPc, State.inService_setService, State.inService_setLatch]
  unfold State.entered
  dsimp only
  split
  · rw [(State.interrupts_pushSts ?_ m j).2, pushed]
    rw [State.pushPc_seq (by simpa using hp)]
    simpa using hs
  · exact pushed

theorem State.latched_entered (hp : s.seq.pcstkp.toNat < 30) (hs : s.seq.statusStack.length < 15) (k : Irq) (m : W32)
    (j : Irq) : (s.entered k m).latched j =
      (((s.setLatch k false).setService k true).pushPc s.seq.pc).latched j := by
  unfold State.entered
  dsimp only
  split
  · rw [(State.interrupts_pushSts ?_ m j).1]
    rw [State.pushPc_seq (by simpa using hp)]
    simpa using hs
  · rfl

/-- The latch bit of the interrupt entered is cleared; only that of SOVFI may be set again, by its own push. -/
theorem State.latched_entered_self (hp : s.seq.pcstkp.toNat < 30) (hs : s.seq.statusStack.length < 15) (k : Irq) (m : W32) :
    (s.entered k m).latched k =
      if k = .sovfi then nestm s.reg.mode1 && decide (28 ≤ s.seq.pcstkp.toNat) else false := by
  rw [State.latched_entered hp hs, State.latched_pushPc (by simpa using hp)]
  simp only [State.latched_setService, State.latched_setLatch, State.setService_seq, State.setLatch_seq, State.holds,
    State.inService_setService, State.setService_mode1, State.setLatch_mode1]
  by_cases hk : k = .sovfi
  · subst hk
    by_cases deep : 28 ≤ s.seq.pcstkp.toNat <;> simp [deep]
  · simp [hk]

theorem State.latched_entered_other (hp : s.seq.pcstkp.toNat < 30) (hs : s.seq.statusStack.length < 15) {k j : Irq}
    (hj : j ≠ k) (hv : j ≠ .sovfi) (m : W32) : (s.entered k m).latched j = s.latched j := by
  rw [State.latched_entered hp hs, State.latched_pushPc (by simpa using hp), if_neg fun h => hv h.1,
    State.latched_setService, State.latched_setLatch, if_neg hj]

theorem State.topPc_enter (hp : s.seq.pcstkp.toNat < 30) (k : Irq) (m : W32) : (s.enter k m).topPc = s.seq.pc := by
  obtain ⟨pointer, stack⟩ := s.entered_pcStack k m
  have depth : (s.pushPc s.seq.pc).seq.pcstkp = s.seq.pcstkp + 1 := by rw [State.pushPc_seq hp]
  rw [← State.topPc_pushPc hp s.seq.pc]
  exact State.topPc_congr (s := s.pushPc s.seq.pc) (t := s.enter k m) pointer stack (by rw [depth]; bv_omega)
    (by rw [depth]; bv_omega)

/-- The vector of an interrupt (60_exceptions.md R605, R606). -/
theorem State.vector_eq (s : State) (k : Irq) : s.vector k =
    if k = .virpti then s.iop.virpt.extractLsb' 0 24
    else (if s.pins.boot ≠ .noboot ∨ s.iop.syscon.getLsbD 2 = true then 0x040000#24 else 0x800000#24) +
      BitVec.ofNat 24 (4 * k.pos) := by
  simp [State.vector, State.ivtBase]

/-- Settles O13: the entry sets its bits, pushes its stacks and moves the window. -/
theorem enterInterrupt : Obligations.EnterInterrupt := by
  intro s k m hp hs u
  have seq := State.entered_seq hp hs k m
  have rest := s.entered_rest k m
  have service (j : Irq) : u.inService j = if j = k then true else s.inService j := State.inService_entered hp hs k m j
  refine ⟨?_, State.topPc_enter hp k m, ?_, ?_, State.latched_entered_self hp hs k m, ?_, fun j hj => ?_,
    fun j hj hv => State.latched_entered_other hp hs hj hv m, s.vector_eq k, rfl, rfl, rfl, rfl, rfl, ?_, ?_, ?_, ?_⟩
  · show (s.entered k m).seq.pcstkp = _
    rw [seq]
  · show (s.entered k m).seq.statusStack = _
    rw [seq]
  · show (s.entered k m).reg.mode1 = _
    rw [rest]
  · rw [service, if_pos rfl]
  · rw [service, if_neg hj]
  · show (s.entered k m).x = _ ∧ (s.entered k m).y = _
    rw [rest]
    exact ⟨rfl, rfl⟩
  · show (s.entered k m).dag = _ ∧ (s.entered k m).dagAlt = _
    rw [rest]
    exact ⟨rfl, rfl⟩
  · show (s.entered k m).mem = _
    rw [rest]
  · show (s.entered k m).iop = _
    rw [rest]

/-! ### The return -/

/-- With nothing of higher priority in service the interrupt that is left is this one. -/
theorem State.serving_eq {k : Irq} (hk : s.inService k = true) (h : ∀ j, j.pos < k.pos → s.inService j = false) :
    s.serving = some k := Irq.find_all_eq_some.2 ⟨hk, h⟩

/-- An interrupt whose entry pushed the status stack gives it back when it is left. -/
theorem State.leave_pushed {k : Irq} {e : StatusEntry} {rest : List StatusEntry} (hv : s.serving = some k)
    (hk : k.pushes = true) (ho : s.seq.stackOverflow = false) (he : s.seq.statusStack = e :: rest) :
    ∃ v, s.leave = .ok v ∧ v.seq = { s.seq with statusStack := rest } ∧ v.reg.mode1 = e.mode1 ∧
      v.reg.astatx = e.astatx ∧ v.reg.astaty = e.astaty ∧ ∀ j, v.inService j = if j = k then false else s.inService j := by
  have pop := State.popSts_eq_ok.2 ⟨ho, e, rest, he, rfl⟩
  set t := ((s.restore e rest).stackState 0x01000000 (bitAt 24 rest.isEmpty)).noteStatus s with ht
  have run : s.leave = .ok (if k == .virpti then
      { t.setService k false with iop := { (t.setService k false).iop with vipd := false } } else t.setService k false) := by
    simp only [State.leave, hv, hk, if_true, pop, Run.ok_bind]
  have service (j : Irq) : (t.setService k false).inService j = if j = k then false else s.inService j := by
    rw [State.inService_setService]
    rfl
  refine ⟨_, run, ?_⟩
  split <;> exact ⟨State.setService_seq .., State.setService_mode1 .., State.setService_astatx .., State.setService_astaty ..,
    service⟩

/-- An interrupt whose entry pushed no status leaves the status as it is. -/
theorem State.leave_plain {k : Irq} (hv : s.serving = some k) (hk : k.pushes = false) :
    ∃ v, s.leave = .ok v ∧ v.seq = s.seq ∧ v.reg.mode1 = s.reg.mode1 ∧ v.reg.astatx = s.reg.astatx ∧
      v.reg.astaty = s.reg.astaty ∧ ∀ j, v.inService j = if j = k then false else s.inService j := by
  have plain : (k == .virpti) = false := by cases k <;> first | rfl | cases hk
  refine ⟨s.setService k false, ?_, State.setService_seq .., State.setService_mode1 .., State.setService_astatx ..,
    State.setService_astaty .., s.inService_setService k false⟩
  simp only [State.leave, hv, hk, plain, Bool.false_eq_true, if_false, Run.ok_bind]

/-- Settles O15: the entry sets the highest in-service bit, so the return leaves just this interrupt. -/
theorem enterThenLeave : Obligations.EnterThenLeave := by
  intro s k m ho hp hs quiet
  have seq := State.entered_seq hp hs k m
  have rest := s.entered_rest k m
  set t := s.enter k m with ht
  have tseq : t.seq.pcstkp = s.seq.pcstkp + 1 ∧ t.seq.stackOverflow = false ∧ t.seq.statusStack =
      if k.pushes then ⟨s.reg.astatx, s.reg.astaty, s.reg.mode1⟩ :: s.seq.statusStack else s.seq.statusStack := by
    show (s.entered k m).seq.pcstkp = _ ∧ (s.entered k m).seq.stackOverflow = _ ∧ (s.entered k m).seq.statusStack = _
    rw [seq]
    exact ⟨rfl, ho, rfl⟩
  obtain ⟨pointer, sound, stack⟩ := tseq
  have service (j : Irq) : t.inService j = if j = k then true else s.inService j := State.inService_entered hp hs k m j
  have pop := State.popPc_eq_ok.2 ⟨sound, show t.seq.pcstkp ≠ 0 by rw [pointer]; bv_omega, rfl⟩
  set u := ({ t with seq := { t.seq with pcstkp := t.seq.pcstkp - 1 } }).stackState 0x00600000
    (bitAt 22 (t.seq.pcstkp - 1 == 0)) with hu
  have back : u.seq.pcstkp = s.seq.pcstkp := by
    show t.seq.pcstkp - 1 = _
    rw [pointer, add_sub_cancel_right]
  have serving : u.serving = some k := by
    refine State.serving_eq ((service k).trans (if_pos rfl)) fun j hj => (service j).trans ?_
    rw [if_neg (by rintro rfl; exact lt_irrefl _ hj), quiet j hj.le]
  have restored (v : State) (hv : ∀ j, v.inService j = if j = k then false else u.inService j) (j : Irq) :
      v.inService j = s.inService j := by
    rw [hv]
    split
    · next same => rw [same, quiet k le_rfl]
    · next other => exact (service j).trans (if_neg other)
  have reg : u.reg.mode1 = (if k.pushes then s.reg.mode1 &&& ~~~m else s.reg.mode1) ∧ u.reg.astatx = s.reg.astatx ∧
      u.reg.astaty = s.reg.astaty := by
    show (s.entered k m).reg.mode1 = _ ∧ (s.entered k m).reg.astatx = _ ∧ (s.entered k m).reg.astaty = _
    rw [rest]
    exact ⟨rfl, rfl, rfl⟩
  obtain ⟨mode1, astatx, astaty⟩ := reg
  cases hk : k.pushes with
  | true =>
    rw [hk, if_pos rfl] at stack
    obtain ⟨v, run, vseq, vm, vx, vy, hv⟩ := State.leave_pushed serving hk sound stack
    exact ⟨u, v, State.topPc_enter hp k m, pop, run, by rw [vseq]; exact back, by rw [vseq], vm, vx, vy, restored v hv⟩
  | false =>
    rw [hk, if_neg Bool.false_ne_true] at stack mode1
    obtain ⟨v, run, vseq, vm, vx, vy, hv⟩ := State.leave_plain serving hk
    exact ⟨u, v, State.topPc_enter hp k m, pop, run, by rw [vseq]; exact back, by rw [vseq]; exact stack, vm.trans mode1,
      vx.trans astatx, vy.trans astaty, restored v hv⟩

end Sys2Proof.Machine
end

section
/-!
PROOF. The end of a core step, and a tick of the timer, touch the latches, FLAGS, the timer and the clock counters only
(FinishFrame, TimerTick; 60_exceptions.md R603, R620, R640).
-/
namespace Sys2Proof.Machine

variable {s t u v : State}

/-- From `t` to `u` only the latches differ. -/
structure Relatched (t u : State) : Prop where
  rest : u = { t with reg := { t.reg with irptl := u.reg.irptl, lirptl := u.reg.lirptl } }
  /-- the masks and the in-service bits of the link ports -/
  link : u.reg.lirptl &&& ~~~0x3F#32 = t.reg.lirptl &&& ~~~0x3F#32

namespace Relatched

theorem refl (t : State) : Relatched t t := ⟨rfl, rfl⟩

theorem trans (h : Relatched s t) (g : Relatched t u) : Relatched s u where
  rest := by rw [g.rest, h.rest]
  link := g.link.trans h.link

theorem ite {c : Prop} [Decidable c] (h : Relatched s t) (g : Relatched s u) : Relatched s (if c then t else u) := by
  split <;> assumption

theorem occur (h : Relatched s t) (k : Irq) : Relatched s (t.occur k) :=
  h.trans ⟨t.occur_rest k, ((Outside.refl t).occur k).ptr⟩

theorem inService (h : Relatched t u) (j : Irq) : u.inService j = t.inService j := by
  have mask : u.reg.imaskp = t.reg.imaskp := by rw [h.rest]
  unfold State.inService
  cases hj : j.link with
  | none => rw [mask]
  | some n =>
    have low := Irq.link_lt hj
    have bit := congrArg (fun w : W32 => w.getLsbD (24 + n)) h.link
    have outside : (~~~0x3F#32).getLsbD (24 + n) = true := by interval_cases n <;> rfl
    simpa only [BitVec.getLsbD_and, outside, Bool.and_true] using bit

end Relatched

theorem levels_relatched (s t : State) : Relatched t (s.levels t) := by
  have step (l : List Irq) : ∀ u, Relatched t u → Relatched t (l.foldl State.occur u) := by
    induction l with
    | nil => exact fun u hu => hu
    | cons k l ih => exact fun u hu => ih _ (hu.occur k)
  exact step _ t (.refl t)

theorem holdLatches_relatched (t : State) : Relatched t t.holdLatches where
  rest := by
    unfold State.holdLatches State.mapReg SysRegs.hold
    split <;> rfl
  link := t.reg.hold_lirptl_high

/-- An expiry requests interrupts and gives the pulse of TIMEXP. -/
theorem State.expire_relatched (t : State) : ∃ u, Relatched t u ∧ t.expire = u.output .timexp :=
  ⟨_, ((Relatched.refl t).occur .tmzhi).occur .tmzli, rfl⟩

/-- What follows an event requests interrupts and holds latches down. -/
theorem State.afterEvent_relatched (t : State) :
    ∃ u, Relatched t u ∧ t.afterEvent = { u with freeIdx := u.freeIdx + freeStride } :=
  ⟨_, (Relatched.ite (levels_relatched t t) (.refl t)).trans (holdLatches_relatched _), rfl⟩

/-- From `t` to `u` only the latches, FLAGS, the timer, the clock counters, the sampled flags, the notes for the next step and
the outputs differ. -/
structure Settles (t u : State) : Prop where
  rest : u = { t with
    reg := { t.reg with
      irptl := u.reg.irptl, lirptl := u.reg.lirptl, flags := u.reg.flags, tcount := u.reg.tcount
      emuclk := u.reg.emuclk, emuclk2 := u.reg.emuclk2 }
    recent := u.recent
    outputs := u.outputs
    pins := { t.pins with flagSync := u.pins.flagSync } }
  /-- of LIRPTL only the latches -/
  link : u.reg.lirptl &&& ~~~0x3F#32 = t.reg.lirptl &&& ~~~0x3F#32

namespace Settles

theorem refl (t : State) : Settles t t := ⟨rfl, rfl⟩

theorem trans (h : Settles s t) (g : Settles t u) : Settles s u where
  rest := by rw [g.rest, h.rest]
  link := g.link.trans h.link

theorem ite {c : Prop} [Decidable c] (h : Settles s t) (g : Settles s u) : Settles s (if c then t else u) := by
  split <;> assumption

theorem recent (h : Settles s t) (r : Recent) : Settles s { t with recent := r } := h.trans ⟨rfl, rfl⟩

end Settles

theorem Relatched.settles (h : Relatched t u) : Settles t u where
  rest := by rw [h.rest]
  link := h.link

theorem expire_settles (t : State) : Settles t t.expire := by
  obtain ⟨u, hu, expire⟩ := t.expire_relatched
  exact expire ▸ hu.settles.trans ⟨rfl, rfl⟩

theorem countClock_settles (t : State) : Settles t t.countClock := ⟨rfl, rfl⟩

theorem timerTick_settles (t : State) (fresh draw : Bool) : Settles t (t.timerTick fresh draw) := by
  have counted (v : W32) : Settles t (t.mapReg fun r => { r with tcount := v }) := ⟨rfl, rfl⟩
  have expired (v : W32) (b : Bool) : Settles t (if b then (t.mapReg fun r => { r with tcount := v }).expire
      else t.mapReg fun r => { r with tcount := v }) :=
    .ite ((counted v).trans (expire_settles _)) (counted v)
  exact .ite (expired _ _) (expired _ _)

theorem stepTick_settles (s t : State) : Settles t (s.stepTick t) :=
  (Settles.ite ((countClock_settles t).trans (timerTick_settles _ _ _)) (countClock_settles t)).recent _

theorem sampleFlags_settles (s t : State) : Settles t (s.sampleFlags t) := ⟨rfl, rfl⟩

/-- What a core step ends with, before the notes of the recognition and of PC_SHDW. -/
def State.settled (s t : State) : State := (s.levels (s.sampleFlags (s.stepTick t))).holdLatches

theorem settled_settles (s t : State) : Settles t (s.settled t) :=
  (((stepTick_settles s t).trans (sampleFlags_settles s _)).trans (levels_relatched s _).settles).trans (holdLatches_relatched _).settles

theorem State.finish_eq (s t : State) : s.finish t =
    ((s.settled t).mapSeq fun q => { q with prevSel := s.selected, waiting := false }).mapIop fun i =>
      { i with pcShdw := s.seq.pc } := rfl

/-- The flags are sampled at the end of every core step (10_state.md R43). -/
theorem State.settled_pins (s t : State) : (s.settled t).pins = { t.pins with flagSync := s.pins.flagIn } := by
  have levels : (s.settled t).pins = (s.sampleFlags (s.stepTick t)).pins := levels_outside.pins
  have tick : (s.stepTick t).pins = t.pins := stepTick_outside.pins
  rw [levels, ← tick]
  rfl

/-- The end of a core step, as one change of the state. -/
theorem State.finish_rest (s t : State) : s.finish t = { t with
    seq := { t.seq with prevSel := s.selected, waiting := false }
    reg := { t.reg with
      irptl := (s.finish t).reg.irptl, lirptl := (s.finish t).reg.lirptl, flags := (s.finish t).reg.flags
      tcount := (s.finish t).reg.tcount, emuclk := (s.finish t).reg.emuclk, emuclk2 := (s.finish t).reg.emuclk2 }
    recent := (s.finish t).recent
    outputs := (s.finish t).outputs
    iop := { t.iop with pcShdw := s.seq.pc }
    pins := { t.pins with flagSync := s.pins.flagIn } } := by
  have pins := s.settled_pins t
  have rest := (settled_settles s t).rest
  rw [State.finish_eq]
  generalize s.settled t = u at *
  rw [rest] at pins ⊢
  simp only [State.mapSeq, State.mapIop] at pins ⊢
  rw [pins]

theorem State.finish_link (s t : State) : (s.finish t).reg.lirptl &&& ~~~0x3F#32 = t.reg.lirptl &&& ~~~0x3F#32 :=
  (settled_settles s t).link

/-- An external fetch is noted in ELAST and nowhere else (62_link_serial_multiproc.md R767). -/
theorem State.noteFetch_rest (s t : State) : s.noteFetch t =
    { t with iop := { t.iop with elast := (s.noteFetch t).iop.elast }, recent := (s.noteFetch t).recent } ∧
    (s.fetchesOut = false → (s.noteFetch t).iop.elast = t.iop.elast) := by
  unfold State.noteFetch State.touchExt
  split
  · next out =>
    have out := (Bool.and_eq_true_iff.1 out).1
    refine ⟨?_, fun h => absurd out (by simp [h])⟩
    split <;> rfl
  · exact ⟨rfl, fun _ => rfl⟩

/-- Settles O4: the end of a core step is one change of the state that holds the note of the fetch. -/
theorem finishFrame : Obligations.FinishFrame := by
  intro s t u
  obtain ⟨fetch, elast⟩ := s.noteFetch_rest t
  have rest : u = _ := s.finish_rest (s.noteFetch t)
  have link : u.reg.lirptl &&& ~~~0x3F#32 = (s.noteFetch t).reg.lirptl &&& ~~~0x3F#32 := s.finish_link (s.noteFetch t)
  have kept : u.iop.elast = (s.noteFetch t).iop.elast := by rw [rest]
  generalize s.noteFetch t = w at *
  clear_value u
  rw [fetch] at link rest
  refine ⟨?_, ?_, ?_, ?_, ?_, ?_, ?_, ?_, ?_, link, ?_, fun h => kept.trans (elast h)⟩ <;> rw [rest]

/-! ### The timer -/

/-- The level sources request, and take no request back. -/
theorem State.levels_latched (s t : State) (j : Irq) (h : t.latched j = true) : (s.levels t).latched j = true := by
  have step (l : List Irq) : ∀ u : State, u.latched j = true → (l.foldl State.occur u).latched j = true := by
    induction l with
    | nil => exact fun u hu => hu
    | cons k l ih =>
      refine fun u hu => ih _ ?_
      rw [State.latched_occur]
      split
      · next same => simp [← same, hu]
      · exact hu
  exact step _ t h

/-- The hold clears the latches that are held down, and no others (60_exceptions.md R603). -/
theorem State.latched_holdLatches (t : State) (j : Irq) :
    t.holdLatches.latched j = (t.latched j && !t.holds j) := by
  show State.latched { t with reg := t.reg.hold } j = _
  unfold SysRegs.hold State.holds State.inService
  cases nestm t.reg.mode1 with
  | true => simp [State.latched]
  | false =>
    unfold State.latched
    cases hj : j.link with
    | none => simp [Irq.bit_lt j, -BitVec.getLsbD_eq_getElem]
    | some n =>
      have low := Irq.link_lt hj
      have inside : (0x3F#32).getLsbD n = true := by interval_cases n <;> rfl
      have word : n < 32 := by omega
      simp only [Bool.false_eq_true, if_false, BitVec.getLsbD_and, BitVec.getLsbD_not, BitVec.getLsbD_ushiftRight, inside,
        word, decide_true, Bool.true_and, Bool.and_true, Bool.not_false]

/-- After an event a latch is set that was set before and is not held down; while the core runs no other one is. -/
theorem State.latched_afterEvent (t : State) (j : Irq) :
    (t.latched j = true → t.inService j = false → t.afterEvent.latched j = true) ∧
      (t.seq.idle = false → t.afterEvent.latched j = true → t.latched j = true) := by
  have after : t.afterEvent.latched j = (if t.seq.idle then t.levels t else t).holdLatches.latched j := rfl
  rw [after, State.latched_holdLatches]
  refine ⟨fun latch quiet => ?_, fun idle latch => ?_⟩
  · have kept : (if t.seq.idle then t.levels t else t).latched j = true := by
      split
      · exact t.levels_latched t j latch
      · exact latch
    have still : (if t.seq.idle then t.levels t else t).inService j = false :=
      (Relatched.inService (.ite (levels_relatched t t) (.refl t)) j).trans quiet
    simp [kept, State.holds, still]
  · rw [idle, if_neg Bool.false_ne_true] at latch
    exact (Bool.and_eq_true_iff.1 latch).1

/-- An expiry requests both timer interrupts and no other one. -/
theorem State.latched_expire (t : State) (j : Irq) (hj : j = .tmzhi ∨ j = .tmzli) (h : t.inService j = false) :
    t.expire.latched j = true := by
  show ((t.occur .tmzhi).occur .tmzli).latched j = true
  rw [State.latched_occur, State.latched_occur, State.latched_occur]
  have free : t.holds j = false := by simp [State.holds, h]
  have later : (t.occur .tmzhi).holds j = t.holds j := by simp [State.holds, State.inService_occur]
  rcases hj with rfl | rfl
  · simp [free]
  · simp [later, free]

/-- A tick counts the clock cycle and the timer. -/
theorem State.extraTick_eq (on : s.reg.mode2.getLsbD 5 = true) : ∃ v : State,
    v = { s with reg := { s.reg with
      emuclk := s.reg.emuclk + 1, emuclk2 := v.reg.emuclk2
      tcount := if s.reg.tcount = 0 then s.reg.tperiod else s.reg.tcount - 1 } } ∧
    ∃ expires : Bool, s.extraTick = { (if expires then v.expire else v) with recent := s.extraTick.recent } ∧
      (s.reg.tcount = 1 → expires = true) ∧ (1 < s.reg.tcount.toNat → expires = false) := by
  have tick : s.extraTick = { s.countClock.timerTick s.recent.timerZero (Config.freeBit s.freeIdx) with
      recent := s.extraTick.recent } := by
    unfold State.extraTick
    rw [on, if_pos rfl]
  rw [tick]
  unfold State.timerTick
  by_cases zero : s.reg.tcount = 0
  · have test : (s.countClock.reg.tcount == 0) = true := beq_iff_eq.2 zero
    rw [test, if_pos rfl]
    refine ⟨s.countClock.mapReg fun r => { r with tcount := r.tperiod }, by rw [if_pos zero]; rfl, _, rfl,
      fun one => ?_, fun more => ?_⟩
    · rw [zero] at one
      exact absurd one (by decide)
    · rw [zero] at more
      exact absurd more (by decide)
  · have test : (s.countClock.reg.tcount == 0) = false := beq_false_of_ne zero
    rw [test, if_neg Bool.false_ne_true]
    refine ⟨s.countClock.mapReg fun r => { r with tcount := r.tcount - 1 }, by rw [if_neg zero]; rfl, _, rfl,
      fun one => ?_, fun more => ?_⟩
    · show (s.reg.tcount - 1 == 0) = true
      rw [one]
      rfl
    · show (s.reg.tcount - 1 == 0) = false
      exact beq_false_of_ne (by bv_omega)

/-- Settles O55: the step is the tick, which counts and at 1 requests; what follows an event takes no request back. -/
theorem timerTick : Obligations.TimerTick := by
  intro s t rest _ hp hi on h
  have event := eventStep_of_step hp hi (by decide) h
  obtain ⟨w, hw, rfl⟩ := State.eventStep_eq_next.1 event
  have hw : w = ({ s with inputs := rest } : State).extraTick := (Except.ok.inj hw).symm
  obtain ⟨v, hv, expires, tick, fires, quiet⟩ := State.extraTick_eq (s := { s with inputs := rest }) on
  rw [← hw] at tick
  have ticked : ∃ x, Relatched v x ∧ w = { x with outputs := w.outputs, recent := w.recent } := by
    obtain ⟨x, hx, expire⟩ := v.expire_relatched
    rw [tick]
    cases expires
    · exact ⟨v, .refl v, rfl⟩
    · exact ⟨x, hx, by rw [if_pos rfl, expire]; rfl⟩
  obtain ⟨x, hx, hwx⟩ := ticked
  obtain ⟨u, hu, after⟩ := w.afterEvent_relatched
  have fields : w.afterEvent.reg.emuclk = v.reg.emuclk ∧ w.afterEvent.reg.tcount = v.reg.tcount ∧
      w.afterEvent.mem = v.mem ∧ w.afterEvent.x = v.x ∧ w.afterEvent.y = v.y := by
    rw [after, hu.rest, hwx, hx.rest]
    exact ⟨rfl, rfl, rfl, rfl, rfl⟩
  obtain ⟨emuclk, tcount, mem, px, py⟩ := fields
  rw [hv] at emuclk tcount mem px py
  have requested (j : Irq) (hj : j = .tmzhi ∨ j = .tmzli) (one : s.reg.tcount = 1) (free : s.inService j = false) :
      w.afterEvent.latched j = true := by
    have vfree : v.inService j = false := by rw [hv]; exact free
    have latch : w.latched j = true := by
      rw [tick, fires one]
      exact v.latched_expire j hj vfree
    refine (w.latched_afterEvent j).1 latch ?_
    rw [hwx]
    exact (hx.inService j).trans vfree
  refine ⟨emuclk, fun some => tcount.trans (if_neg some), fun zero => tcount.trans (if_pos zero),
    requested _ (.inl rfl), requested _ (.inr rfl), fun more awake latch => ?_, mem, px, py⟩
  have idle : w.seq.idle = false := by
    rw [hwx, hx.rest, hv]
    exact awake
  have before := (w.latched_afterEvent .tmzhi).2 idle latch
  rw [tick, quiet more, if_neg Bool.false_ne_true, hv] at before
  exact before

end Sys2Proof.Machine
end

section
/-!
PROOF. Core steps that run no instruction: the entry of an interrupt, a step of the idle core, and a software reset
(StepEntersInterrupt, IdleStays, SoftReset; 60_exceptions.md R620, R645, 70_reset_and_hazards.md R781, R802).
-/
namespace Sys2Proof.Machine

variable {s : State}

/-- With no event and no reset pending a step is a core step. -/
theorem step_eq_coreStep (hid : s.pins.id ≠ 7) (hp : s.iop.resetPending = false) (hi : s.inputs = []) :
    step s = s.coreStep := by
  simp only [step, State.oneStep, if_neg hid, hp, hi, Bool.false_eq_true, if_false]

/-- A recognised interrupt that nothing holds off is entered (60_exceptions.md R620). -/
theorem State.entering_eq (hd : s.seq.dbSlots = 0) (hw : s.seq.waiting = false) (hp : s.recent.pcstkp = false) :
    s.entering = s.recognised := by
  simp [State.entering, State.entryHeld, hd, hw, hp]

/-- Settles O5: the step is the entry, and the end of the step leaves what the entry made. -/
theorem stepEntersInterrupt : Obligations.StepEntersInterrupt := by
  intro s k hid hp hi hd hw hs hk exit moved
  have entering : s.entering = some k := (State.entering_eq hd hw hs).trans hk
  have undecided : s.decidedExit = false := by
    simpa [State.decidedExit] using exit
  have vector : s.vectorMoved k = false := by
    cases h : s.vectorMoved k with
    | false => rfl
    | true =>
      refine absurd ?_ moved
      simpa [State.vectorMoved, and_assoc] using h
  set t := s.pause.enter k s.mmaskSeen with ht
  have run : step s = .next (s.finish t) := by
    simp only [step_eq_coreStep hid hp hi, State.coreStep, entering, undecided, vector, Bool.false_eq_true, if_false, ht]
  have rest := s.pause.entered_rest k s.mmaskSeen
  have data : t.x = s.x ∧ t.y = s.y ∧ t.mem = s.mem := by
    show (s.pause.entered k s.mmaskSeen).x = _ ∧ (s.pause.entered k s.mmaskSeen).y = _ ∧
      (s.pause.entered k s.mmaskSeen).mem = _
    rw [rest]
    exact ⟨rfl, rfl, rfl⟩
  obtain ⟨px, py, mem⟩ := data
  have finish := s.finish_rest t
  have stack (room : s.seq.pcstkp.toNat < 30) : (s.finish t).seq.pcstkp = s.seq.pcstkp + 1 ∧
      (s.finish t).topPc = s.seq.pc := by
    have pushed := (s.pause.entered_pcStack k s.mmaskSeen).1
    rw [State.pushPc_seq (s := s.pause) room] at pushed
    have pointer : t.seq.pcstkp = s.seq.pcstkp + 1 := pushed
    have top : (s.finish t).topPc = t.topPc :=
      State.topPc_congr (by rw [finish]) (by rw [finish]) (by rw [pointer]; bv_omega) (by rw [pointer]; bv_omega)
    exact ⟨by rw [finish]; exact pointer, top.trans (State.topPc_enter (s := s.pause) room k s.mmaskSeen)⟩
  refine ⟨s.finish t, run, ?_, ?_, ?_, ?_, ?_, ?_, ?_, ?_, stack⟩ <;> rw [finish]
  exacts [rfl, rfl, rfl, rfl, rfl, px, py, mem]

/-- Settles O6: the step is an idle one, which changes the note of the step alone, and its end. -/
theorem idleStays : Obligations.IdleStays := by
  intro s hid hp hi idle none
  have entering : s.entering = .none := State.entering_none (.inr (.inr (.inr none)))
  have run : step s = .next (s.finish s.idleStep) := by
    simp only [step_eq_coreStep hid hp hi, State.coreStep, entering, idle, if_true]
  have finish := s.finish_rest s.idleStep
  have link := s.finish_link s.idleStep
  refine ⟨s.finish s.idleStep, run, ?_, ⟨?_, ?_⟩, ⟨?_, ?_⟩, ?_, ?_, ?_, ?_, ?_, ?_, link, ?_, ?_⟩ <;> rw [finish] <;> rfl

/-- Settles O12: the step is the reset, which takes the state of the reset pin and keeps the rest. -/
theorem softReset : Obligations.SoftReset := by
  intro s hid hp
  have run : step s = .next s.softReset := by
    simp only [step, State.oneStep, if_neg hid, hp, if_true]
  exact ⟨s.softReset, run, rfl, rfl, rfl, rfl, rfl, rfl, rfl, rfl, rfl, rfl, rfl, rfl, rfl, rfl, rfl, rfl⟩

end Sys2Proof.Machine
end

section
/-!
PROOF. The words of a link port and of a serial port (LinkWords; 62_link_serial_multiproc.md R729, R745 to R747).
-/
namespace Sys2Proof.Machine

variable {s t : State}

/-! ### The bits of a serial word -/

theorem getLsbD_lowBits (v : W32) {n : Nat} (hn : n ≤ 32) (j : Nat) :
    (lowBits v n).getLsbD j = (decide (j < n) && v.getLsbD j) := by
  have small : 2 ^ n - 1 < 2 ^ 32 := by
    have := Nat.pow_le_pow_right (n := 2) (by decide) hn
    omega
  have mask : (BitVec.ofNat 32 (2 ^ n - 1)).getLsbD j = decide (j < n) := by
    rw [BitVec.getLsbD, BitVec.toNat_ofNat, Nat.mod_eq_of_lt small, Nat.testBit_two_pow_sub_one]
  rw [lowBits, BitVec.getLsbD_and, mask, Bool.and_comm]

/-- Above its `n` bits a word of `signBits` repeats the highest of them. -/
theorem getLsbD_signBits (v : W32) {n j : Nat} (hpos : 0 < n) (hn : n ≤ 32) (hj : j < 32) :
    (signBits v n).getLsbD j = v.getLsbD (if j < n then j else n - 1) := by
  rw [signBits, BitVec.getLsbD_sshiftRight, BitVec.msb_eq_getLsbD_last]
  have here : decide (32 ≤ j) = false := by simpa using hj
  by_cases low : j < n
  · have inside : 32 - n + j < 32 := by omega
    simp [inside, low, hj]
  · have outside : ¬ 32 - n + j < 32 := by omega
    have top : 32 - 1 - (32 - n) = n - 1 := by omega
    have above : ¬ (32 - 1 < 32 - n) := by omega
    simp only [here, outside, low, above, top, if_false, BitVec.getLsbD_shiftLeft, Bool.not_false, Bool.true_and,
      decide_false, decide_true, show (32 - 1 < 32) by decide]

/-- A received word without companding: its bits, and above them zeros or copies of the highest (R747). -/
theorem getLsbD_rxBits (sign : Bool) (v free : W32) {n j : Nat} (hpos : 0 < n) (hn : n ≤ 32) (hj : j < 32) :
    (rxBits none sign n v free).getLsbD j = if j < n then v.getLsbD j else sign && v.getLsbD (n - 1) := by
  cases sign with
  | false => simp [rxBits, getLsbD_lowBits v hn]
  | true =>
    simp only [rxBits, if_true, getLsbD_signBits _ hpos hn hj, Bool.true_and]
    by_cases low : j < n
    · rw [if_pos low, if_pos low, getLsbD_lowBits v hn, decide_eq_true low, Bool.true_and]
    · have top : n - 1 < n := by omega
      rw [if_neg low, if_neg low, getLsbD_lowBits v hn, decide_eq_true top, Bool.true_and]

/-- A serial word has from 1 to 32 bits. -/
theorem wordLen_bounds (ctl : W32) : 0 < wordLen ctl ∧ wordLen ctl ≤ 32 := by
  have := (ctl.extractLsb' 4 5).isLt
  simp only [wordLen]
  omega

/-! ### The channels and the ports -/

theorem State.mapChan_chan_self (c : Fin 14) (f : Channel → Channel) : (s.mapChan c f).iop.chan[c] = f s.iop.chan[c] := by
  simp

theorem State.mapSport_sport_self (x : Fin 2) (f : Sport → Sport) :
    (s.mapSport x f).iop.sport[x] = f s.iop.sport[x] := by
  simp [State.mapSport]

theorem State.mapChan_sport (c : Fin 14) (f : Channel → Channel) : (s.mapChan c f).iop.sport = s.iop.sport := rfl

theorem State.mapSport_chan (x : Fin 2) (f : Sport → Sport) : (s.mapSport x f).iop.chan = s.iop.chan := rfl

/-- The word that `dequeue` takes is the oldest. -/
theorem State.dequeue_queue {c : Fin 14} {v : W64} {q : List W64} (h : s.iop.chan[c].queue = v :: q) :
    (s.dequeue c v).iop.chan[c].queue = q := by
  rw [State.dequeue, State.mapChan_chan_self, h, List.tail_cons]

/-- What is known of a word that arrives at a link port. -/
theorem State.linkArrived_eq_ok {b : Fin 6} {w : W48} : s.linkArrived b w = .ok t ↔
    (s.linkRoom b = true ∧ s.linkLooped b = false) ∧
    (s.enqueue (lkChan b) (if (s.linkGroup b).getLsbD 4 then w.setWidth 64 else (w.setWidth 32).setWidth 64)).setLrerr b false
      = t := by
  simp [State.linkArrived, offered_bind, and_assoc]

theorem State.linkTaken_eq_ok {b : Fin 6} : s.linkTaken b = .ok t →
    ∃ v q, s.iop.chan[lkChan b].queue = v :: q ∧
      t = (s.dequeue (lkChan b) v).output (.linkWord (s.linkPort b).toNat (v.setWidth 48)) := by
  intro h
  obtain ⟨-, h⟩ := offered_bind.1 h
  split at h
  next v q hq => exact ⟨v, q, hq, by cases h; rfl⟩
  next => cases h

/-- Without packing and companding a received word goes to the buffer as it is (R746). -/
theorem State.sportReceived_eq_ok {x : Fin 2} {v : W32} (h : s.sportReceived x v = .ok t)
    (pack : s.iop.sport[x].srctl.getLsbD 9 = false) (law : s.iop.sport[x].srctl.getLsbD 2 = false) :
    t = s.rxAppend x (rxBits none (s.iop.sport[x].srctl.getLsbD 1) (wordLen s.iop.sport[x].srctl) v (s.free 9)) := by
  obtain ⟨-, h⟩ := offered_bind.1 h
  cases h
  simp only [State.rxPlain, State.rxWord, lawOf, pack, law, Bool.false_eq_true, if_false]

/-- A word goes into the receive buffer, in place of the newest one of a full buffer, which sets ROVF (R746). -/
theorem State.rxAppend_buffer (x : Fin 2) (w : W32) :
    (s.rxAppend x w).iop.chan[rxChan x].queue =
      (if s.iop.chan[rxChan x].queue.length < 2 then s.iop.chan[rxChan x].queue
        else s.iop.chan[rxChan x].queue.dropLast) ++ [w.setWidth 64] ∧
    (s.rxAppend x w).iop.sport[x] = { s.iop.sport[x] with
      rovf := s.iop.sport[x].rovf || !decide (s.iop.chan[rxChan x].queue.length < 2) } ∧
    (s.rxAppend x w).mem = s.mem := by
  unfold State.rxAppend
  dsimp only
  simp only [State.occurIf_iop, State.occurIf_mem]
  by_cases room : s.iop.chan[rxChan x].queue.length < 2
  · simp only [if_pos room, State.enqueue, State.mapChan_chan_self, State.mapChan_sport, decide_eq_true room, Bool.not_true,
      Bool.or_false, State.mapChan_mem]
    exact ⟨trivial, trivial, trivial⟩
  · simp only [if_neg room, State.mapSport_chan, State.mapChan_chan_self, State.mapSport_sport_self, State.mapChan_sport,
      decide_eq_false room, Bool.not_false, Bool.or_true, State.mapSport_mem, State.mapChan_mem]
    exact ⟨trivial, trivial, trivial⟩

/-- Without packing and companding the oldest word of the transmit buffer leaves (R745). -/
theorem State.txWord_eq_ok {x : Fin 2} {w : W32} (h : s.txWord x (lawOf s.iop.sport[x].stctl) = .ok (w, t))
    (pack : s.iop.sport[x].stctl.getLsbD 9 = false) (law : s.iop.sport[x].stctl.getLsbD 2 = false) :
    ∃ v q, s.iop.chan[txChan x].queue = v :: q ∧ t.iop.chan[txChan x].queue = q ∧ t.outputs = s.outputs ∧
      w = lowBits (v.setWidth 32) (wordLen s.iop.sport[x].stctl) := by
  simp only [State.txWord, lawOf, pack, law, Bool.false_eq_true, if_false] at h
  split at h
  next => cases h
  next v q hq =>
    cases h
    refine ⟨v, q, hq, ?_, ?_, rfl⟩
    · rw [State.occurIf_iop, State.mapSport_chan]
      exact State.dequeue_queue hq
    · simp

/-- Settles O57. -/
theorem linkWords : Obligations.LinkWords := by
  refine ⟨fun s t b w => ⟨fun h => ?_, fun h => ?_⟩, fun s t x v => ?_, fun s t x => ?_⟩
  · have kept := linkArrived_outside b w t h
    obtain ⟨⟨room, -⟩, rfl⟩ := State.linkArrived_eq_ok.1 h
    simp only [State.linkRoom, Bool.and_eq_true, decide_eq_true_eq] at room
    have cut : w.setWidth 32 = w.extractLsb' 0 32 := by ext; simp
    refine ⟨?_, room.2, rfl, kept.x, kept.y⟩
    rw [cut]
    simp [State.setLrerr, State.mapIop, State.enqueue]
  · obtain ⟨v, q, hq, rfl⟩ := State.linkTaken_eq_ok h
    exact ⟨v, q, hq, State.dequeue_queue hq, rfl⟩
  · intro p q n h pack law
    have kept := sportReceived_outside x v t h
    obtain rfl := State.sportReceived_eq_ok h pack law
    obtain ⟨pos, le⟩ := wordLen_bounds p.srctl
    obtain ⟨queue, port, mem⟩ := State.rxAppend_buffer (s := s) x (rxBits none (p.srctl.getLsbD 1) (wordLen p.srctl) v (s.free 9))
    exact ⟨_, fun j hj => getLsbD_rxBits _ _ _ pos le hj, queue, port, mem, kept.x, kept.y⟩
  · intro p n h alone pack law
    obtain ⟨-, h⟩ := offered_bind.1 h
    obtain ⟨⟨w, u⟩, sent, h⟩ := Run.bind_eq_ok.1 h
    obtain ⟨v, q, hq, rest, out, rfl⟩ := State.txWord_eq_ok sent pack law
    have loop : (p.srctl.getLsbD 22 && p.rxOn) = false := by rw [alone, Bool.false_and]
    simp only [show s.iop.sport[x] = p from rfl, loop, Bool.false_eq_true, if_false] at h
    cases h
    refine ⟨v, q, _, hq, rest, congrArg _ out, fun j hj => ?_⟩
    rw [getLsbD_lowBits _ (wordLen_bounds _).2]
    simp [n, p, wordLen, hj]

end Sys2Proof.Machine
end

section
/-!
PROOF. The end of a block of a DMA channel, and an internal transfer (DmaTransfer; 61_io_devices.md R688, R690, R699 to R701).
-/
namespace Sys2Proof.Machine

variable {s t u : State}

/-! ### What the control bits of a channel depend on -/

/-- What the control bits of the channels are read from is as before; of the words' width only the words of an external port
channel depend on more (61_io_devices.md R681, R684, R690). -/
structure SameControl (s t : State) : Prop where
  sport : t.iop.sport = s.iop.sport
  lctl0 : t.iop.lctl0 = s.iop.lctl0
  lctl1 : t.iop.lctl1 = s.iop.lctl1
  dmac : t.iop.dmac = s.iop.dmac
  seq : t.seq = s.seq
  pins : t.pins = s.pins

namespace SameControl

theorem refl (s : State) : SameControl s s := ⟨rfl, rfl, rfl, rfl, rfl, rfl⟩

theorem mapChan (h : SameControl s t) (c : Fin 14) (f : Channel → Channel) : SameControl s (t.mapChan c f) := { h with }

theorem mem (h : SameControl s t) (m : Mem) : SameControl s { t with mem := m } := { h with }

theorem rotate (h : SameControl s t) (c : Fin 14) : SameControl s (t.mapIop fun i => i.rotate c) := by
  have kept (i : Iop) : (i.rotate c).sport = i.sport ∧ (i.rotate c).lctl0 = i.lctl0 ∧ (i.rotate c).lctl1 = i.lctl1 ∧
      (i.rotate c).dmac = i.dmac := by
    unfold Iop.rotate
    split
    · exact ⟨rfl, rfl, rfl, rfl⟩
    · split <;> exact ⟨rfl, rfl, rfl, rfl⟩
  obtain ⟨sport, lctl0, lctl1, dmac⟩ := kept t.iop
  exact ⟨sport.trans h.sport, lctl0.trans h.lctl0, lctl1.trans h.lctl1, dmac.trans h.dmac, h.seq, h.pins⟩

theorem touchExt (h : SameControl s t) (a : W32) : SameControl s (t.touchExt a) := by
  unfold State.touchExt
  split
  · exact { h with }
  · exact h

/-- The control bits but for the width of the words. -/
theorem ctl (h : SameControl s t) (c : Fin 14) : t.ctl c = { s.ctl c with word48 := (t.ctl c).word48 } := by
  have group (b : Fin 6) : t.linkGroup b = s.linkGroup b := by
    simp only [State.linkGroup, State.groupOf, State.linkBoot, h.lctl0, h.lctl1, h.seq, h.pins]
    rfl
  unfold State.ctl
  rw [h.sport, h.dmac]
  dsimp only
  split
  · rfl
  · split
    · rfl
    · split
      · simp only [group]
      · rfl

theorem chen (h : SameControl s t) (c : Fin 14) : (t.ctl c).chen = (s.ctl c).chen := by rw [h.ctl]

theorem den (h : SameControl s t) (c : Fin 14) : (t.ctl c).den = (s.ctl c).den := by rw [h.ctl]

theorem tran (h : SameControl s t) (c : Fin 14) : (t.ctl c).tran = (s.ctl c).tran := by rw [h.ctl]

theorem twoD (h : SameControl s t) (c : Fin 14) : (t.ctl c).twoD = (s.ctl c).twoD := by rw [h.ctl]

theorem ehm (h : SameControl s t) (n : Fin 4) : t.ehm n = s.ehm n := by simp only [State.ehm, h.dmac]

theorem bootChannel (h : SameControl s t) (c : Fin 14) : t.bootChannel c = s.bootChannel c := by
  simp only [State.bootChannel, h.seq, h.pins]

/-- The last block is the same if the chain pointer is. -/
theorem lastBlock (h : SameControl s t) {c : Fin 14} (cp : t.iop.chan[c].cp = s.iop.chan[c].cp) :
    t.lastBlock c = s.lastBlock c := by
  simp only [State.lastBlock, h.chen, h.den, cp]

end SameControl

/-! ### The end of a block -/

/-- A channel whose block ends: the last block leaves it inactive, another one asks for the next control block
(61_io_devices.md R699, R700). -/
def Channel.ended (h : Channel) (last : Bool) : Channel :=
  if last then { h with active := false, chainStatus := false } else { h with chainPending := true }

/-- Outside the external-handshake mode a block asks for its interrupt if it is the last one or PCI says so
(61_io_devices.md R699). -/
theorem State.complete_eq {c : Fin 14} (outer : ∀ n, epOf c = some n → s.ehm n ≠ 6) :
    s.complete c = (s.mapChan c fun h => h.ended (s.lastBlock c)).occurIf
      (s.lastBlock c || s.iop.chan[c].cp.getLsbD 18) (chanIrq c) := by
  have last : s.lastBlock c = ((!(s.ctl c).chen || !(s.ctl c).den) || s.iop.chan[c].cp.extractLsb' 0 18 == 0) := rfl
  unfold State.complete
  dsimp only
  split
  next off => simp only [last, off, Bool.true_or, Channel.ended, if_true, State.occurIf]
  next on =>
    rw [Bool.not_eq_true] at on
    rw [on, Bool.false_or] at last
    split
    next zero => simp only [last, zero, Bool.true_or, Channel.ended, if_true, State.occurIf]
    next more =>
      rw [Bool.not_eq_true] at more
      simp only [last, more, Bool.false_or, Channel.ended, Bool.false_eq_true, if_false]
      refine congrArg (State.occurIf _ · _) ((congrArg _ ?_).trans (Bool.or_false _))
      split
      next n hn => simpa using outer n hn
      next => rfl

/-- A request touches the latches only. -/
theorem State.occurIf_rest (s : State) (b : Bool) (k : Irq) : s.occurIf b k =
    { s with reg := { s.reg with irptl := (s.occurIf b k).reg.irptl, lirptl := (s.occurIf b k).reg.lirptl } } := by
  unfold State.occurIf
  split
  · exact s.occur_rest k
  · rfl

/-- A request latches an interrupt that is not in service. -/
theorem State.latched_occurIf {b : Bool} {k : Irq} (hb : b = true) (free : s.inService k = false) :
    (s.occurIf b k).latched k = true := by
  rw [State.occurIf, if_pos hb, State.latched_occur, if_pos rfl, State.holds, free]
  simp

/-- What comes after a transfer: the end of the block, or nothing. -/
def State.settle (u : State) (c : Fin 14) (ended : Bool) : State := if ended then u.complete c else u

section
variable {c : Fin 14} (outer : ∀ n, epOf c = some n → u.ehm n ≠ 6)
include outer

theorem State.settle_mem (ended : Bool) : (u.settle c ended).mem = u.mem := by
  unfold State.settle
  split
  · rw [State.complete_eq outer, State.occurIf_mem, State.mapChan_mem]
  · rfl

/-- Of the channel itself the end of its block changes the state of the sequence only. -/
theorem State.settle_chan (ended : Bool) :
    (u.settle c ended).iop.chan[c] = if ended then u.iop.chan[c].ended (u.lastBlock c) else u.iop.chan[c] := by
  cases ended with
  | false => rfl
  | true =>
    show (u.complete c).iop.chan[c] = _
    simp only [State.complete_eq outer, State.occurIf_iop, State.mapChan_chan_self, if_true]

/-- Index, count, rows, external registers and buffer stay at the end of a block. -/
theorem State.settle_chan_rest (ended : Bool) : ∃ active status pending, (u.settle c ended).iop.chan[c] =
    { u.iop.chan[c] with active := active, chainStatus := status, chainPending := pending } := by
  rw [State.settle_chan outer]
  cases ended with
  | false => exact ⟨_, _, _, rfl⟩
  | true => cases last : u.lastBlock c <;> exact ⟨_, _, _, rfl⟩

/-- The end of a block after a transfer that left the channel's sequence and the registers alone (R699, R700). -/
theorem State.settle_blockEnded (ended : Bool) (same : SameControl s u) (reg : u.reg = s.reg)
    (active : u.iop.chan[c].active = s.iop.chan[c].active)
    (pending : u.iop.chan[c].chainPending = s.iop.chan[c].chainPending) (cp : u.iop.chan[c].cp = s.iop.chan[c].cp) :
    s.BlockEnded (u.settle c ended) c ended (s.iop.chan[c].cp.getLsbD 18) := by
  have last : u.lastBlock c = s.lastBlock c := same.lastBlock cp
  have chan := State.settle_chan outer ended
  cases ended with
  | false =>
    refine ⟨?_, ?_, fun h => by simp at h, ?_, fun _ => reg⟩
    · rw [chan]; simpa using active
    · rw [chan]; simpa using pending
    · show u.reg = { s.reg with irptl := u.reg.irptl, lirptl := u.reg.lirptl }
      rw [reg]
  | true =>
    have settled : u.settle c true = (u.mapChan c fun h => h.ended (s.lastBlock c)).occurIf
        (s.lastBlock c || s.iop.chan[c].cp.getLsbD 18) (chanIrq c) := by
      rw [State.settle, if_pos rfl, State.complete_eq outer, last, cp]
    simp only [if_true, last] at chan
    have service : (u.mapChan c fun h => h.ended (s.lastBlock c)).inService (chanIrq c) = s.inService (chanIrq c) :=
      State.inService_congr (congrArg SysRegs.imaskp reg) (congrArg SysRegs.lirptl reg) _
    refine ⟨?_, ?_, fun asked free => ?_, ?_, fun silent => ?_⟩
    · rw [chan, ← active]
      cases s.lastBlock c <;> simp [Channel.ended]
    · rw [chan, ← pending]
      cases s.lastBlock c <;> simp [Channel.ended]
    · rw [settled]
      exact State.latched_occurIf (by simpa using asked) (service.trans free)
    · rw [settled, State.occurIf_rest, State.mapChan_reg, reg]
    · rw [settled, State.occurIf, if_neg (by simpa using silent), State.mapChan_reg, reg]

end

/-! ### An internal transfer -/

/-- The registers of a channel after an internal transfer, and whether the last row ended (61_io_devices.md R688, R701). -/
def Channel.stepped (h : Channel) (twoD boot : Bool) : Channel × Bool :=
  if twoD then h.step2 else (h.step1 boot, false)

/-- A transfer moves the index, the count and the number of rows only. -/
theorem Channel.stepped_rest (h : Channel) (twoD boot : Bool) :
    (h.stepped twoD boot).1 = { h with
      ii := (h.stepped twoD boot).1.ii, c := (h.stepped twoD boot).1.c, gp := (h.stepped twoD boot).1.gp, begun := true } := by
  cases twoD with
  | false => rfl
  | true =>
    simp only [Channel.stepped, if_true, Channel.step2]
    split <;> rfl

/-- A count that goes down to zero was one. -/
theorem sub_one_beq_zero {w : Nat} (v : BitVec w) : (v - 1 == 0) = (v == 1) := by
  rw [Bool.eq_iff_iff, beq_iff_eq, beq_iff_eq]
  constructor
  · intro h
    have := congrArg (· + 1) h
    simpa using this
  · rintro rfl
    simp

/-- Index, count and rows after a transfer that does not boot: on in the row, or on to the next row. -/
theorem Channel.stepped_count (h : Channel) (twoD : Bool) :
    let g := (h.stepped twoD false).1
    if twoD = true ∧ h.c = 1 then
      g.ii = h.ii + h.im.signExtend 18 + h.db.signExtend 18 ∧ g.c = h.da ∧ g.gp = h.gp - 1
    else g.ii = h.ii + h.im.signExtend 18 ∧ g.c = h.c - 1 ∧ g.gp = h.gp := by
  cases twoD with
  | false => simp [Channel.stepped, Channel.step1]
  | true =>
    simp only [Channel.stepped, if_true, Channel.step2, sub_one_beq_zero, beq_iff_eq, true_and]
    by_cases one : h.c = 1
    · simp only [one, if_true, and_self]
    · simp only [one, if_false, and_self]

/-- The last row ends with the last transfer of the last row (61_io_devices.md R701). -/
theorem Channel.stepped_row (h : Channel) (boot : Bool) : (h.stepped true boot).2 = (h.c == 1 && h.gp == 1) := by
  simp only [Channel.stepped, if_true, Channel.step2, sub_one_beq_zero]
  split
  next one => rw [one, Bool.true_and]
  next more => rw [Bool.not_eq_true] at more; rw [more, Bool.false_and]

/-- The state after the word of an internal transfer of channel `c` has moved. -/
def State.counted (s t : State) (c : Fin 14) : State :=
  (t.mapChan c fun _ => (t.iop.chan[c].stepped (s.ctl c).twoD (s.bootChannel c)).1).mapIop fun i => i.rotate c

/-- The bytes of a word in the memory (61_io_devices.md R690). -/
def State.dmaBytes (s : State) (c : Fin 14) : Nat := if (s.ctl c).word48 then 6 else 4

/-- What a word `v` of the buffer puts there. -/
def State.dmaWord (s : State) (c : Fin 14) (v : W64) : W64 :=
  if (s.ctl c).word48 then v else (narrow v (s.free 3)).setWidth 64

/-- The word `v` of the buffer taken to column `f`. -/
def State.dmaStored (s : State) (c : Fin 14) (f : Nat) (v : W64) : State :=
  { s with mem := s.mem.store (colKey f) (s.dmaBytes c) (s.dmaWord c v).toNat }.dequeue c v

/-- The word at column `f` added to the buffer. -/
def State.dmaLoaded (s : State) (c : Fin 14) (f : Nat) : State :=
  s.enqueue c (BitVec.ofNat 64 (s.mem.load (colKey f) (s.dmaBytes c)))

/-- A word of 32 bits leaves whole (61_io_devices.md R690). -/
theorem State.dmaWord_eq {c : Fin 14} {v : W64} (h : (s.ctl c).word48 = true ∨ v.extractLsb' 32 32 = 0#32) :
    s.dmaWord c v = v := by
  unfold State.dmaWord
  rcases h with wide | high
  · rw [if_pos wide]
  · split
    · rfl
    · have small : v.toNat < 2 ^ 32 := by
        have := congrArg BitVec.toNat high
        rw [BitVec.extractLsb'_toNat, Nat.shiftRight_eq_div_pow] at this
        have := v.isLt
        simp only [BitVec.toNat_ofNat, Nat.zero_mod] at *
        omega
      have zero : v >>> 32 = 0 := by
        apply BitVec.eq_of_toNat_eq
        rw [BitVec.toNat_ushiftRight, Nat.shiftRight_eq_div_pow, Nat.div_eq_of_lt small]
        rfl
      rw [narrow, if_pos (beq_iff_eq.2 zero)]
      apply BitVec.eq_of_toNat_eq
      rw [BitVec.toNat_setWidth, BitVec.toNat_setWidth, Nat.mod_eq_of_lt small]
      exact Nat.mod_eq_of_lt v.isLt

/-- A transfer is its word's move, the count and the end of the block (61_io_devices.md R688). -/
theorem State.dmaMove_eq_ok {c : Fin 14} {f : Nat} (col : dmaCol (s.ctl c).word48 s.iop.chan[c].ii = .ok f)
    (run : s.dmaMove c = .ok t) :
    ∃ moved : State,
      (((s.ctl c).tran = true ∧ moved = s.dmaLoaded c f) ∨
        ((s.ctl c).tran = false ∧ ∃ v q, s.iop.chan[c].queue = v :: q ∧ moved = s.dmaStored c f v)) ∧
      t = (s.counted moved c).settle c
        ((s.counted moved c).moveDone c (moved.iop.chan[c].stepped (s.ctl c).twoD (s.bootChannel c)).2) := by
  simp only [State.dmaMove, col, Run.ok_bind] at run
  split at run
  next sends => exact ⟨s.dmaLoaded c f, .inl ⟨sends, rfl⟩, (Except.ok.inj run).symm⟩
  next receives =>
    split at run
    next => cases run
    next v q hq => exact ⟨s.dmaStored c f v, .inr ⟨by simpa using receives, v, q, hq, rfl⟩, (Except.ok.inj run).symm⟩

/-- An internal transfer moves the word and the counts, and nothing else that the end of the block reads. -/
theorem State.counted_chan (moved : State) (c : Fin 14) :
    (s.counted moved c).iop.chan[c] = (moved.iop.chan[c].stepped (s.ctl c).twoD (s.bootChannel c)).1 := by
  have kept (i : Iop) : (i.rotate c).chan = i.chan := by
    unfold Iop.rotate
    split
    · rfl
    · split <;> rfl
  simp only [State.counted, State.mapIop, kept]
  exact State.mapChan_chan_self c _

/-- The last transfer of a block of a slave-mode or an internal channel (61_io_devices.md R700, R701). -/
theorem State.moveDone_counted {moved : State} {c : Fin 14} (same : SameControl s (s.counted moved c))
    (mode : ∀ n, epOf c = some n → s.ehm n ≠ 1 ∧ s.ehm n ≠ 3) :
    (s.counted moved c).moveDone c (moved.iop.chan[c].stepped (s.ctl c).twoD (s.bootChannel c)).2 =
      (moved.iop.chan[c].c == 1 && (!(s.ctl c).twoD || moved.iop.chan[c].gp == 1)) := by
  have flat (one : (s.ctl c).twoD = false) :
      ((s.counted moved c).iop.chan[c].c == 0) = (moved.iop.chan[c].c == 1) := by
    rw [State.counted_chan, one]
    exact sub_one_beq_zero _
  unfold State.moveDone
  split
  next n hn =>
    obtain ⟨not1, not3⟩ := mode n hn
    have one : (s.ctl c).twoD = false := by
      unfold epOf at hn
      unfold State.ctl
      split at hn
      next high => rw [if_neg (by omega), if_neg (by omega), if_neg (by omega)]
      next => cases hn
    simp only [same.ehm, not1, not3, beq_iff_eq, Bool.or_eq_true, or_self, if_false, flat one, one, Bool.not_false,
      Bool.true_or, Bool.and_true]
  next =>
    rw [same.twoD]
    cases two : (s.ctl c).twoD with
    | false => simp only [Bool.false_eq_true, if_false, flat two, Bool.not_false, Bool.true_or, Bool.and_true]
    | true => simp [Channel.stepped_row]

/-- Settles O56: the word moves, the count goes on, and the block ends where it was the last transfer. -/
theorem dmaTransfer : Obligations.DmaTransfer := by
  intro s t c f boot mode col run h g n
  have kept := dmaMove_outside c t run
  obtain ⟨moved, word, result⟩ := State.dmaMove_eq_ok col run
  have moves : SameControl s moved ∧ moved.reg = s.reg ∧
      ∃ q l, moved.iop.chan[c] = { h with queue := q, last := l } := by
    rcases word with ⟨-, rfl⟩ | ⟨-, v, q, hq, rfl⟩
    · exact ⟨(SameControl.refl s).mapChan c fun h => _, rfl, _, _, State.mapChan_chan_self _ _⟩
    · exact ⟨((SameControl.refl s).mem _).mapChan c fun h => _, rfl, _, _, State.mapChan_chan_self _ _⟩
  obtain ⟨control, reg, q', l', chan⟩ := moves
  have same : SameControl s (s.counted moved c) := (control.mapChan _ _).rotate _
  have done := State.moveDone_counted same fun n hn => ⟨(mode n hn).1, (mode n hn).2.1⟩
  have outer : ∀ n, epOf c = some n → (s.counted moved c).ehm n ≠ 6 := fun n hn => same.ehm n ▸ (mode n hn).2.2
  have count := Channel.stepped_count moved.iop.chan[c] (s.ctl c).twoD
  have rest := Channel.stepped_rest moved.iop.chan[c] (s.ctl c).twoD false
  have counted : (s.counted moved c).iop.chan[c] = (moved.iop.chan[c].stepped (s.ctl c).twoD false).1 := by
    rw [State.counted_chan, boot]
  rw [← counted] at count rest
  rw [chan] at count rest
  rw [done, chan] at result
  have ended := State.settle_blockEnded outer (h.c == 1 && (!(s.ctl c).twoD || h.gp == 1)) same reg
    (by rw [rest]) (by rw [rest]) (by rw [rest])
  obtain ⟨a, b, d, settled⟩ := State.settle_chan_rest outer (h.c == 1 && (!(s.ctl c).twoD || h.gp == 1))
  have memory := State.settle_mem outer (h.c == 1 && (!(s.ctl c).twoD || h.gp == 1))
  rw [← result] at ended memory
  have result : g = { (s.counted moved c).iop.chan[c] with active := a, chainStatus := b, chainPending := d } := by
    simp only [g, result, settled]
  have queue : g.queue = q' := by rw [result, rest]
  refine ⟨?_, ended, fun sends => ?_, fun receives => ?_, ⟨kept.x, kept.y⟩, ⟨kept.dag, kept.dagAlt⟩, kept.seq⟩
  · rw [result]
    exact count
  · rcases word with ⟨-, rfl⟩ | ⟨receives, -⟩
    · refine ⟨memory, queue.trans ?_⟩
      have := congrArg Channel.queue chan
      rw [State.dmaLoaded, State.enqueue, State.mapChan_chan_self] at this
      exact this.symm
    · simp [sends] at receives
  · rcases word with ⟨sends, -⟩ | ⟨-, v, q, hq, rfl⟩
    · simp [sends] at receives
    · refine ⟨v, q, hq, queue.trans ?_, fun whole => memory.trans ?_⟩
      · have := congrArg Channel.queue chan
        rw [State.dmaStored, State.dequeue_queue (q := q)] at this
        · exact this.symm
        · exact hq
      · show s.mem.store _ _ (s.dmaWord c v).toNat = _
        rw [State.dmaWord_eq whole]
        rfl

end Sys2Proof.Machine
end

section
/-!
PROOF. An external transfer of a master-mode channel of the external port (ExternalTransfer; 61_io_devices.md R691, R699, R700).
-/
namespace Sys2Proof.Machine

variable {s t u : State}

/-! ### Two words of memory in one -/

theorem Mem.load_lt (m : Mem) (k n : Nat) : m.load k n < 256 ^ n := by
  induction n generalizing k with
  | zero => simp [Mem.load]
  | succ n ih =>
    have := ih (k + 1)
    have := (m.byte k).isLt
    rw [Mem.load, pow_succ]
    omega

/-- Bytes loaded in two parts. -/
theorem Mem.load_add (m : Mem) (k a b : Nat) : m.load k (a + b) = m.load k a + 256 ^ a * m.load (k + a) b := by
  induction a generalizing k with
  | zero => simp [Mem.load]
  | succ a ih =>
    rw [Nat.add_right_comm, Mem.load, Mem.load, ih, show k + 1 + a = k + (a + 1) by omega, pow_succ]
    ring

/-- The low word of a pair is the one at the even address. -/
theorem Mem.load_pair_low (m : Mem) (k : Nat) :
    BitVec.ofNat 64 (m.load k 8) &&& 0xFFFFFFFF = BitVec.ofNat 64 (m.load k 4) := by
  have split : m.load k 8 = m.load k 4 + 256 ^ 4 * m.load (k + 4) 4 := m.load_add k 4 4
  have low := m.load_lt k 4
  have high := m.load_lt (k + 4) 4
  apply BitVec.eq_of_toNat_eq
  rw [BitVec.toNat_and, show (0xFFFFFFFF : W64).toNat = 2 ^ 32 - 1 from rfl, Nat.and_two_pow_sub_one_eq_mod]
  simp only [BitVec.toNat_ofNat]
  omega

/-- The high word of a pair is the one after it. -/
theorem Mem.load_pair_high (m : Mem) (k : Nat) :
    BitVec.ofNat 64 (m.load k 8) >>> 32 = BitVec.ofNat 64 (m.load (k + 4) 4) := by
  have split : m.load k 8 = m.load k 4 + 256 ^ 4 * m.load (k + 4) 4 := m.load_add k 4 4
  have low := m.load_lt k 4
  have high := m.load_lt (k + 4) 4
  apply BitVec.eq_of_toNat_eq
  rw [BitVec.toNat_ushiftRight, Nat.shiftRight_eq_div_pow]
  simp only [BitVec.toNat_ofNat]
  omega

/-! ### The channels of the external port -/

theorem epOf_epChan (n : Fin 4) : epOf (epChan n) = some n := by
  revert n
  decide

/-- The direction of an external port channel is bit 2 of its DMACx (61_io_devices.md R684). -/
theorem State.tran_epChan (n : Fin 4) : (s.ctl (epChan n)).tran = s.iop.dmac[n].getLsbD 2 := by
  have back : Fin.ofNat 4 ((epChan n).val - 10) = n ∧ 10 ≤ (epChan n).val := by
    revert n
    decide
  unfold State.ctl
  rw [if_neg (by omega), if_neg (by omega), if_neg (by omega)]
  simp only [back.1]

theorem State.touchExt_mem (a : W32) : (s.touchExt a).mem = s.mem := by
  unfold State.touchExt
  split <;> rfl

theorem State.touchExt_reg (a : W32) : (s.touchExt a).reg = s.reg := by
  unfold State.touchExt
  split <;> rfl

theorem State.touchExt_chan (a : W32) : (s.touchExt a).iop.chan = s.iop.chan := by
  unfold State.touchExt
  split <;> rfl

/-! ### Accesses of ordinary external memory -/

/-- Addresses above the multiprocessor space are external memory (20_memory.md R120). -/
theorem target_of_ext {id : BitVec 3} {a : W32} (ha : a.extractLsb' 23 9 ≠ 0) : target id a = .ext := by
  rw [target, if_pos (bne_iff_ne.2 ha)]

theorem State.dmaReach_ext {a : W32} {read : Bool} {r : Reach} (ha : a.extractLsb' 23 9 ≠ 0)
    (h : s.dmaReach a read = .ok r) : r = .memory := by
  simp only [State.dmaReach, target_of_ext ha] at h
  obtain ⟨_, -, h⟩ := Run.bind_eq_ok.1 h
  exact (Except.ok.inj h).symm

theorem State.extLoad_ext {a : W32} {bytes : Nat} {p : W64 × State} (ha : a.extractLsb' 23 9 ≠ 0)
    (h : s.extLoad a bytes = .ok p) : p = (BitVec.ofNat 64 (s.mem.load (extKey a) bytes), s.touchExt a) := by
  obtain ⟨r, reach, h⟩ := Run.bind_eq_ok.1 h
  obtain rfl := State.dmaReach_ext ha reach
  exact (Except.ok.inj h).symm

theorem State.extStore_ext {a : W32} {bytes : Nat} {v : W64} (ha : a.extractLsb' 23 9 ≠ 0)
    (h : s.extStore a bytes v = .ok t) :
    t = { s with mem := s.mem.store (extKey a) bytes v.toNat }.touchExt a := by
  obtain ⟨r, reach, h⟩ := Run.bind_eq_ok.1 h
  obtain rfl := State.dmaReach_ext ha reach
  exact (Except.ok.inj h).symm

/-- Without boot select no transfer goes to boot memory (61_io_devices.md R697). -/
theorem State.bootSelected_eq_false {n : Fin 4} (h : s.iop.syscon.getLsbD 1 = false) : s.bootSelected n = false := by
  rw [State.bootSelected, h, Bool.false_and]

/-! ### The word of an unpacked transfer -/

/-- The transfer takes two words at once (61_io_devices.md R691, Table 6-5; log 86). -/
def State.takesPair (s : State) (n : Fin 4) : Prop :=
  let h := s.iop.chan[epChan n]
  h.ei.getLsbD 0 = false ∧ (h.em = 0 ∨ h.em = 1) ∧ 2 ≤ h.ec.toNat ∧
    2 ≤ (if s.iop.dmac[n].getLsbD 2 then h.queue.length else 8 - h.queue.length)


/-- The states that an unpacked transfer of 32-bit words moves on from. -/
structure Unpacked (s : State) (n : Fin 4) : Prop where
  pmode : s.pmode n = 0
  narrow : s.iop.dmac[n].getLsbD 5 = false
  ext : s.iop.chan[epChan n].ei.extractLsb' 23 9 ≠ 0

namespace Unpacked

variable {n : Fin 4} (h : Unpacked s n)
include h

theorem extSize_pair (two : s.takesPair n) : s.extSize n = .ok .pair := by
  obtain ⟨even, em, ec, depth⟩ := two
  have many : (!s.iop.chan[epChan n].ei.getLsbD 0 && (s.iop.chan[epChan n].em == 0 || s.iop.chan[epChan n].em == 1) &&
      decide (2 ≤ s.iop.chan[epChan n].ec.toNat) && decide (2 ≤ (if s.iop.dmac[n].getLsbD 2 then
        s.iop.chan[epChan n].queue.length else 8 - s.iop.chan[epChan n].queue.length))) = true := by
    simp only [even, ec, depth, decide_true, Bool.not_false, Bool.and_true, Bool.true_and, Bool.or_eq_true, beq_iff_eq]
    exact em
  simp only [State.extSize, h.pmode, h.narrow]
  exact congrArg (fun b : Bool => (.ok (if b then .pair else .single) : Run ExtSize)) many

theorem extSize_single (one : ¬ s.takesPair n) : s.extSize n = .ok .single := by
  have few : (!s.iop.chan[epChan n].ei.getLsbD 0 && (s.iop.chan[epChan n].em == 0 || s.iop.chan[epChan n].em == 1) &&
      decide (2 ≤ s.iop.chan[epChan n].ec.toNat) && decide (2 ≤ (if s.iop.dmac[n].getLsbD 2 then
        s.iop.chan[epChan n].queue.length else 8 - s.iop.chan[epChan n].queue.length))) = false := by
    rw [Bool.eq_false_iff]
    intro many
    simp only [Bool.and_eq_true, Bool.not_eq_true', Bool.or_eq_true, beq_iff_eq, decide_eq_true_eq] at many
    obtain ⟨⟨⟨even, em⟩, ec⟩, depth⟩ := many
    exact one ⟨even, em, ec, depth⟩
  simp only [State.extSize, h.pmode, h.narrow]
  exact congrArg (fun b : Bool => (.ok (if b then .pair else .single) : Run ExtSize)) few

/-- The words received: two from an even address, or one. -/
theorem extReceive_eq {moved : State} {z : W32} (run : s.extReceive n = .ok (moved, z)) :
    (s.takesPair n ∧ z = 2 ∧ moved = ((s.touchExt s.iop.chan[epChan n].ei).enqueue (epChan n)
        (BitVec.ofNat 64 (s.mem.load (extKey s.iop.chan[epChan n].ei) 4))).enqueue (epChan n)
        (BitVec.ofNat 64 (s.mem.load (extKey s.iop.chan[epChan n].ei + 4) 4))) ∨
    (¬ s.takesPair n ∧ z = 1 ∧ moved = (s.touchExt s.iop.chan[epChan n].ei).enqueue (epChan n)
        (BitVec.ofNat 64 (s.mem.load (extKey s.iop.chan[epChan n].ei) 4))) := by
  by_cases two : s.takesPair n
  · simp only [State.extReceive, h.extSize_pair two, Run.ok_bind] at run
    obtain ⟨q, load, run⟩ := Run.bind_eq_ok.1 run
    obtain rfl := State.extLoad_ext h.ext load
    rw [← Mem.load_pair_low, ← Mem.load_pair_high]
    obtain ⟨word, count⟩ := Prod.mk.inj (Except.ok.inj run)
    exact .inl ⟨two, count.symm, word.symm⟩
  · simp only [State.extReceive, h.extSize_single two, Run.ok_bind] at run
    obtain ⟨q, load, run⟩ := Run.bind_eq_ok.1 run
    obtain rfl := State.extLoad_ext h.ext load
    simp only [h.narrow, h.pmode, beq_self_eq_true, if_true, Bool.false_eq_true, if_false] at run
    obtain ⟨word, count⟩ := Prod.mk.inj (Except.ok.inj run)
    exact .inr ⟨two, count.symm, word.symm⟩

/-- The words put on the bus: the two oldest, or the oldest. -/
theorem extPiece_eq (sends : s.iop.dmac[n].getLsbD 2 = true) {v : W64} {bytes : Nat} {lane : BitVec 8} {left : Channel}
    {z : W32} (run : s.extPiece n = .ok (v, bytes, lane, left, z)) :
    (s.takesPair n ∧ z = 2 ∧ ∃ a b q, s.iop.chan[epChan n].queue = a :: b :: q ∧
      v = b.setWidth 32 ++ a.setWidth 32 ∧ bytes = 8 ∧ left = { s.iop.chan[epChan n] with queue := q, last := b }) ∨
    (¬ s.takesPair n ∧ z = 1 ∧ ∃ q, s.iop.chan[epChan n].queue = v :: q ∧
      bytes = 4 ∧ left = { s.iop.chan[epChan n] with queue := q, last := v }) := by
  by_cases two : s.takesPair n
  · obtain ⟨-, -, -, depth⟩ := id two
    rw [if_pos sends] at depth
    match hq : s.iop.chan[epChan n].queue, depth with
    | a :: b :: q, _ =>
      simp only [State.extPiece, h.extSize_pair two, Run.ok_bind, hq] at run
      cases run
      exact .inl ⟨two, rfl, a, b, q, rfl, rfl, rfl, by rw [Channel.leave, hq]; rfl⟩
  · simp only [State.extPiece, h.extSize_single two, Run.ok_bind, h.narrow, h.pmode, beq_self_eq_true, if_true,
      Bool.false_eq_true, if_false] at run
    split at run
    next w q hq =>
      cases run
      exact .inr ⟨two, rfl, q, hq, rfl, by rw [Channel.leave, hq]; rfl⟩
    next => cases run

end Unpacked

/-! ### The transfer -/

/-- The state after the word of an external transfer has moved, with the external registers counted on. -/
def State.extCounted (t : State) (n : Fin 4) (z : W32) : State := (t.extAdvance (epChan n) z).mapChan (epChan n) fun h => h

/-- A transfer in master mode is its words' move, the count and the end of the block (61_io_devices.md R691). -/
theorem State.extTransfer_eq_ok {n : Fin 4} (master : s.ehm n = 1) (boot : s.iop.syscon.getLsbD 1 = false)
    (run : s.extTransfer n = .ok t) :
    ∃ moved z, t = (moved.extCounted n z).settle (epChan n) ((moved.extCounted n z).masterDone (epChan n)) ∧
      if s.iop.dmac[n].getLsbD 2 then
        ∃ v bytes lane h, s.extPiece n = .ok (v, bytes, lane, h, z) ∧
          (s.mapChan (epChan n) fun _ => h).extStore s.iop.chan[epChan n].ei bytes v = .ok moved
      else s.extReceive n = .ok (moved, z) := by
  obtain ⟨-, run⟩ := offered_bind.1 run
  simp only [State.tran_epChan, State.bootSelected_eq_false boot, master, Bool.not_false, Bool.true_or, Bool.false_and,
    need_true, Run.ok_bind, Bool.false_eq_true, if_false, show ((1 : BitVec 3) == 3) = false from rfl] at run
  split at run
  next sends =>
    obtain ⟨⟨v, bytes, lane, h, z⟩, piece, run⟩ := Run.bind_eq_ok.1 run
    obtain ⟨moved, store, run⟩ := Run.bind_eq_ok.1 run
    refine ⟨moved, z, (Except.ok.inj run).symm, ?_⟩
    rw [if_pos sends]
    exact ⟨v, bytes, lane, h, piece, store⟩
  next receives =>
    obtain ⟨⟨moved, z⟩, word, run⟩ := Run.bind_eq_ok.1 run
    refine ⟨moved, z, (Except.ok.inj run).symm, ?_⟩
    rw [if_neg receives]
    exact word

/-- What an external transfer of `z` counts leaves that leaves the words `q` in the buffer and the memory `m`. -/
structure ExtMoved (s t : State) (n : Fin 4) (z : W32) (q : List W64) (m : Mem) : Prop where
  ei : t.iop.chan[epChan n].ei = s.iop.chan[epChan n].ei + s.iop.chan[epChan n].em * z
  ec : t.iop.chan[epChan n].ec = s.iop.chan[epChan n].ec - z
  queue : t.iop.chan[epChan n].queue = q
  mem : t.mem = m
  block : s.BlockEnded t (epChan n)
    (s.iop.chan[epChan n].c == 0 && s.iop.chan[epChan n].begun && t.iop.chan[epChan n].ec == 0 &&
      (!s.iop.dmac[n].getLsbD 2 || (t.iop.chan[epChan n].queue.isEmpty && s.iop.chan[epChan n].parts.isEmpty)))
    (s.iop.chan[epChan n].cp.getLsbD 18)

/-- Once the words have moved, the count and the end of the block follow. -/
theorem State.extMoved {moved : State} {n : Fin 4} {z : W32} {q : List W64} {l : W64} (master : s.ehm n = 1)
    (boot : s.bootChannel (epChan n) = false) (control : SameControl s moved) (reg : moved.reg = s.reg)
    (chan : moved.iop.chan[epChan n] = { s.iop.chan[epChan n] with queue := q, last := l }) :
    ExtMoved s ((moved.extCounted n z).settle (epChan n) ((moved.extCounted n z).masterDone (epChan n))) n z q moved.mem := by
  have same : SameControl s (moved.extCounted n z) := (control.mapChan _ fun h => _).mapChan _ fun h => h
  have counted : (moved.extCounted n z).iop.chan[epChan n] = { s.iop.chan[epChan n] with
      queue := q, last := l, ei := s.iop.chan[epChan n].ei + s.iop.chan[epChan n].em * z,
      ec := s.iop.chan[epChan n].ec - z } := by
    have slow : moved.bootChannel (epChan n) = false := (control.bootChannel _).trans boot
    rw [State.extCounted, State.mapChan_chan_self, State.extAdvance, State.mapChan_chan_self, chan]
    simp only [slow, Bool.false_eq_true, if_false]
  have outer : ∀ k, epOf (epChan n) = some k → (moved.extCounted n z).ehm k ≠ 6 := by
    rw [epOf_epChan]
    rintro _ ⟨⟩
    rw [same.ehm, master]
    decide
  have done : (moved.extCounted n z).masterDone (epChan n) =
      (s.iop.chan[epChan n].c == 0 && s.iop.chan[epChan n].begun && s.iop.chan[epChan n].ec - z == 0 &&
        (!s.iop.dmac[n].getLsbD 2 || (q.isEmpty && s.iop.chan[epChan n].parts.isEmpty))) := by
    simp only [State.masterDone, counted, same.tran, State.tran_epChan]
  rw [done]
  obtain ⟨a, b, d, settled⟩ := State.settle_chan_rest outer (s.iop.chan[epChan n].c == 0 && s.iop.chan[epChan n].begun &&
    s.iop.chan[epChan n].ec - z == 0 && (!s.iop.dmac[n].getLsbD 2 || (q.isEmpty && s.iop.chan[epChan n].parts.isEmpty)))
  rw [counted] at settled
  refine ⟨by rw [settled], by rw [settled], by rw [settled], State.settle_mem outer _, ?_⟩
  rw [settled]
  exact State.settle_blockEnded outer _ same reg (by rw [counted]) (by rw [counted]) (by rw [counted])

theorem State.enqueue_chan (c : Fin 14) (v : W64) :
    (s.enqueue c v).iop.chan[c] = { s.iop.chan[c] with queue := s.iop.chan[c].queue ++ [v] } :=
  State.mapChan_chan_self _ _

theorem SameControl.enqueue (h : SameControl s t) (c : Fin 14) (v : W64) : SameControl s (t.enqueue c v) := { h with }

/-- A transfer that receives. -/
theorem State.extTransfer_receives {n : Fin 4} (from32 : Unpacked s n) (master : s.ehm n = 1)
    (select : s.iop.syscon.getLsbD 1 = false) (boot : s.bootChannel (epChan n) = false)
    (dir : s.iop.dmac[n].getLsbD 2 = false) (run : s.extTransfer n = .ok t) :
    (s.takesPair n ∧ ExtMoved s t n 2 (s.iop.chan[epChan n].queue ++
      [BitVec.ofNat 64 (s.mem.load (extKey s.iop.chan[epChan n].ei) 4),
        BitVec.ofNat 64 (s.mem.load (extKey s.iop.chan[epChan n].ei + 4) 4)]) s.mem) ∨
    (¬ s.takesPair n ∧ ExtMoved s t n 1 (s.iop.chan[epChan n].queue ++
      [BitVec.ofNat 64 (s.mem.load (extKey s.iop.chan[epChan n].ei) 4)]) s.mem) := by
  obtain ⟨moved, z, rfl, word⟩ := State.extTransfer_eq_ok master select run
  rw [dir, if_neg Bool.false_ne_true] at word
  have control : SameControl s (s.touchExt s.iop.chan[epChan n].ei) := (SameControl.refl s).touchExt _
  have chan : (s.touchExt s.iop.chan[epChan n].ei).iop.chan[epChan n] = s.iop.chan[epChan n] := by
    simp only [State.touchExt_chan]
  have words := from32.extReceive_eq word
  generalize BitVec.ofNat 64 (s.mem.load (extKey s.iop.chan[epChan n].ei) 4) = v at words ⊢
  generalize BitVec.ofNat 64 (s.mem.load (extKey s.iop.chan[epChan n].ei + 4) 4) = w at words ⊢
  rcases words with ⟨two, rfl, rfl⟩ | ⟨one, rfl, rfl⟩
  · have chan : (((s.touchExt s.iop.chan[epChan n].ei).enqueue (epChan n) v).enqueue (epChan n) w).iop.chan[epChan n] =
        { s.iop.chan[epChan n] with queue := s.iop.chan[epChan n].queue ++ [v, w] } := by
      rw [State.enqueue_chan, State.enqueue_chan, chan, List.append_assoc, List.singleton_append]
    have moves := State.extMoved (z := 2) master boot ((control.enqueue _ v).enqueue _ w)
      (by rw [State.enqueue_reg, State.enqueue_reg, State.touchExt_reg]) chan
    rw [State.enqueue_mem, State.enqueue_mem, State.touchExt_mem] at moves
    exact .inl ⟨two, moves⟩
  · have chan : ((s.touchExt s.iop.chan[epChan n].ei).enqueue (epChan n) v).iop.chan[epChan n] =
        { s.iop.chan[epChan n] with queue := s.iop.chan[epChan n].queue ++ [v] } := by
      rw [State.enqueue_chan, chan]
    have moves := State.extMoved (z := 1) master boot (control.enqueue _ v)
      (by rw [State.enqueue_reg, State.touchExt_reg]) chan
    rw [State.enqueue_mem, State.touchExt_mem] at moves
    exact .inr ⟨one, moves⟩

/-- A transfer that sends. -/
theorem State.extTransfer_sends {n : Fin 4} (from32 : Unpacked s n) (master : s.ehm n = 1)
    (select : s.iop.syscon.getLsbD 1 = false) (boot : s.bootChannel (epChan n) = false)
    (dir : s.iop.dmac[n].getLsbD 2 = true) (run : s.extTransfer n = .ok t) :
    (s.takesPair n ∧ ∃ a b q, s.iop.chan[epChan n].queue = a :: b :: q ∧ ExtMoved s t n 2 q
      (s.mem.store (extKey s.iop.chan[epChan n].ei) 8 (b.setWidth 32 ++ a.setWidth 32 : W64).toNat)) ∨
    (¬ s.takesPair n ∧ ∃ a q, s.iop.chan[epChan n].queue = a :: q ∧ ExtMoved s t n 1 q
      (s.mem.store (extKey s.iop.chan[epChan n].ei) 4 a.toNat)) := by
  obtain ⟨moved, z, rfl, word⟩ := State.extTransfer_eq_ok master select run
  rw [dir, if_pos rfl] at word
  obtain ⟨v, bytes, lane, left, piece, store⟩ := word
  obtain rfl := State.extStore_ext from32.ext store
  set m := (s.mapChan (epChan n) fun _ => left).mem.store (extKey s.iop.chan[epChan n].ei) bytes v.toNat with hm
  set u : State := { s.mapChan (epChan n) fun _ => left with mem := m } with hu
  have control : SameControl s (u.touchExt s.iop.chan[epChan n].ei) :=
    (((SameControl.refl s).mapChan _ _).mem _).touchExt _
  have reg : (u.touchExt s.iop.chan[epChan n].ei).reg = s.reg := u.touchExt_reg _
  have mem : (u.touchExt s.iop.chan[epChan n].ei).mem = m := u.touchExt_mem _
  have chan : (u.touchExt s.iop.chan[epChan n].ei).iop.chan[epChan n] = left := by
    simp only [State.touchExt_chan]
    show (s.mapChan (epChan n) fun _ => left).iop.chan[epChan n] = left
    exact State.mapChan_chan_self _ _
  rcases from32.extPiece_eq dir piece with ⟨two, rfl, a, b, q, hq, rfl, rfl, rfl⟩ | ⟨one, rfl, q, hq, rfl, rfl⟩
  · have moves := State.extMoved (z := 2) master boot control reg chan
    rw [mem] at moves
    exact .inl ⟨two, a, b, q, hq, moves⟩
  · have moves := State.extMoved (z := 1) master boot control reg chan
    rw [mem] at moves
    exact .inr ⟨one, v, q, hq, moves⟩

/-- Settles O60: the words move as the size of the transfer says, and the counts and the end of the block follow. -/
theorem externalTransfer : Obligations.ExternalTransfer := by
  intro s t n c h g d master pmode narrow select boot ext run depth two k
  have kept := extTransfer_outside n t run
  have from32 : Unpacked s n := ⟨pmode, narrow, ext⟩
  have rest : s.SameData t ∧ s.SameAddresses t ∧ t.seq = s.seq := ⟨⟨kept.x, kept.y⟩, ⟨kept.dag, kept.dagAlt⟩, kept.seq⟩
  rcases Bool.eq_false_or_eq_true (d.getLsbD 2) with dir | dir
  · have away (p : d.getLsbD 2 = false) : False := Bool.false_ne_true (p.symm.trans dir)
    rcases State.extTransfer_sends from32 master select boot dir run with ⟨pair, v, w, q, hq, m⟩ | ⟨one, v, q, hq, m⟩
    · have pair : two := pair
      refine ⟨?_, fun p => (away p).elim, fun _ => ⟨v, w :: q, hq, ?_⟩, m.block, rest⟩
      · rw [if_pos pair, BitVec.mul_comm 2]
        exact ⟨m.ei, m.ec⟩
      · rw [if_pos pair]
        exact ⟨w, q, rfl, m.queue, m.mem⟩
    · have one : ¬ two := one
      refine ⟨?_, fun p => (away p).elim, fun _ => ⟨v, q, hq, ?_⟩, m.block, rest⟩
      · rw [if_neg one, ← BitVec.mul_one h.em]
        exact ⟨m.ei, m.ec⟩
      · rw [if_neg one]
        exact ⟨m.queue, m.mem⟩
  · have away (p : d.getLsbD 2 = true) : False := Bool.false_ne_true (dir.symm.trans p)
    rcases State.extTransfer_receives from32 master select boot dir run with ⟨pair, m⟩ | ⟨one, m⟩
    · have pair : two := pair
      refine ⟨?_, fun _ => ⟨m.mem, ?_⟩, fun p => (away p).elim, m.block, rest⟩
      · rw [if_pos pair, BitVec.mul_comm 2]
        exact ⟨m.ei, m.ec⟩
      · rw [if_pos pair]
        exact m.queue
    · have one : ¬ two := one
      refine ⟨?_, fun _ => ⟨m.mem, ?_⟩, fun p => (away p).elim, m.block, rest⟩
      · rw [if_neg one, ← BitVec.mul_one h.em]
        exact ⟨m.ei, m.ec⟩
      · rw [if_neg one]
        exact m.queue

end Sys2Proof.Machine
end

section
/-!
PROOF. Multifunction operations are their parts together (MultifunctionParts; 48_multifunction.md R562, R571, R574, R575).
-/
namespace Sys2Proof.Machine

/-! ### The flags of two units in one ASTAT word -/

/-- ALU flags after multiplier flags: each unit has its own, and the other bits are as before. -/
theorem putAlu_putMul (a : W32) (f : MulFlags) (g : AluFlags) :
    putAlu (putMul a f) g &&& aluMask = putAlu a g &&& aluMask ∧
    putAlu (putMul a f) g &&& mulMask = putMul a f &&& mulMask ∧
    putAlu (putMul a f) g &&& ~~~(aluMask ||| mulMask) = a &&& ~~~(aluMask ||| mulMask) := by
  have inner : mulMask = ~~~aluMask &&& mulMask := by decide
  have outer : ~~~(aluMask ||| mulMask) = ~~~aluMask &&& ~~~mulMask := by decide
  refine ⟨by rw [putAlu_and_aluMask, putAlu_and_aluMask], ?_, ?_⟩
  · rw [inner, ← BitVec.and_assoc, putAlu_outside, BitVec.and_assoc]
  · rw [outer, ← BitVec.and_assoc, putAlu_outside, BitVec.and_assoc, BitVec.and_comm (~~~aluMask), ← BitVec.and_assoc,
      putMul_outside, BitVec.and_assoc]

theorem bitAt_or (j : Nat) (a b : Bool) : bitAt j (a || b) = bitAt j a ||| bitAt j b := by
  cases a <;> cases b <;> simp [bitAt]

/-- The flags of two ALU results ORed (R571). -/
theorem putAlu_or (a : W32) (f g : AluFlags) : putAlu a (f.or g) = putAlu a f ||| putAlu a g := by
  have bits : (f.or g).bits = f.bits ||| g.bits := by
    simp only [AluFlags.bits, AluFlags.or, bitAt_or]
    ac_rfl
  rw [putAlu_eq, putAlu_eq, putAlu_eq, bits]
  ext j hj
  simp only [BitVec.getElem_or]
  grind

/-! ### The two parts -/

/-- A multifunction operation is its multiplier part and then its ALU part, which reads the registers as they were. -/
theorem computePe_parts {k m a : Compute} (c : PeIn) (h : k.parts = some (m, a)) :
    ∃ (alu : PeIn → PeOut) (f : MulFlags) (g : AluFlags), computePe k c = (computePe m c).andThen alu c ∧
      (computePe m c).astat = putMul c.astat f ∧
      computePe a c = { computePe a c with mr := none, astat := putAlu c.astat g } ∧
      ∀ d, alu d = { computePe a c with astat := putAlu d.astat g } := by
  cases k with
  | mfFix p b q =>
    cases h
    refine ⟨fun d => aluTo d q.ra (aluBin c (mfAluOp b) q.xa q.ya), ?_⟩
    cases p <;> cases b <;> exact ⟨_, _, rfl, rfl, rfl, fun d => rfl⟩
  | mfFlt b q =>
    cases h
    refine ⟨fun d => aluTo d q.ra (mfFltPe c b q), ?_⟩
    cases b <;> exact ⟨_, _, rfl, rfl, rfl, fun d => rfl⟩
  | mfDualFix rs q =>
    cases h
    exact ⟨fun d => dualTo d q.ra rs (opDualFix c.mode1 (c.fix q.xa) (c.fix q.ya)), _, _, rfl, rfl, rfl, fun d => rfl⟩
  | mfDualFlt rs q =>
    cases h
    exact ⟨fun d => dualTo d q.ra rs (opDualFlt c.mode1 (c.reg q.xa) (c.reg q.ya)), _, _, rfl, rfl, rfl, fun d => rfl⟩
  | _ => cases h

/-- Two results with their flags and sticky bits ORed are those of the two operations. -/
theorem dualTo_eq (c : PeIn) (ra rs : Reg) (p m : AluOut) :
    dualTo c ra rs (p.val, m.val, p.fl.or m.fl, p.stky ||| m.stky) =
      { writes := (aluTo c ra p).writes ++ (aluTo c rs m).writes, mr := none
        astat := (aluTo c ra p).astat ||| (aluTo c rs m).astat
        stky := (aluTo c ra p).stky ||| (aluTo c rs m).stky } := by
  simp only [dualTo, aluTo, putAlu_or, List.singleton_append]

/-- Settles O34. -/
theorem multifunctionParts : Obligations.MultifunctionParts := by
  refine ⟨fun k m a c parts => ?_, fun rs ra x y c d p m pair => ?_⟩
  · obtain ⟨alu, f, g, both, mul, own, then'⟩ := computePe_parts c parts
    have flags : (computePe a c).astat = putAlu c.astat g := congrArg PeOut.astat own
    have result : computePe k c = { writes := (computePe m c).writes ++ (computePe a c).writes, mr := (computePe m c).mr
                                    astat := putAlu (putMul c.astat f) g
                                    stky := (computePe m c).stky ||| (computePe a c).stky } := by
      rw [both, PeOut.andThen]
      simp only [then', mul]
    obtain ⟨onAlu, onMul, rest⟩ := putAlu_putMul c.astat f g
    rw [result, flags, mul]
    exact ⟨rfl, rfl, onAlu, onMul, rest, rfl⟩
  · simp only [List.mem_cons, List.not_mem_nil, or_false, Prod.mk.injEq] at pair
    rcases pair with ⟨rfl, rfl, rfl⟩ | ⟨rfl, rfl, rfl⟩
    · exact dualTo_eq c ra rs _ _
    · exact dualTo_eq c ra rs _ _

end Sys2Proof.Machine
end

section
/-!
PROOF. Rows of the shifter and immediate shifts: what they leave in an element that they run in, and the flags of the shifter
(40_compute_move.md R262, R276, 47_shifter.md R531, R532).
-/
namespace Sys2Proof.Machine

variable {s u : State} {y : Bool} {o : PeOut} {i : Instr} {n : Reg}

/-! ### What a row of the shifter delivers -/

/-- A compute on both elements delivers its results in each that it runs in. -/
theorem State.Steady.delivers (h : s.Steady) (hy : y = true → s.simd = true) {f : PeIn → PeOut}
    (adv : s.Advanced (s.runPes s.begun f true s.simd) u) : Delivers s u y (f (s.peIn y)) := by
  obtain ⟨rest, -⟩ := adv
  have runs : (if y then s.simd else true) = true := by
    cases y with
    | false => rfl
    | true => exact hy rfl
  obtain ⟨-, -, mode, -, -⟩ := h.computed f true s.simd
  refine ⟨fun n => ?_, ?_, ?_⟩
  · have pe : u.pe y = (s.runPes s.begun f true s.simd).pe y := by rw [rest]; rfl
    have mode1 : u.reg.mode1 = s.reg.mode1 := by rw [rest]; exact mode
    rw [State.dreg, pe, mode1, State.pe_runPes, if_pos runs, h.begun_pe]
  · have astat : u.astat y = (s.runPes s.begun f true s.simd).astat y := by rw [rest]; rfl
    rw [astat, State.astat_runPes, if_pos runs]
  · have stky : u.stky y = (s.runPes s.begun f true s.simd).stky y := by rw [rest]; rfl
    rw [stky, State.stky_runPes, if_pos runs, BitVec.and_or_distrib_right, h.begun_stky, ← BitVec.and_or_distrib_right]

/-- An unconditional immediate shift delivers its results in PEx, and in SIMD mode in PEy. -/
theorem State.Steady.shiftImm_delivers (h : s.Steady) (hy : y = true → s.simd = true) (ex : BitVec 4) (op : ShImm)
    (data : BitVec 8) (rn rx : Reg) :
    ∃ u, exec (.shiftImm .always ex op data rn rx) s = .next u ∧ Delivers s u y (shImmPe op ex data rn rx (s.peIn y)) := by
  obtain ⟨u, run, adv⟩ := (conditionalComputeCompletes .always s h nofun).2 ex op data rn rx
  refine ⟨u, run, h.delivers hy ?_⟩
  have both : (s.simd && s.cond true .always) = s.simd := Bool.and_true _
  rw [both] at adv
  exact adv

theorem Delivers.dreg_shfTo {c : PeIn} {a : ShfOut} (h : Delivers s u y (shfTo c n a)) : u.dreg y n = a.val ++ 0#8 := by
  rw [h.dreg]
  show (((s.pe y).setReg s.reg.mode1 n (padded a.val)).reg s.reg.mode1 n) = _
  rw [ProcElem.reg_setReg, if_pos rfl]
  rfl

/-- A test writes no register. -/
theorem Delivers.dreg_none {a k : W32} (h : Delivers s u y ⟨[], none, a, k⟩) (n : Reg) :
    u.dreg y n = s.dreg y n := h.dreg n

/-! ### The flags of the shifter in ASTAT -/

/-- SV is bit 11, SZ bit 12, and SS bit 13 (R532). -/
theorem putShf_eq (a : W32) (z v s : Bool) : putShf a ⟨z, v, s⟩ =
    (a &&& ~~~0x3800#32) ||| (if v then 0x800 else 0) ||| (if z then 0x1000 else 0) ||| (if s then 0x2000 else 0) := by
  rw [putShf, putBits, BitVec.or_assoc, BitVec.or_assoc]
  congr 1
  cases z <;> cases v <;> cases s <;> decide

/-- SS is cleared by all but the exponent operations (R532). -/
theorem putShf_eq_of_ss (a : W32) (z v : Bool) : putShf a ⟨z, v, false⟩ =
    (a &&& ~~~0x3800#32) ||| (if v then 0x800 else 0) ||| (if z then 0x1000 else 0) := by
  rw [putShf_eq]
  exact BitVec.or_zero

theorem putShf_sv (a : W32) (f : ShfFlags) : (putShf a f).getLsbD 11 = f.sv := by
  obtain ⟨z, v, s⟩ := f
  rw [putShf_eq]
  cases z <;> cases v <;> cases s <;> simp [-BitVec.getLsbD_eq_getElem]

theorem putShf_ss (a : W32) (f : ShfFlags) : (putShf a f).getLsbD 13 = f.ss := by
  obtain ⟨z, v, s⟩ := f
  rw [putShf_eq]
  cases z <;> cases v <;> cases s <;> simp [-BitVec.getLsbD_eq_getElem]

/-- A shifter row that writes a register. -/
theorem State.Steady.shfRow_ends {y : Bool} (h : s.Steady) (hy : y = true → s.simd = true) {k : Compute} {a : ShfOut}
    (hi : i.compute? = some k) (hk : k.dualClash = false) (ha : computePe k (s.peIn y) = shfTo (s.peIn y) n a) :
    ∃ u, exec i s = .next u ∧ u.dreg y n = a.val ++ 0#8 ∧ u.astat y = putShf (s.astat y) a.fl := by
  obtain ⟨u, run, left⟩ := h.row_delivers hy hi hk
  rw [ha] at left
  exact ⟨u, run, left.dreg_shfTo, left.astat⟩

end Sys2Proof.Machine
end

section
/-!
PROOF. ShiftExact: a shift is a product or a quotient by a power of two, and the other operations move or change single bits
(47_shifter.md R534 to R542).
-/
namespace Sys2Proof.Machine

variable {s u : State} {y : Bool} {i : Instr} {n x : Reg}

/-! ### Shifts -/

/-- From 64 on a larger power of two makes no difference modulo 2^32. -/
theorem ofNat_mul_two_pow_min (a m : Nat) : BitVec.ofNat 32 (a * 2 ^ Nat.min m 64) = BitVec.ofNat 32 (a * 2 ^ m) := by
  rcases Nat.le_total m 64 with small | large
  · rw [show Nat.min m 64 = m from Nat.min_eq_left small]
  · have gone (k : Nat) (hk : 32 ≤ k) : BitVec.ofNat 32 (a * 2 ^ k) = 0 := by
      apply BitVec.eq_of_toNat_eq
      rw [BitVec.toNat_ofNat, show k = k - 32 + 32 by omega, Nat.pow_add, ← Nat.mul_assoc, Nat.mul_mod_left]
      rfl
    rw [show Nat.min m 64 = 64 from Nat.min_eq_right large, gone 64 (by decide), gone m (by omega)]

/-- A shift to the left multiplies, modulo 2^32. -/
theorem shiftLeft_shiftAmount (v : W32) {c : Int} (hc : 0 ≤ c) :
    v <<< shiftAmount c = BitVec.ofNat 32 (v.toNat * 2 ^ c.toNat) := by
  rw [shiftAmount, show c.natAbs = c.toNat by omega, ← ofNat_mul_two_pow_min]
  apply BitVec.eq_of_toNat_eq
  rw [BitVec.toNat_shiftLeft, Nat.shiftLeft_eq, BitVec.toNat_ofNat]

/-- The signed operand gives the same product. -/
theorem ofInt_toInt_mul (v : W32) (m : Nat) : BitVec.ofInt 32 (v.toInt * 2 ^ m) = BitVec.ofNat 32 (v.toNat * 2 ^ m) := by
  have power : ((2 ^ m : Nat) : Int) = 2 ^ m := by push_cast; rfl
  rw [BitVec.ofInt_mul, BitVec.ofInt_toInt, ← power, BitVec.ofInt_natCast, BitVec.ofNat_mul, BitVec.ofNat_toNat,
    BitVec.setWidth_eq]

/-- A quotient of a number by a power of two that exceeds it is zero or minus one. -/
theorem ediv_of_lt {v p : Int} (low : -p ≤ v) (high : v < p) : v / p = if v < 0 then -1 else 0 := by
  have pos : 0 < p := by omega
  split
  next => exact ((Int.ediv_emod_unique (q := -1) (r := v + p) pos).2 ⟨by ring, by omega, by omega⟩).1
  next => exact Int.ediv_eq_zero_of_lt (by omega) high

/-- From 64 on a larger power of two gives the same quotient of a number of 33 bits. -/
theorem ediv_two_pow_min {v : Int} (low : -2 ^ 32 ≤ v) (high : v < 2 ^ 32) (m : Nat) :
    v / 2 ^ Nat.min m 64 = v / 2 ^ m := by
  rcases Nat.le_total m 64 with small | large
  · rw [show Nat.min m 64 = m from Nat.min_eq_left small]
  · have beyond (k : Nat) (hk : 64 ≤ k) : v / 2 ^ k = if v < 0 then -1 else 0 := by
      have : (2 : Int) ^ 32 ≤ 2 ^ k := pow_le_pow_right₀ (by decide) (by omega)
      exact ediv_of_lt (by omega) (by omega)
    rw [show Nat.min m 64 = 64 from Nat.min_eq_right large, beyond 64 le_rfl, beyond m large]

/-- LSHIFT multiplies or divides the unsigned operand (R534). -/
theorem lshiftVal_eq (v : W32) (c : Int) :
    lshiftVal v c = BitVec.ofInt 32 (if 0 ≤ c then v.toNat * 2 ^ c.toNat else v.toNat / 2 ^ (-c).toNat) := by
  unfold lshiftVal
  split
  next left =>
    rw [shiftLeft_shiftAmount v left, ← BitVec.ofInt_natCast]
    push_cast
    rfl
  next right =>
    have amount : shiftAmount c = Nat.min (-c).toNat 64 := by rw [shiftAmount, show c.natAbs = (-c).toNat by omega]
    have bound := v.isLt
    rw [amount, ← ediv_two_pow_min (by omega) (by omega)]
    have quotient : (v.toNat : Int) / 2 ^ Nat.min (-c).toNat 64 = ((v.toNat / 2 ^ Nat.min (-c).toNat 64 : Nat) : Int) := by
      push_cast
      rfl
    rw [quotient, BitVec.ofInt_natCast]
    apply BitVec.eq_of_toNat_eq
    rw [BitVec.toNat_ushiftRight, Nat.shiftRight_eq_div_pow, BitVec.toNat_ofNat,
      Nat.mod_eq_of_lt (Nat.lt_of_le_of_lt (Nat.div_le_self _ _) bound)]

/-- ASHIFT multiplies or divides the signed operand, rounded down (R536). -/
theorem ashiftVal_eq (v : W32) (c : Int) :
    ashiftVal v c = BitVec.ofInt 32 (if 0 ≤ c then v.toInt * 2 ^ c.toNat else v.toInt / 2 ^ (-c).toNat) := by
  unfold ashiftVal
  split
  next left => rw [shiftLeft_shiftAmount v left, ofInt_toInt_mul]
  next right =>
    have amount : shiftAmount c = Nat.min (-c).toNat 64 := by rw [shiftAmount, show c.natAbs = (-c).toNat by omega]
    obtain ⟨low, high⟩ := toInt_range v
    rw [amount, ← ediv_two_pow_min (by omega) (by omega), ← BitVec.ofInt_toInt (x := v.sshiftRight _),
      BitVec.toInt_sshiftRight, Int.shiftRight_eq_div_pow]
    push_cast
    rfl

/-- The outcome of a shift, ORed with `z` (R534 to R537). -/
def shiftOut (z : W32) (v c : Int) : ShfOut :=
  let r := BitVec.ofInt 32 (if 0 ≤ c then v * 2 ^ c.toNat else v / 2 ^ (-c).toNat)
  ⟨z ||| r, ⟨r == 0, decide (0 < c), false⟩⟩

theorem opLshift_eq (v : W32) (q : ShfY) : opLshift v q = shiftOut 0 v.toNat q.s := by
  simp only [opLshift, shiftOut, lshiftVal_eq, BitVec.ofNat_eq_ofNat, BitVec.zero_or, gt_iff_lt]

theorem opOrLshift_eq (z v : W32) (q : ShfY) : opOrLshift z v q = shiftOut z v.toNat q.s := by
  simp only [opOrLshift, shiftOut, lshiftVal_eq, gt_iff_lt]

theorem opAshift_eq (v : W32) (q : ShfY) : opAshift v q = shiftOut 0 v.toInt q.s := by
  simp only [opAshift, shiftOut, ashiftVal_eq, BitVec.ofNat_eq_ofNat, BitVec.zero_or, gt_iff_lt]

theorem opOrAshift_eq (z v : W32) (q : ShfY) : opOrAshift z v q = shiftOut z v.toInt q.s := by
  simp only [opOrAshift, shiftOut, ashiftVal_eq, gt_iff_lt]

/-- A register form whose outcome is known delivers it. -/
theorem State.Steady.shBin_delivers (h : s.Steady) (hy : y = true → s.simd = true) {op : ShBin} {m r x : Reg} {o : ShfOut}
    (hi : i.compute? = some (.shBin op m r x))
    (ho : shBin op ((s.peIn y).fix m) ((s.peIn y).fix r) (.ofReg ((s.peIn y).fix x)) = o) :
    ∃ u, exec i s = .next u ∧ Delivers s u y (shfTo (s.peIn y) m o) := by
  rw [← ho]
  exact h.row_delivers hy hi rfl

/-- An immediate form whose outcome is known delivers it. -/
theorem State.Steady.shImm_delivers (h : s.Steady) (hy : y = true → s.simd = true) {op : ShBin} {ex : BitVec 4}
    {d : BitVec 8} {m r : Reg} {o : ShfOut} (ho : shBin op ((s.peIn y).fix m) ((s.peIn y).fix r) (.ofImm ex d) = o) :
    ∃ u, exec (.shiftImm .always ex (.bin op) d m r) s = .next u ∧ Delivers s u y (shfTo (s.peIn y) m o) := by
  rw [← ho]
  exact h.shiftImm_delivers hy ex (.bin op) d m r

/-- Every shift delivers its outcome, in its register form and in its immediate one. -/
theorem State.Steady.shift_delivers (h : s.Steady) (hy : y = true → s.simd = true) {v c : Int} {z : W32}
    (hi : i.shift? (s.peIn y) = some (n, v, c, z)) :
    ∃ u, exec i s = .next u ∧ Delivers s u y (shfTo (s.peIn y) n (shiftOut z v c)) := by
  unfold Instr.shift? at hi
  split at hi
  case h_1 => cases hi; exact h.shBin_delivers hy rfl (opLshift_eq _ _)
  case h_2 => cases hi; exact h.shBin_delivers hy rfl (opOrLshift_eq _ _ _)
  case h_3 => cases hi; exact h.shBin_delivers hy rfl (opAshift_eq _ _)
  case h_4 => cases hi; exact h.shBin_delivers hy rfl (opOrAshift_eq _ _ _)
  case h_5 => cases hi; exact h.shImm_delivers hy (opLshift_eq _ _)
  case h_6 => cases hi; exact h.shImm_delivers hy (opOrLshift_eq _ _ _)
  case h_7 => cases hi; exact h.shImm_delivers hy (opAshift_eq _ _)
  case h_8 => cases hi; exact h.shImm_delivers hy (opOrAshift_eq _ _ _)
  case h_9 => cases hi

/-! ### Rotation and single bits -/

/-- What a shifter operation on a field, a bit or a word does with the Y operand `q`. -/
def shfPe (op : ShImm) (n x : Reg) (q : ShfY) (c : PeIn) : PeOut :=
  match op with
  | .bin o => shfTo c n (shBin o (c.fix n) (c.fix x) q)
  | .btst => ⟨[], none, putShf c.astat (opBtst (c.fix x) q), 0⟩

/-- The Y operand of a register (R531 (a)). -/
theorem ofReg_eq (v : W32) : ShfY.ofReg v = ⟨v.toInt, v.toNat % 64, v.toNat / 64 % 64⟩ := by
  simp only [ShfY.ofReg, BitVec.extractLsb'_toNat, Nat.shiftRight_eq_div_pow, Nat.pow_zero, Nat.div_one]

/-- The Y operand of an immediate (R531 (b)). -/
theorem ofImm_eq (ex : BitVec 4) (d : BitVec 8) :
    ShfY.ofImm ex d = ⟨d.toInt, d.toNat % 64, ex.toNat * 4 + d.toNat / 64⟩ := by
  have length : (ex ++ d.extractLsb' 6 2).toNat = ex.toNat * 4 + d.toNat / 64 := by
    rw [BitVec.toNat_append, BitVec.extractLsb'_toNat, Nat.shiftRight_eq_div_pow, ← Nat.shiftLeft_add_eq_or_of_lt
      (Nat.mod_lt _ (by decide)), Nat.shiftLeft_eq]
    omega
  rw [ShfY.ofImm, length, BitVec.extractLsb'_toNat]
  rfl

/-- Every operation delivers its results, in its register form and in its immediate one. -/
theorem State.Steady.shifter_delivers (h : s.Steady) (hy : y = true → s.simd = true) {op : ShImm} {c : Int} {bit6 len6 : Nat}
    (hi : i.shifter? (s.peIn y) = some (op, n, x, c, bit6, len6)) :
    ∃ u, exec i s = .next u ∧ Delivers s u y (shfPe op n x ⟨c, bit6, len6⟩ (s.peIn y)) := by
  have row {i : Instr} {op : ShBin} {m r q : Reg} (hi : i.compute? = some (.shBin op m r q)) :
      ∃ u, exec i s = .next u ∧ Delivers s u y (shfPe (.bin op) m r
        ⟨((s.peIn y).fix q).toInt, ((s.peIn y).fix q).toNat % 64, ((s.peIn y).fix q).toNat / 64 % 64⟩ (s.peIn y)) :=
    h.shBin_delivers hy hi (by rw [ofReg_eq])
  unfold Instr.shifter? at hi
  split at hi
  case h_5 =>
    cases hi
    rw [← ofReg_eq]
    exact h.row_delivers hy (k := .btst _ _) rfl rfl
  case h_12 ex _ d _ _ =>
    cases hi
    rw [← ofImm_eq]
    exact h.shiftImm_delivers hy ex _ d _ _
  case h_13 => cases hi
  all_goals
    cases hi
    exact row rfl

/-- An operation of two operands delivers its outcome. -/
theorem State.Steady.shifter_ends (h : s.Steady) (hy : y = true → s.simd = true) {op : ShBin} {c : Int} {bit6 len6 : Nat}
    (hi : i.shifter? (s.peIn y) = some (.bin op, n, x, c, bit6, len6)) {r : W32} {z v : Bool}
    (ho : shBin op ((s.peIn y).fix n) ((s.peIn y).fix x) ⟨c, bit6, len6⟩ = ⟨r, ⟨z, v, false⟩⟩) :
    ∃ u, exec i s = .next u ∧ u.dreg y n = r ++ 0#8 ∧
      u.astat y = (s.astat y &&& ~~~0x3800#32) ||| (if v then 0x800 else 0) ||| (if z then 0x1000 else 0) := by
  obtain ⟨u, run, left⟩ := h.shifter_delivers hy hi
  simp only [shfPe, ho] at left
  exact ⟨u, run, left.dreg_shfTo, left.astat.trans (putShf_eq_of_ss _ _ _)⟩

/-- ROT moves bit `j - c` to bit `j` (R538). -/
theorem getLsbD_rot (v : W32) (c : Int) {j : Nat} (hj : j < 32) :
    (v.rotateLeft (c % 32).toNat).getLsbD j = v.getLsbD (((j : Int) - c) % 32).toNat := by
  have turn : (c % 32).toNat % 32 = (c % 32).toNat := by omega
  rw [BitVec.getLsbD_rotateLeft, turn, Bool.cond_decide]
  split
  next low => rw [show 32 - (c % 32).toNat + j = (((j : Int) - c) % 32).toNat by omega]
  next high =>
    rw [decide_eq_true hj, Bool.true_and, show j - (c % 32).toNat = (((j : Int) - c) % 32).toNat by omega]

/-- The mask has the bit at the position, if it is one of a word (R539). -/
theorem getLsbD_bitMask (c : Int) {j : Nat} (hj : j < 32) : (bitMask c).getLsbD j = decide (c = j) := by
  unfold bitMask
  split
  next on =>
    rw [BitVec.getLsbD_shiftLeft, BitVec.getLsbD_one, decide_eq_true hj, Bool.eq_iff_iff]
    simp
    omega
  next off =>
    have : ¬ c = j := by omega
    simp [this]

/-- A bit of the word is set where the mask meets it, and the position is inside (R542). -/
theorem and_bitMask_eq_zero (v : W32) (c : Int) :
    (v &&& bitMask c == 0) = !decide (0 ≤ c ∧ v.getLsbD c.toNat = true) := by
  rw [Bool.eq_iff_iff, beq_iff_eq, Bool.not_eq_true', decide_eq_false_iff_not]
  constructor
  · rintro zero ⟨pos, set⟩
    have inside : c.toNat < 32 := BitVec.lt_of_getLsbD set
    have bit := congrArg (fun w : W32 => w.getLsbD c.toNat) zero
    simp only [BitVec.getLsbD_and, set, getLsbD_bitMask c inside, Int.toNat_of_nonneg pos, decide_true,
      BitVec.ofNat_eq_ofNat, BitVec.getLsbD_zero] at bit
    cases bit
  · intro unset
    refine BitVec.eq_of_getLsbD_eq fun j hj => ?_
    rw [BitVec.getLsbD_and, getLsbD_bitMask c hj]
    by_cases here : c = j
    · have clear : v.getLsbD j = false := by
        rw [← Bool.not_eq_true]
        exact fun set => unset ⟨by omega, by rwa [here, Int.toNat_natCast]⟩
      rw [clear, Bool.false_and]
      exact BitVec.getLsbD_zero.symm
    · rw [decide_eq_false here, Bool.and_false]
      exact BitVec.getLsbD_zero.symm

theorem offScale_eq (c : Int) : offScale c = decide (c < 0 ∨ 31 < c) := by
  rw [offScale, Bool.decide_or]

/-- An operation that changes a single bit by `f` (R539 to R541). -/
theorem State.Steady.bit_ends (h : s.Steady) (hy : y = true → s.simd = true) {op : ShBin} {c : Int} {bit6 len6 : Nat}
    (hi : i.shifter? (s.peIn y) = some (.bin op, n, x, c, bit6, len6)) {f : Bool → Bool} {r : W32}
    (ho : shBin op ((s.peIn y).fix n) ((s.peIn y).fix x) ⟨c, bit6, len6⟩ = ⟨r, ⟨r == 0, offScale c, false⟩⟩)
    (hr : ∀ j, j < 32 → r.getLsbD j =
      if decide (c = j) then f (((s.peIn y).fix x).getLsbD j) else ((s.peIn y).fix x).getLsbD j) :
    ∃ u, ∃ r : W32, exec i s = .next u ∧ u.dreg y n = r ++ 0#8 ∧
      (∀ j : Nat, j < 32 → r.getLsbD j =
        if c = j then f (((s.peIn y).fix x).getLsbD j) else ((s.peIn y).fix x).getLsbD j) ∧
      u.astat y = (s.astat y &&& ~~~0x3800#32) ||| (if c < 0 ∨ 31 < c then 0x800 else 0) |||
        (if r = 0 then 0x1000 else 0) := by
  obtain ⟨u, run, dest, flags⟩ := h.shifter_ends hy hi ho
  refine ⟨u, r, run, dest, fun j hj => by simpa only [decide_eq_true_eq] using hr j hj, flags.trans ?_⟩
  simp only [offScale_eq, decide_eq_true_eq, beq_iff_eq]

/-- Settles O26. -/
theorem shiftExact : Obligations.ShiftExact := by
  constructor
  · intro i s y n v c z h hy hi r
    obtain ⟨u, run, left⟩ := h.shift_delivers hy hi
    refine ⟨u, run, left.dreg_shfTo, ?_⟩
    rw [left.astat]
    show putShf (s.astat y) ⟨r == 0, decide (0 < c), false⟩ = _
    rw [putShf_eq_of_ss]
    simp only [decide_eq_true_eq, beq_iff_eq]
  · intro i op n x c bit6 len6 s y h hy hi v base off
    refine ⟨?_, ?_, ?_⟩
    · rintro rfl
      obtain ⟨u, run, dest, flags⟩ := h.shifter_ends hy hi rfl
      refine ⟨u, _, run, dest, fun j hj => getLsbD_rot v c hj, flags.trans ?_⟩
      simp [base]
    · rintro f (⟨rfl, rfl⟩ | ⟨rfl, rfl⟩ | ⟨rfl, rfl⟩)
      · refine h.bit_ends hy hi (f := fun _ => false) rfl fun j hj => ?_
        rw [BitVec.getLsbD_and, BitVec.getLsbD_not, getLsbD_bitMask c hj, decide_eq_true hj]
        cases decide (c = j) <;> simp
      · refine h.bit_ends hy hi (f := fun _ => true) rfl fun j hj => ?_
        rw [BitVec.getLsbD_or, getLsbD_bitMask c hj]
        cases decide (c = j) <;> simp
      · refine h.bit_ends hy hi rfl fun j hj => ?_
        rw [BitVec.getLsbD_xor, getLsbD_bitMask c hj]
        cases decide (c = j) <;> simp
    · rintro rfl
      obtain ⟨u, run, left⟩ := h.shifter_delivers hy hi
      refine ⟨u, run, left.dreg_none, left.astat.trans ?_⟩
      show putShf (s.astat y) ⟨v &&& bitMask c == 0, offScale c, false⟩ = _
      rw [putShf_eq_of_ss, and_bitMask_eq_zero, offScale_eq]
      simp only [Bool.not_eq_true', decide_eq_false_iff_not, ite_not, decide_eq_true_eq, base, off]

end Sys2Proof.Machine
end

section
/-!
PROOF. FieldBits: deposited and extracted fields bit by bit (47_shifter.md R543 to R548).
-/
namespace Sys2Proof.Machine

variable {s : State} {y : Bool} {i : Instr} {n x : Reg} (v z : W32) (q : ShfY)

/-- FDEP puts the field's bit `j - bit6` at bit `j` (R543). -/
theorem getLsbD_fdepVal {j : Nat} (hj : j < 32) :
    (fdepVal v q).getLsbD j = true ↔ q.bit6 ≤ j ∧ j < q.bit6 + q.len6 ∧ v.getLsbD (j - q.bit6) = true := by
  have field : (fdepVal v q).getLsbD j = (lowField v q.len6 <<< q.bit6).testBit j := by
    rw [fdepVal, BitVec.getLsbD_ofNat, decide_eq_true hj, Bool.true_and]
  rw [field, Nat.testBit_shiftLeft, lowField, Nat.testBit_mod_two_pow, BitVec.testBit_toNat]
  simp only [Bool.and_eq_true, decide_eq_true_eq, ge_iff_le]
  constructor
  · rintro ⟨above, below, set⟩
    exact ⟨above, by omega, set⟩
  · rintro ⟨above, below, set⟩
    exact ⟨above, by omega, set⟩

/-- The bits from `k` up. -/
theorem getLsbD_upward (k : Nat) {j : Nat} (hj : j < 32) : (BitVec.allOnes 32 <<< k).getLsbD j = decide (k ≤ j) := by
  rw [BitVec.getLsbD_shiftLeft, BitVec.getLsbD_allOnes, decide_eq_true hj, decide_eq_true (show j - k < 32 by omega),
    Bool.eq_iff_iff]
  simp

/-- FDEP (SE) repeats the field's top bit above it (R545). -/
theorem getLsbD_fdepSeVal {j : Nat} (hj : j < 32) :
    (fdepSeVal v q).getLsbD j = true ↔
      (q.bit6 ≤ j ∧ j < q.bit6 + q.len6 ∧ v.getLsbD (j - q.bit6) = true) ∨
        (0 < q.len6 ∧ q.bit6 + q.len6 ≤ j ∧ v.getLsbD (q.len6 - 1) = true) := by
  rw [← getLsbD_fdepVal v q hj]
  unfold fdepSeVal
  split
  next top =>
    rw [Bool.and_eq_true, decide_eq_true_eq] at top
    rw [BitVec.getLsbD_or, getLsbD_upward _ hj, Bool.or_eq_true, decide_eq_true_eq]
    simp only [top, true_and, and_true]
  next plain =>
    rw [Bool.and_eq_true, decide_eq_true_eq] at plain
    constructor
    · exact .inl
    · rintro (field | ⟨some, -, set⟩)
      · exact field
      · exact absurd ⟨some, set⟩ plain

/-- FEXT takes bit `bit6 + j` to bit `j` (R547). -/
theorem getLsbD_fextVal {j : Nat} (hj : j < 32) :
    (fextVal v q).getLsbD j = true ↔ j < q.len6 ∧ v.getLsbD (q.bit6 + j) = true := by
  have field : (fextVal v q).getLsbD j = ((v.toNat >>> q.bit6) % 2 ^ q.len6).testBit j := by
    rw [fextVal, BitVec.getLsbD_ofNat, decide_eq_true hj, Bool.true_and]
  rw [field, Nat.testBit_mod_two_pow, Nat.testBit_shiftRight, BitVec.testBit_toNat]
  simp only [Bool.and_eq_true, decide_eq_true_eq]

/-- FEXT (SE) repeats the field's top bit above it, if the field is inside the word (R548). -/
theorem getLsbD_opFextSe {j : Nat} (hj : j < 32) :
    (opFextSe v q).val.getLsbD j = true ↔
      (j < q.len6 ∧ v.getLsbD (q.bit6 + j) = true) ∨
        (0 < q.len6 ∧ q.len6 ≤ j ∧ q.bit6 + q.len6 ≤ 32 ∧ v.getLsbD (q.bit6 + q.len6 - 1) = true) := by
  have inside : (!fieldOff q) = true ↔ q.bit6 + q.len6 ≤ 32 := by
    simp only [fieldOff, Bool.not_eq_true', decide_eq_false_iff_not]
    omega
  rw [← getLsbD_fextVal v q hj]
  unfold opFextSe
  dsimp only
  split
  next top =>
    rw [Bool.and_eq_true, Bool.and_eq_true, decide_eq_true_eq, inside] at top
    rw [BitVec.getLsbD_or, getLsbD_upward _ hj, Bool.or_eq_true, decide_eq_true_eq]
    simp only [top, true_and, and_true]
  next plain =>
    rw [Bool.and_eq_true, Bool.and_eq_true, decide_eq_true_eq, inside] at plain
    constructor
    · exact .inl
    · rintro (field | ⟨some, -, fits, set⟩)
      · exact field
      · exact absurd ⟨⟨some, fits⟩, set⟩ plain

/-- An operation on a field delivers its result, SV where the field reaches beyond bit 31, and SZ of the result. -/
theorem State.Steady.field_ends (h : s.Steady) (hy : y = true → s.simd = true) {op : ShBin} {c : Int} {bit6 len6 : Nat}
    (hi : i.shifter? (s.peIn y) = some (.bin op, n, x, c, bit6, len6)) {p : Nat → Prop} {r : W32}
    (ho : shBin op ((s.peIn y).fix n) ((s.peIn y).fix x) ⟨c, bit6, len6⟩ =
      ⟨r, ⟨r == 0, fieldOff ⟨c, bit6, len6⟩, false⟩⟩)
    (hp : ∀ j, j < 32 → (r.getLsbD j = true ↔ p j)) :
    ∃ u, ∃ r : W32, exec i s = .next u ∧ u.dreg y n = r ++ 0#8 ∧ (∀ j, j < 32 → (r.getLsbD j = true ↔ p j)) ∧
      u.astat y = (s.astat y &&& ~~~0x3800#32) ||| (if 32 < len6 + bit6 then 0x800 else 0) |||
        (if r = 0 then 0x1000 else 0) := by
  obtain ⟨u, run, dest, flags⟩ := h.shifter_ends hy hi ho
  refine ⟨u, r, run, dest, hp, flags.trans ?_⟩
  simp only [fieldOff, decide_eq_true_eq, beq_iff_eq]

/-- Settles O27. -/
theorem fieldBits : Obligations.FieldBits := by
  intro i op n x c bit6 len6 s y h hy hi v o moved filled taken grown p which
  have or_bit {a b : W32} {j : Nat} : (a ||| b).getLsbD j = true ↔ a.getLsbD j = true ∨ b.getLsbD j = true := by
    rw [BitVec.getLsbD_or, Bool.or_eq_true]
  rcases which with ⟨rfl, rfl⟩ | ⟨rfl, rfl⟩ | ⟨rfl, rfl⟩ | ⟨rfl, rfl⟩ | ⟨rfl, rfl⟩ | ⟨rfl, rfl⟩
  · exact h.field_ends hy hi rfl fun j hj => getLsbD_fdepVal v ⟨c, bit6, len6⟩ hj
  · exact h.field_ends hy hi rfl fun j hj => or_bit.trans (or_congr_right (getLsbD_fdepVal v ⟨c, bit6, len6⟩ hj))
  · exact h.field_ends hy hi rfl fun j hj => getLsbD_fdepSeVal v ⟨c, bit6, len6⟩ hj
  · exact h.field_ends hy hi rfl fun j hj => or_bit.trans (or_congr_right (getLsbD_fdepSeVal v ⟨c, bit6, len6⟩ hj))
  · exact h.field_ends hy hi rfl fun j hj => getLsbD_fextVal v ⟨c, bit6, len6⟩ hj
  · exact h.field_ends hy hi rfl fun j hj => getLsbD_opFextSe v ⟨c, bit6, len6⟩ hj

end Sys2Proof.Machine
end

section
/-!
PROOF. LeadingBits: the leading bits of a word, the exponent, and the 16-bit floating-point format (47_shifter.md R549 to R554).
-/
namespace Sys2Proof.Machine

variable {s : State} {y : Bool} {i : Instr} {n x : Reg} {v : W32} {c : Nat}

/-! ### Leading bits -/

/-- The leading zeros of a word end at its highest set bit (R551). -/
theorem leadingZeros_eq (hc : c ≤ 32) (zeros : ∀ j, j < c → v.getLsbD (31 - j) = false)
    (one : c < 32 → v.getLsbD (31 - c) = true) : leadingZeros v = c := by
  have clear (k : Nat) (hk : 32 - c ≤ k) : v.toNat.testBit k = false := by
    rw [BitVec.testBit_toNat]
    by_cases inside : k < 32
    · have := zeros (31 - k) (by omega)
      rwa [show 31 - (31 - k) = k by omega] at this
    · exact BitVec.getLsbD_of_ge _ _ (by omega)
  have small : v.toNat < 2 ^ (32 - c) := Nat.lt_pow_two_of_testBit _ clear
  unfold leadingZeros
  by_cases all : c = 32
  · subst all
    have zero : v = 0 := BitVec.eq_of_toNat_eq (by simpa using small)
    rw [if_pos zero]
  · have large : 2 ^ (31 - c) ≤ v.toNat := Nat.ge_two_pow_of_testBit (by
      rw [BitVec.testBit_toNat]
      exact one (by omega))
    have pos : v.toNat ≠ 0 := by
      have := Nat.two_pow_pos (31 - c)
      omega
    have log : v.toNat.log2 = 31 - c := (Nat.log2_eq_iff pos).2 ⟨large, by rwa [show 31 - c + 1 = 32 - c by omega]⟩
    have nonzero : v ≠ 0 := by
      rintro rfl
      exact pos rfl
    rw [if_neg nonzero, log]
    omega

/-- Only zero has 32 leading zeros. -/
theorem leadingZeros_eq_width : leadingZeros v = 32 ↔ v = 0 := by
  unfold leadingZeros
  split
  next zero => exact iff_of_true rfl zero
  next some => exact iff_of_false (by omega) some

/-- The first `c` bits of the word, from bit 31 down, are `b`, and the next one is not. -/
def LeadingRun (v : W32) (b : Bool) (c : Nat) : Prop :=
  c ≤ 32 ∧ (∀ j, j < c → v.getLsbD (31 - j) = b) ∧ (c < 32 → v.getLsbD (31 - c) = !b)

theorem LeadingRun.zeros (h : LeadingRun v false c) : leadingZeros v = c := leadingZeros_eq h.1 h.2.1 h.2.2

/-- Leading ones are the leading zeros of the complement (R552). -/
theorem LeadingRun.ones (h : LeadingRun v true c) : leadingZeros (~~~v) = c := by
  obtain ⟨width, run, stop⟩ := h
  refine leadingZeros_eq width (fun j hj => ?_) fun hc => ?_
  · rw [BitVec.getLsbD_not, run j hj]
    exact Bool.and_false _
  · rw [BitVec.getLsbD_not, stop hc, decide_eq_true (show 31 - c < 32 by omega)]
    rfl

theorem LeadingRun.msb {b : Bool} (h : LeadingRun v b c) (hc : 1 ≤ c) : v.msb = b :=
  (BitVec.msb_eq_getLsbD_last v).trans (h.2.1 0 hc)

/-- The exponent is minus the number of leading sign bits but one (R549). -/
theorem LeadingRun.expVal {b : Bool} (h : LeadingRun v b c) (hc : 1 ≤ c) : expVal v = BitVec.ofInt 32 (1 - (c : Int)) := by
  have count : leadingZeros (if v.msb then ~~~v else v) = c := by
    rw [h.msb hc]
    cases b with
    | false => exact h.zeros
    | true => exact h.ones
  have minus : 1 - (c : Int) = -((c - 1 : Nat) : Int) := by omega
  rw [Machine.expVal, count, minus, BitVec.ofInt_neg, BitVec.ofInt_natCast]

/-! ### The 16-bit format -/

/-- What FPACK delivers, the magnitude in one number: the rounded significand carries into the exponent (R553). -/
theorem fpackVal_eq (e : Nat) {f m : Nat} (hf : f < 2 ^ 23)
    (hm : m = nearestEven (2 ^ 23 + f) (if 120 < e then 12 else 133 - e)) :
    fpackVal e f =
      (if 135 < e ∨ 120 < e ∧ 32768 ≤ (e - 121) * 2048 + m then 0x7FFF
        else if 120 < e then (e - 121) * 2048 + m else if 109 < e then m else 0,
        decide (135 < e ∨ 120 < e ∧ 32768 ≤ (e - 121) * 2048 + m)) := by
  unfold fpackVal
  by_cases huge : 135 < e
  · simp [huge]
  · by_cases normal : 120 < e
    · rw [if_pos normal] at hm
      have rounded : IsRounded false (2 ^ 23 + f) 12 m := hm ▸ isRounded_roundShift false _ _
      obtain ⟨low, high, -⟩ := rounded
      have range : 2048 ≤ m ∧ m ≤ 4096 := by omega
      have carry : (if m = 4096 then e - 119 else e - 120) * 2048 + m % 2048 = (e - 121) * 2048 + m := by
        split <;> omega
      have overflow : 15 < (if m = 4096 then e - 119 else e - 120) ↔ 32768 ≤ (e - 121) * 2048 + m := by
        split <;> omega
      simp only [huge, normal, if_true, if_false, ← hm, overflow, carry, true_and, false_or]
      split
      next big => rw [decide_eq_true big]
      next fits => rw [decide_eq_false fits]
    · rw [if_neg normal] at hm
      simp only [huge, normal, if_false, ← hm, false_and, or_self, decide_false]
      split <;> rfl

/-- The fields of a single-precision word put together. -/
theorem word_fields {b : Bool} {w : BitVec 31} {r : W32} (hr : r = BitVec.ofBool b ++ w) :
    r.msb = b ∧ (r.extractLsb' 23 8).toNat = w.toNat / 2 ^ 23 ∧ (r.extractLsb' 0 23).toNat = w.toNat % 2 ^ 23 := by
  subst hr
  have bound := w.isLt
  have whole : (BitVec.ofBool b ++ w).toNat = b.toNat * 2 ^ 31 + w.toNat := by
    rw [BitVec.toNat_append, ← Nat.shiftLeft_add_eq_or_of_lt bound, Nat.shiftLeft_eq, BitVec.toNat_ofBool]
  have low : w.toNat / 2 ^ 23 < 2 ^ 8 := by omega
  refine ⟨?_, ?_, ?_⟩
  · rw [BitVec.msb_append]
    cases b <;> rfl
  · rw [BitVec.extractLsb'_toNat, whole, Nat.shiftRight_eq_div_pow]
    omega
  · rw [BitVec.extractLsb'_toNat, whole, Nat.shiftRight_zero]
    omega

/-- Exponent and fraction as one number. -/
theorem toNat_exponent_fraction {e : Nat} (f : Nat) (he : e < 2 ^ 8) :
    (BitVec.ofNat 8 e ++ BitVec.ofNat 23 f : BitVec 31).toNat = e * 2 ^ 23 + f % 2 ^ 23 := by
  have hf : f % 2 ^ 23 < 2 ^ 23 := Nat.mod_lt _ (by decide)
  rw [BitVec.toNat_append, BitVec.toNat_ofNat, BitVec.toNat_ofNat, Nat.mod_eq_of_lt he,
    ← Nat.shiftLeft_add_eq_or_of_lt hf, Nat.shiftLeft_eq]

/-- A denormalised fraction moved up until its highest bit is the hidden one (R554). -/
theorem normalised_fraction {f : Nat} (some : f ≠ 0) (hf : f < 2 ^ 11) :
    f.log2 ≤ 10 ∧ 2 ^ 23 + f * 2 ^ (10 - f.log2 + 13) % 2 ^ 23 = f * 2 ^ (10 - f.log2 + 13) := by
  have low : 2 ^ f.log2 ≤ f := Nat.log2_self_le some
  have high : f < 2 ^ (f.log2 + 1) := Nat.lt_log2_self
  have top : f.log2 ≤ 10 :=
    Nat.lt_succ_iff.1 ((Nat.pow_lt_pow_iff_right (a := 2) (by decide)).1 (by omega : 2 ^ f.log2 < 2 ^ 11))
  refine ⟨top, ?_⟩
  have above : 2 ^ 23 ≤ f * 2 ^ (10 - f.log2 + 13) := by
    calc 2 ^ 23 = 2 ^ f.log2 * 2 ^ (10 - f.log2 + 13) := by rw [← Nat.pow_add]; congr 1; omega
      _ ≤ _ := Nat.mul_le_mul_right _ low
  have below : f * 2 ^ (10 - f.log2 + 13) < 2 ^ 24 := by
    calc f * 2 ^ (10 - f.log2 + 13) < 2 ^ (f.log2 + 1) * 2 ^ (10 - f.log2 + 13) :=
          Nat.mul_lt_mul_of_pos_right high (Nat.two_pow_pos _)
      _ = 2 ^ 24 := by rw [← Nat.pow_add]; congr 1; omega
  omega

/-- What FUNPACK delivers of a word with exponent field `e` and fraction `f` (R554). -/
theorem funpackVal_fields (h : W16) :
    let e := (h.extractLsb' 11 4).toNat
    let f := (h.extractLsb' 0 11).toNat
    let r := funpackVal h
    let e1 := (r.extractLsb' 23 8).toNat
    let f1 := (r.extractLsb' 0 23).toNat
    r.msb = h.msb ∧ (0 < e → e1 = 120 + e ∧ f1 = f * 2 ^ 12) ∧ (e = 0 → f = 0 → e1 = 0 ∧ f1 = 0) ∧
      (e = 0 → f ≠ 0 → 109 < e1 ∧ e1 ≤ 120 ∧ 2 ^ 23 + f1 = f * 2 ^ (133 - e1)) := by
  intro e f r e1 f1
  have he : e < 2 ^ 4 := (h.extractLsb' 11 4).isLt
  have hf : f < 2 ^ 11 := (h.extractLsb' 0 11).isLt
  have whole : r = BitVec.ofBool h.msb ++
      (if e > 0 then BitVec.ofNat 8 (120 + e) ++ BitVec.ofNat 23 (f <<< 12)
        else if f = 0 then 0#31
        else BitVec.ofNat 8 (120 - (10 - f.log2)) ++ BitVec.ofNat 23 (f <<< (10 - f.log2 + 13))) := rfl
  obtain ⟨sign, exponent, fraction⟩ := word_fields whole
  change e1 = _ at exponent
  change f1 = _ at fraction
  refine ⟨sign, fun normal => ?_, fun zero none => ?_, fun zero some => ?_⟩
  · rw [if_pos normal, toNat_exponent_fraction _ (by omega), Nat.shiftLeft_eq] at exponent fraction
    omega
  · rw [if_neg (by omega), if_pos none] at exponent fraction
    exact ⟨exponent, fraction⟩
  · obtain ⟨top, normalised⟩ := normalised_fraction some hf
    rw [if_neg (by omega), if_neg some, toNat_exponent_fraction _ (by omega), Nat.shiftLeft_eq] at exponent fraction
    have place : 133 - e1 = 10 - f.log2 + 13 := by omega
    refine ⟨by omega, by omega, ?_⟩
    rw [place, ← normalised, fraction]
    omega

/-- A row with one operand. -/
theorem State.Steady.shUn_ends (h : s.Steady) (hy : y = true → s.simd = true) {op : ShUn}
    (hi : i.compute? = some (.shUn op n x)) : ∃ u, exec i s = .next u ∧
      u.dreg y n = (shUn (s.peIn y) op x).val ++ 0#8 ∧ u.astat y = putShf (s.astat y) (shUn (s.peIn y) op x).fl :=
  h.shfRow_ends hy hi rfl rfl

/-- Settles O28. -/
theorem leadingBits : Obligations.LeadingBits := by
  refine ⟨fun n x s y c b h hy => ?_, fun n x s y h hy => ?_, fun n x s y h hy => ?_⟩
  · intro v width all stop
    have run : LeadingRun v b c := ⟨width, all, stop⟩
    refine ⟨?_, fun hc => ?_, fun hc => ?_⟩
    · cases b with
      | false =>
        obtain ⟨u, exec, dest, flags⟩ := h.shUn_ends (i := .leftz n x) hy rfl
        refine ⟨u, exec, dest.trans ?_, ?_⟩
        · exact congrArg (fun k => BitVec.ofNat 32 k ++ 0#8) run.zeros
        · rw [flags, putShf_sv, ← run.zeros, leadingZeros_eq_width]
          exact beq_iff_eq
      | true =>
        obtain ⟨u, exec, dest, flags⟩ := h.shUn_ends (i := .lefto n x) hy rfl
        refine ⟨u, exec, dest.trans ?_, ?_⟩
        · exact congrArg (fun k => BitVec.ofNat 32 k ++ 0#8) run.ones
        · rw [flags, putShf_sv, ← run.ones, leadingZeros_eq_width]
          exact beq_iff_eq
    · obtain ⟨u, exec, dest, flags⟩ := h.shUn_ends (i := .exp n x) hy rfl
      refine ⟨u, exec, dest.trans ?_, ?_⟩
      · exact congrArg (· ++ 0#8) (run.expVal hc)
      · rw [flags, putShf_ss]
        rfl
    · obtain ⟨u, exec, dest, flags⟩ := h.shUn_ends (i := .expEx n x) hy rfl
      refine ⟨u, exec, dest.trans ?_, ?_⟩
      · rw [← run.expVal hc]
        rfl
      · rw [flags, putShf_ss, bne_comm]
        rfl
  · intro v e f
    obtain ⟨u, exec, dest, flags⟩ := h.shUn_ends (i := .fpack n x) hy rfl
    have packed := fpackVal_eq e (v.extractLsb' 0 23).isLt rfl
    refine ⟨u, nearestEven (2 ^ 23 + f) (if 120 < e then 12 else 133 - e), (fpackVal e f).1, exec, dest,
      isRounded_roundShift false _ _, congrArg Prod.fst packed, ?_⟩
    rw [flags]
    show putShf (s.astat y) ⟨false, (fpackVal e f).2, false⟩ = _
    rw [putShf_eq_of_ss, packed]
    simp only [decide_eq_true_eq, Bool.false_eq_true, if_false]
    exact BitVec.or_zero
  · intro v e f
    obtain ⟨u, exec, dest, flags⟩ := h.shUn_ends (i := .funpack n x) hy rfl
    have exponent : (v.extractLsb' 0 16).extractLsb' 11 4 = v.extractLsb' 11 4 := by
      ext j hj
      simp
    have fraction : (v.extractLsb' 0 16).extractLsb' 0 11 = v.extractLsb' 0 11 := by
      ext j hj
      simp
    have sign : (v.extractLsb' 0 16).msb = v.getLsbD 15 := by
      rw [BitVec.msb_eq_getLsbD_last]
      simp
    have fields := funpackVal_fields (v.extractLsb' 0 16)
    rw [exponent, fraction, sign] at fields
    obtain ⟨msb, magnitude⟩ := fields
    refine ⟨u, funpackVal (v.extractLsb' 0 16), exec, dest, msb, ?_, magnitude⟩
    rw [flags]
    show putShf (s.astat y) ⟨false, false, false⟩ = _
    rw [putShf_eq_of_ss]
    simp only [Bool.false_eq_true, if_false]
    exact BitVec.or_zero.trans BitVec.or_zero

end Sys2Proof.Machine
end
